-- ==== Sys2Proof/Word.lean ====
section
/-! DEFINITION. The machine's words: 32-bit registers (R12), 16-bit cell words (R5, R13), bytes, 36-bit fabric
addresses (R5). -/

namespace Sys2Proof

/-- A tile-level or cluster register (R12). -/
abbrev Word := BitVec 32
/-- A word of a Levain-16 cell (R13, R247). -/
abbrev Half := BitVec 16
/-- A byte of the fabric's memories (R5). -/
abbrev Byte := BitVec 8

end Sys2Proof
end

