-- ==== Sys2Proof/Syntax.lean ====
section
/-! DEFINITION. The commands of the tile: one constructor for every row of the operation and event table, with the
operands that the row's rule gives it. An event of the hardware whose outcome the spec leaves to the hardware (a fault,
a self-test, an edge on a pin, an arriving frame) carries that outcome as its operand (log entry 3). -/

namespace Sys2Proof

/-- Who makes a register access (R355, R389): a context of a cell, a DMA channel, a die-link requester ID, or the
starter loader. -/
inductive Writer
  | ctx (cl m : Fin 16) (c : Fin 8)
  | dma (cl : Fin 16) (k : Fin 4)
  | host (rid : Fin 16)
  | loader
  deriving DecidableEq, Repr

/-- A register pair as the access names it (R355): the fabric address of its low register, or the even word of an I/O
page. -/
inductive PairAddr
  | fab (a : BitVec 36)
  | io (a : Half)
  deriving DecidableEq, Repr

/-- The two counted signals of an encoder input (R46). -/
inductive QSig | a | b
  deriving DecidableEq, Repr

/-- An accepted edge: A changes, B changes, or both change in one sample (R46, illegal transition). -/
inductive QEdge | a | b | ab
  deriving DecidableEq, Repr

/-- By how many ticks a fault has put a decoder off, and for how many position cycles by now (R50). -/
structure Deviation where
  ticks : BitVec 16
  cycles : BitVec 8
  deriving DecidableEq, Repr

/-- What the loader finds of the flash (R426): it answers, its SFDP has the signature, with its revision and the log2 of its
density in bytes, and advertises octal or 1-4-4 reads. -/
structure FlashInfo where
  present : Bool
  sfdp : Bool
  revision : BitVec 8
  density : BitVec 8
  octal : Bool
  quad : Bool
  deriving DecidableEq, Repr

/-- What a scrub or test access finds in the words it reads (R173, R348, R349, R386): the bit slice of each word it corrects
(R172), and the places of the words that have become uncorrectable. -/
structure Found where
  corrected : List (Fin 72)
  bad : List (Fin 32)
  deriving DecidableEq, Repr

/-- What the load self-test finds (R435): failing line-store slices, failing pantry rows by cluster and bank, failing
local-RAM regions by cluster and cell, and whether a tile-store word fails. -/
structure SelfTest where
  slices : List (Fin 74)
  rows : List (Fin 16 × Fin 4)
  regions : List (Fin 16 × Fin 16)
  tileStore : Bool
  deriving DecidableEq, Repr

/-- The commands. Each docstring is the table row's. Prefix lv: a Levain-16 operation executed by cell m of cluster cl on
its RUNNING context. -/
inductive Instr
  /-- REGISTER_WRITE (R15). A write to a register that has no row of its own acts on its fields as their access codes say. -/
  | registerWrite (w : Writer) (a : BitVec 36) (v : Word)
  /-- PAIR_LOW_WRITE (R356). A write of the low register of a pair stores the value in the writer's stage and replaces any earlier staged value. -/
  | pairLowWrite (w : Writer) (p : PairAddr) (v : Word)
  /-- PAIR_HIGH_WRITE (R356). A write of the high register of a pair commits the staged low value together with the high value, or writes the high value alone. -/
  | pairHighWrite (w : Writer) (p : PairAddr) (v : Word)
  /-- PAIR_LOW_READ (R357). A read of the low register of a pair returns the value in effect and latches the high value for the reader. -/
  | pairLowRead (w : Writer) (p : PairAddr)
  /-- POS_LPERMIN_READ (R57). A read of POS_LPERMIN returns the shortest line period and resets the register to 0xFFFF_FFFF. -/
  | posLperminRead (w : Writer)
  /-- POS_ENCN_ERR_READ (R52). A read of POS_ENCn_ERR returns the error counts and clears them, which restores failover eligibility. -/
  | posEncErrRead (w : Writer) (n : Fin 4)
  /-- LST_OCCMAX_READ (R15). A read of LST_OCCMAX returns the largest occupancy and sets the field to the occupancy then in force. -/
  | lstOccmaxRead (w : Writer)
  /-- COD_MODES0_READ (R178). A read of COD_MODES0 latches COD_MODES1, COD_MODES2 and COD_LSIZE from the same line for the reader. -/
  | codModes0Read (w : Writer)
  /-- RESET_ASSERT (R478). A recognised low level on RESET_N puts the tile in COLD and starts the protective output path. -/
  | resetAssert
  /-- COLD_END (R478). COLD ends at the later of the 64th synchronised REFCLK edge and PLL lock, the die link trains and LOAD begins. -/
  | coldEnd (flash : FlashInfo)
  /-- SECTION_TABLE_READ (R430). The image header and section table have been read and are checked for malformation. -/
  | sectionTableRead (image : List Byte)
  /-- LOAD_SELF_TEST_END (R435). The load self-test ends, with failing slices, rows and regions replaced by spares or the load failed. -/
  | loadSelfTestEnd (r : SelfTest)
  /-- IMAGE_READ_COMPLETE (R432). The bulk read of sections and trailer ends, with every section written and the three digests computed. -/
  | imageReadComplete (image : List Byte)
  /-- VERIFY_COMPLETE (R433). Digest comparison, key hash, signature and rollback checks complete and accept or reject the copy. -/
  | verifyComplete
  /-- SLOT_CHECK_COMPLETE (R393). The check of class-0 slot collisions completes and passes the load or fails it. -/
  | slotCheckComplete
  /-- QUADRATURE_EDGE (R47). An accepted edge on A or B is decoded and counted, scaled into p, and updates velocity, predictions and reversal depth. -/
  | quadratureEdge (n : Fin 4) (e : QEdge)
  /-- HOLD_OFF_EXPIRY (R47). At the end of a hold-off interval the signal is sampled again and a glitch is undone by the opposite count. -/
  | holdOffExpiry (n : Fin 4) (g : QSig) (level : Bool)
  /-- ADAPTED_WIDTH_UPDATE (R48). After every 256 accepted edges the adapted filter width is recomputed from the shortest edge interval. -/
  | adaptedWidthUpdate (n : Fin 4)
  /-- GLITCH_FILTER_WRITE (R48). A write of POS_ENCn_GF sets the program width and OVR, which selects the width in use. -/
  | glitchFilterWrite (w : Writer) (n : Fin 4) (v : Word)
  /-- Z_EDGE (R49). An accepted Z edge checks the count since the last Z edge against ZCOUNT. -/
  | zEdge (n : Fin 4)
  /-- DECODER_DISAGREEMENT (R50). A difference between the two decoders that persists 4 position cycles sets DISAGREE and starts arbitration. A fault has put decoder `which` off by `dev`. -/
  | decoderDisagreement (which : Fin 2) (dev : Deviation)
  /-- ARBITRATION_END (R51). The replay through a third decoder keeps the agreeing decoder and issues the held boundaries, compares and strobes. `keep`: the one that stays in use where both agree, which R51 leaves open. -/
  | arbitrationEnd (keep : Fin 2)
  /-- FONOW (R52). A write of POS_CTL.FONOW requests failover to SEC under the failover conditions. -/
  | fonow (w : Writer)
  /-- DECRST (R52). A write of POS_CTL.DECRST returns a dropped decoder to service if it has agreed for 2^20 counts. -/
  | decrst (w : Writer)
  /-- REBASE (R59). A write of POS_CTL.REBASE in IDLE sets the high-water mark one below the current print line and starts a new epoch. -/
  | rebase (w : Writer)
  /-- STOP_DETECTION (R56). When no count has arrived for 2^24 position cycles, POS_VEL reads zero and STOPPED is set. -/
  | stopDetection
  /-- PREDICTED_FIRE (R69). A row group fires in predicted mode at the placed instant for its print line. -/
  | predictedFire (g : Fin 64)
  /-- EDGE_LOCKED_FIRE (R70). A row group fires in edge-locked mode 4.0 ns plus ELDLY after the count that takes p past the threshold. -/
  | edgeLockedFire (g : Fin 64)
  /-- PLACEMENT_CANCEL (R69). A predicted placement lying more than twice the last count interval after the last count is cancelled and re-armed at the next count. -/
  | placementCancel (g : Fin 64)
  /-- STROBE_PULSE_END (R205). A strobe pulse falls after WIDTH × 250 ps, or early before the next fire instant with STBSHORT. -/
  | strobePulseEnd (o : Fin 36)
  /-- EVENT_INPUT_CAPTURE (R66). A filtered edge on an event input is captured with its time and interpolated position and may raise its event source. -/
  | eventInputCapture (e : Fin 16) (rising : Bool)
  /-- CAPTURE_READ_OPEN (R67). A read of POS_EVn_TSL opens the read window and latches the rest of the capture set. -/
  | captureReadOpen (w : Writer) (e : Fin 16)
  /-- CAPTURE_READ_CLOSE (R67). A read of POS_EVn_PH closes the read window, and a shadowed capture lands. -/
  | captureReadClose (w : Writer) (e : Fin 16)
  /-- REGISTRATION_OVR_CLEAR (R77). Clearing POS_REGk_CTL.OVR resumes the servo from the c in force with i set from c. -/
  | registrationOvrClear (w : Writer) (k : Fin 8) (v : Word)
  /-- SSI_FRAME_COMPLETE (R78). An SSI frame ends, and its change is compared with Δp, with a deviation above TOL setting SSIDEV. -/
  | ssiFrameComplete (n : Fin 2) (raw : BitVec 40)
  /-- LINE_COMPOSED (R81). A slice finishes composing a line and raises its line-composed event source. -/
  | lineComposed (cl : Fin 16)
  /-- LANE_MISMATCH (R106). A lockstep mismatch at a chunk abandons the line, both lanes recompose it, or a second mismatch starts the self-test. -/
  | laneMismatch (cl : Fin 16)
  /-- LANE_SELF_TEST_END (R107). The lane self-test ends and fences a lane, keeps both, or stops the slice with NOLANE. -/
  | laneSelfTestEnd (cl : Fin 16) (pass0 pass1 : Bool)
  /-- PROOF_BANK_WRITE (R99). A write to a PS register goes to the proof bank, or is discarded with WREJ while a commit is pending. -/
  | proofBankWrite (w : Writer) (a : BitVec 36) (v : Word)
  /-- PROOF_SET_COMMIT_ISSUE (R100). A write of CMP_CMTGO issues a proof-set commit of line L to the masked clusters. -/
  | proofSetCommitIssue (w : Writer) (at_ : Option (Fin 16)) (mask : BitVec 16)
  /-- COMMIT_DECISION (R100). The commit unit decides a commit against the high-water mark and reports RESULT and the commit-result event. -/
  | commitDecision
  /-- PROOF_SET_COMMIT_ARRIVAL (R102). An accepted proof-set commit reaches a cluster, becomes pending and causes recomposition of lines at or above L already begun. -/
  | proofSetCommitArrival (cl : Fin 16)
  /-- STREAM_WP_WRITE (R87). A fabric write to CMP_STR_WP advances the stream write offset and moves the append point. -/
  | streamWpWrite (w : Writer) (v : Word)
  /-- STREAM_RESET (R90). A write of CMP_STR_CTL.RESET sets every slice's read offset to CMP_STR_WP and clears STRERR. -/
  | streamReset (w : Writer)
  /-- LINE_READY (R155). The codec writes the line's last segment and table entry, and the line becomes ready. -/
  | lineReady
  /-- PIPELINE_MISMATCH (R137). A conditioning lockstep mismatch reconditions the line, or on a second mismatch starts the pipeline self-test. -/
  | pipelineMismatch
  /-- PIPELINE_SELF_TEST_END (R137). The pipeline self-test ends and fences a pipeline, keeps both, or declares NOPIPE. -/
  | pipelineSelfTestEnd (pass0 pass1 : Bool)
  /-- CODEC_MISMATCH (R169). An encoder mismatch discards and re-encodes a segment, or on a second mismatch starts the encoder self-test. -/
  | codecMismatch
  /-- ENCODER_SELF_TEST_END (R169). The encoder self-test ends and fences an encoder, keeps both, or declares NOCODEC. -/
  | encoderSelfTestEnd (pass0 pass1 : Bool)
  /-- SETMISS (R126). NZL_UPD operation SETMISS sets MISS of a nozzle in the staged bank. -/
  | setmiss (w : Writer) (at_ : Option (Fin 16)) (v : Word)
  /-- CLRMISS (R126). NZL_UPD operation CLRMISS clears MISS of a nozzle in the staged bank. -/
  | clrmiss (w : Writer) (at_ : Option (Fin 16)) (v : Word)
  /-- SETTAB (R126). NZL_UPD operation SETTAB sets the remap table or TSEL of a nozzle in the staged bank. -/
  | settab (w : Writer) (at_ : Option (Fin 16)) (v : Word)
  /-- SETRULE (R126). NZL_UPD operation SETRULE sets the compensation rule of a width-3 nozzle, or is rejected for other widths. -/
  | setrule (w : Writer) (at_ : Option (Fin 16)) (v : Word)
  /-- NOZZLE_QUERY (R127). A write of NZL_QRY selects a nozzle and bank whose fields NZL_QDAT then returns. -/
  | nozzleQuery (w : Writer) (at_ : Option (Fin 16)) (v : Word)
  /-- NOZZLE_MAP_COMMIT_ISSUE (R128). A write of NZL_CMTGO issues a nozzle-map commit of line L to every composing cluster. -/
  | nozzleMapCommitIssue (w : Writer) (at_ : Option (Fin 16))
  /-- NOZZLE_MAP_COMMIT_ARRIVAL (R129). An accepted nozzle-map commit becomes pending and lines at or above L already composed are recomposed. -/
  | nozzleMapCommitArrival
  /-- NOZZLE_STATUS_RECORD (R133). A nozzle status record is converted and written into the status ring, or dropped or discarded. -/
  | nozzleStatusRecord
  /-- AUTOMISS_CLEAR (R134). Clearing NZL_CFG.AUTOMISS stops the hardware retries at once. -/
  | automissClear (w : Writer) (v : Word)
  /-- LINE_STORE_SCRUB (R173). The scrubber reads one line-store block every PER core cycles, writes back corrections and counts them per slice. -/
  | lineStoreScrub (found : Found)
  /-- SLICE_COPY_END (R174). Loading a spare with a slice's content ends and the spare stands in for the slice, as repair or for a march. -/
  | sliceCopyEnd
  /-- SLICE_MARCH_END (R174). A slice's March C− test ends and the slice is copied back or repaired. -/
  | sliceMarchEnd (pass : Bool)
  /-- COPY_BACK_END (R174). Copy-back of a tested slice ends, the spare is freed and the test moves to the next slice. -/
  | copyBackEnd
  /-- GEN1_WORD_STREAM (R192). A Gen-1 port sends its slots' words for one print line and then pulses LAT. -/
  | gen1WordStream (p : Fin 4)
  /-- GEN2_FRAME (R194). A Gen-2 pair sends one slot's frame of SOF, header, payload and EOF. -/
  | gen2Frame (k : Fin 24)
  /-- GEN3_DATA_FRAME (R197). A Gen-3 port sends a DATA frame, kept in the replay buffer until acknowledged. -/
  | gen3DataFrame (k : Fin 8)
  /-- FIRE_FRAME (R201). A FIRE frame for (Q, g) is sent once the predicted fire instant lies within FIREWIN. -/
  | fireFrame (g : Fin 64)
  /-- TIME_FRAME (R202). A TIME frame carrying POS_TIME and the port latency is sent after training and every 2^20 position cycles. -/
  | timeFrame (k : Fin 8)
  /-- GEN3_ACK (R199). An ACK frame from the head releases the acknowledged frame from the replay buffer. -/
  | gen3Ack (k : Fin 8) (frame : List Byte)
  /-- GEN3_NAK (R199). A NAK frame causes the named frame to be retransmitted and may fail the TX lanes it names. -/
  | gen3Nak (k : Fin 8) (frame : List Byte)
  /-- GEN3_STATUS (R198). A STATUS frame's entries become nozzle status records with SRC 0b01. -/
  | gen3Status (k : Fin 8) (frame : List Byte)
  /-- GEN3_TEMP (R198). A TEMP frame's entries update HLK_TEMPk_h and the temperature sensors fed from them. -/
  | gen3Temp (k : Fin 8) (frame : List Byte)
  /-- ACK_TIMEOUT (R199). No ACK or NAK within ACKTO retransmits the frame, abandons it at its limit, or takes the port down. -/
  | ackTimeout (k : Fin 8) (seq : BitVec 16)
  /-- RX_LANE_FAILURE (R204). Loss of block lock or too many sync-header errors fails an RX lane and may take the port down. -/
  | rxLaneFailure (r : Fin 8)
  /-- PORT_RETRAIN (R204). A write of HLK_G3Pk_CTL.RETRAIN retrains the port's failed lanes. -/
  | portRetrain (w : Writer) (k : Fin 8)
  /-- LANE_TRAINING_END (R203). A Gen-3 lane completes training and joins LMASK at the next frame boundary. -/
  | laneTrainingEnd (k : Fin 8) (lane : Fin 6) (ok : Bool) (rtt : BitVec 24)
  /-- ROUTE_SWITCH (R189). A write of HLK_RSWGO schedules a switch to the named route table at L_r and reports RESULT. -/
  | routeSwitch (w : Writer) (tsel : Bool)
  /-- PACKING_MISMATCH (R217). A Peel engine mismatch rebuilds the frame, or on a second mismatch starts the engine self-test. -/
  | packingMismatch
  /-- ENGINE_SELF_TEST_END (R217). The Peel engine self-test ends and fences an engine, keeps both, or declares NOPEEL. -/
  | engineSelfTestEnd (pass0 pass1 : Bool)
  /-- SPIT_TRANSFER_END (R207). A row group's spit transfer ends and its strobes or FIRE frame fire the spit line. -/
  | spitTransferEnd (g : Fin 64)
  /-- WAVEFORM_SAMPLE (R228). At each sample instant every voice is evaluated, mixed, gained, limited and voted into the converter samples. -/
  | waveformSample (dissent : Option (Fin 3))
  /-- OUTPUT_GAIN_WRITE (R233). A write of WAV_OUTc_GAIN starts a gain ramp to the new target over RAMPT samples. -/
  | outputGainWrite (w : Writer) (c : Fin 32) (v : Word)
  /-- TEMPERATURE_STALE (R237). No reading for TSTALE ms sets STALE and raises TSTALE, holding k. -/
  | temperatureStale (k : Fin 16)
  /-- SYSREF_EDGE (R242). A SYSREF edge aligns the LMFC and sample clock, realigns after REALIGN, or raises SYSMIS. -/
  | sysrefEdge
  /-- REALIGN (R242). A write of WAV_CTL.REALIGN in IDLE makes the next SYSREF edge realign. -/
  | realign (w : Writer)
  /-- RESYNCHRONISATION (R243). SYNC~ held low makes the tile rerun code group synchronisation and ILAS and raise JSYNC. -/
  | resynchronisation
  /-- NOP (R256). Short op NOP does nothing. -/
  | lvNop (cl m : Fin 16)
  /-- DUP (R256). Short op DUP duplicates T. -/
  | lvDup (cl m : Fin 16)
  /-- DROP (R256). Short op DROP removes T. -/
  | lvDrop (cl m : Fin 16)
  /-- SWAP (R256). Short op SWAP exchanges T and N. -/
  | lvSwap (cl m : Fin 16)
  /-- OVER (R256). Short op OVER pushes a copy of N. -/
  | lvOver (cl m : Fin 16)
  /-- ROT (R256). Short op ROT rotates the third item to the top. -/
  | lvRot (cl m : Fin 16)
  /-- ADD (R262). Short op ADD adds the top two items and sets C, V and Z. -/
  | lvAdd (cl m : Fin 16)
  /-- SUB (R262). Short op SUB subtracts the top from the second item and sets C, V and Z. -/
  | lvSub (cl m : Fin 16)
  /-- AND (R256). Short op AND forms the bitwise and, setting Z. -/
  | lvAnd (cl m : Fin 16)
  /-- OR (R256). Short op OR forms the bitwise or, setting Z. -/
  | lvOr (cl m : Fin 16)
  /-- XOR (R256). Short op XOR forms the bitwise exclusive or, setting Z. -/
  | lvXor (cl m : Fin 16)
  /-- NOT (R256). Short op NOT complements T, setting Z. -/
  | lvNot (cl m : Fin 16)
  /-- NEG (R262). Short op NEG negates T, setting C, V and Z. -/
  | lvNeg (cl m : Fin 16)
  /-- INC (R262). Short op INC adds one to T, setting C, V and Z. -/
  | lvInc (cl m : Fin 16)
  /-- FROM_B (R256). Short op B> pushes B. -/
  | lvFromB (cl m : Fin 16)
  /-- SHL (R261). Short op SHL shifts left logically by n mod 32. -/
  | lvShl (cl m : Fin 16)
  /-- SHR (R261). Short op SHR shifts right logically by n mod 32. -/
  | lvShr (cl m : Fin 16)
  /-- SAR (R261). Short op SAR shifts right arithmetically by n mod 32. -/
  | lvSar (cl m : Fin 16)
  /-- LD (R266). Short op LD loads the word at the address in T. -/
  | lvLd (cl m : Fin 16)
  /-- ST (R266). Short op ST stores N at the address in T. -/
  | lvSt (cl m : Fin 16)
  /-- LDA (R256). Short op LDA loads the word at A. -/
  | lvLda (cl m : Fin 16)
  /-- LDA_INC (R256). Short op LDA+ loads the word at A and increments A. -/
  | lvLdaInc (cl m : Fin 16)
  /-- STA (R256). Short op STA stores T at A. -/
  | lvSta (cl m : Fin 16)
  /-- STA_INC (R256). Short op STA+ stores T at A and increments A. -/
  | lvStaInc (cl m : Fin 16)
  /-- LDB_INC (R256). Short op LDB+ loads the word at B and increments B. -/
  | lvLdbInc (cl m : Fin 16)
  /-- STB_INC (R256). Short op STB+ stores T at B and increments B. -/
  | lvStbInc (cl m : Fin 16)
  /-- TO_A (R256). Short op >A pops T into A. -/
  | lvToA (cl m : Fin 16)
  /-- FROM_A (R256). Short op A> pushes A. -/
  | lvFromA (cl m : Fin 16)
  /-- TO_B (R256). Short op >B pops T into B. -/
  | lvToB (cl m : Fin 16)
  /-- TO_RT (R256). Short op >RT moves T onto the return stack. -/
  | lvToRt (cl m : Fin 16)
  /-- FROM_RT (R256). Short op RT> pops the return stack to T. -/
  | lvFromRt (cl m : Fin 16)
  /-- RET (R251). Short op RET pops the return stack to PC at slot 0. -/
  | lvRet (cl m : Fin 16)
  /-- JMP (R252). Long op JMP transfers to a target in its own page. -/
  | lvJmp (cl m : Fin 16) (k : BitVec 11)
  /-- CALL (R252). Long op CALL pushes the return address and transfers to a page target. -/
  | lvCall (cl m : Fin 16) (k : BitVec 11)
  /-- JZ (R257). Long op JZ pops T and jumps to a page target if it is zero. -/
  | lvJz (cl m : Fin 16) (k : BitVec 11)
  /-- JNZ (R257). Long op JNZ pops T and jumps to a page target if it is non-zero. -/
  | lvJnz (cl m : Fin 16) (k : BitVec 11)
  /-- BR (R258). Long op BR.cc jumps relative when its condition holds, without popping. -/
  | lvBr (cl m : Fin 16) (cc : BitVec 4) (d : BitVec 7)
  /-- LIT (R257). Long op LIT pushes its sign-extended 11-bit literal. -/
  | lvLit (cl m : Fin 16) (k : BitVec 11)
  /-- LOOP (R257). Long op LOOP decrements RC and jumps backward while RC is non-zero. -/
  | lvLoop (cl m : Fin 16) (k : BitVec 11)
  /-- REP (R270). Long op REP repeats the following string op element by element under its stop rule. -/
  | lvRep (cl m : Fin 16) (k : BitVec 11)
  /-- WAIT (R274). Long op WAIT ends service and suspends the context until a delivery from its event set or a timeout. -/
  | lvWait (cl m : Fin 16) (k : BitVec 11)
  /-- IN (R257). Long op IN loads a word of the first 2 KiW of the I/O page. -/
  | lvIn (cl m : Fin 16) (k : BitVec 11)
  /-- OUT (R257). Long op OUT stores T into the first 2 KiW of the I/O page after the store buffer empties. -/
  | lvOut (cl m : Fin 16) (k : BitVec 11)
  /-- LDO (R257). Long op LDO loads the word at A plus an offset. -/
  | lvLdo (cl m : Fin 16) (k : BitVec 11)
  /-- STO (R257). Long op STO stores T at A plus an offset. -/
  | lvSto (cl m : Fin 16) (k : BitVec 11)
  /-- ILLOP (R277). Major opcode 0xF, an unlisted code or a reserved encoding raises the ILLOP trap. -/
  | lvIllop (cl m : Fin 16)
  /-- FJMP (R259). Far form FJMP transfers to the address in W. -/
  | lvFjmp (cl m : Fin 16) (k : Half)
  /-- FCALL (R259). Far form FCALL pushes a + 2 and transfers to W. -/
  | lvFcall (cl m : Fin 16) (k : Half)
  /-- FLIT (R259). Far form FLIT pushes W. -/
  | lvFlit (cl m : Fin 16) (k : Half)
  /-- FJZ (R259). Far form FJZ pops T and jumps to W if it is zero. -/
  | lvFjz (cl m : Fin 16) (k : Half)
  /-- FJNZ (R259). Far form FJNZ pops T and jumps to W if it is non-zero. -/
  | lvFjnz (cl m : Fin 16) (k : Half)
  /-- LDI (R259). Far form LDI loads the word at address W. -/
  | lvLdi (cl m : Fin 16) (k : Half)
  /-- STI (R259). Far form STI stores T at address W. -/
  | lvSti (cl m : Fin 16) (k : Half)
  /-- NIP (R260). Extended op NIP removes N. -/
  | lvNip (cl m : Fin 16)
  /-- TUCK (R260). Extended op TUCK copies T below N. -/
  | lvTuck (cl m : Fin 16)
  /-- TWO_DUP (R260). Extended op 2DUP duplicates the top two items. -/
  | lvTwoDup (cl m : Fin 16)
  /-- TWO_DROP (R260). Extended op 2DROP removes the top two items. -/
  | lvTwoDrop (cl m : Fin 16)
  /-- MINUS_ROT (R260). Extended op -ROT rotates the top item to third place. -/
  | lvMinusRot (cl m : Fin 16)
  /-- DEPTH (R260). Extended op DEPTH pushes the data stack depth. -/
  | lvDepth (cl m : Fin 16)
  /-- RDEPTH (R260). Extended op RDEPTH pushes the return stack depth. -/
  | lvRdepth (cl m : Fin 16)
  /-- RT_COPY (R260). Extended op RT@ pushes a copy of RT. -/
  | lvRtCopy (cl m : Fin 16)
  /-- ADC (R262). Extended op ADC adds with carry. -/
  | lvAdc (cl m : Fin 16)
  /-- SBC (R262). Extended op SBC subtracts with borrow. -/
  | lvSbc (cl m : Fin 16)
  /-- DEC (R262). Extended op DEC subtracts one from T. -/
  | lvDec (cl m : Fin 16)
  /-- ABS (R262). Extended op ABS forms the absolute value of T. -/
  | lvAbs (cl m : Fin 16)
  /-- MIN (R260). Extended op MIN forms the signed minimum. -/
  | lvMin (cl m : Fin 16)
  /-- MAX (R260). Extended op MAX forms the signed maximum. -/
  | lvMax (cl m : Fin 16)
  /-- MINU (R260). Extended op MINU forms the unsigned minimum. -/
  | lvMinu (cl m : Fin 16)
  /-- MAXU (R260). Extended op MAXU forms the unsigned maximum. -/
  | lvMaxu (cl m : Fin 16)
  /-- ROL (R261). Extended op ROL rotates left by n mod 16. -/
  | lvRol (cl m : Fin 16)
  /-- ROR (R261). Extended op ROR rotates right by n mod 16. -/
  | lvRor (cl m : Fin 16)
  /-- CLZ (R260). Extended op CLZ counts leading zeros. -/
  | lvClz (cl m : Fin 16)
  /-- POPC (R260). Extended op POPC counts set bits. -/
  | lvPopc (cl m : Fin 16)
  /-- TO_RC (R260). Extended op >RC pops T into RC. -/
  | lvToRc (cl m : Fin 16)
  /-- FROM_RC (R260). Extended op RC> pushes RC. -/
  | lvFromRc (cl m : Fin 16)
  /-- TO_ST (R260). Extended op >ST writes the low five bits of T into ST. -/
  | lvToSt (cl m : Fin 16)
  /-- FROM_ST (R260). Extended op ST> pushes ST. -/
  | lvFromSt (cl m : Fin 16)
  /-- A_ADD (R260). Extended op A+ adds T to A. -/
  | lvAAdd (cl m : Fin 16)
  /-- B_ADD (R260). Extended op B+ adds T to B. -/
  | lvBAdd (cl m : Fin 16)
  /-- LD2 (R267). Extended op LD2 loads two consecutive words, as one access or two. -/
  | lvLd2 (cl m : Fin 16)
  /-- ST2 (R267). Extended op ST2 stores two consecutive words, as one access or two. -/
  | lvSt2 (cl m : Fin 16)
  /-- AADD (R268). Extended op AADD adds atomically at a pantry word and pushes the old value. -/
  | lvAadd (cl m : Fin 16)
  /-- ASWAP (R268). Extended op ASWAP swaps atomically at a pantry word and pushes the old value. -/
  | lvAswap (cl m : Fin 16)
  /-- MUL (R263). Extended op MUL sets MR to the signed product, claiming MR. -/
  | lvMul (cl m : Fin 16)
  /-- MULU (R263). Extended op MULU sets MR to the unsigned product. -/
  | lvMulu (cl m : Fin 16)
  /-- MAC (R263). Extended op MAC adds the signed product to MR. -/
  | lvMac (cl m : Fin 16)
  /-- MACU (R263). Extended op MACU adds the unsigned product to MR. -/
  | lvMacu (cl m : Fin 16)
  /-- MSU (R263). Extended op MSU subtracts the signed product from MR. -/
  | lvMsu (cl m : Fin 16)
  /-- CLRM (R263). Extended op CLRM clears MR. -/
  | lvClrm (cl m : Fin 16)
  /-- FROM_MRL (R263). Extended op MRL> pushes MRL after pending multiplies complete. -/
  | lvFromMrl (cl m : Fin 16)
  /-- FROM_MRH (R263). Extended op MRH> pushes MRH after pending multiplies complete. -/
  | lvFromMrh (cl m : Fin 16)
  /-- FROM_MRG (R263). Extended op MRG> pushes MRG sign-extended. -/
  | lvFromMrg (cl m : Fin 16)
  /-- TO_MRL (R263). Extended op >MRL writes MRL. -/
  | lvToMrl (cl m : Fin 16)
  /-- TO_MRH (R263). Extended op >MRH writes MRH. -/
  | lvToMrh (cl m : Fin 16)
  /-- TO_MRG (R263). Extended op >MRG writes MRG. -/
  | lvToMrg (cl m : Fin 16)
  /-- DIV (R264). Extended op DIV divides a signed 32-bit value by a 16-bit divisor. -/
  | lvDiv (cl m : Fin 16)
  /-- DIVU (R264). Extended op DIVU divides an unsigned 32-bit value by a 16-bit divisor. -/
  | lvDivu (cl m : Fin 16)
  /-- MOVS (R269). String op MOVS copies one word from A to B and increments both. -/
  | lvMovs (cl m : Fin 16)
  /-- MOVSD (R269). String op MOVSD copies one word from A to B and decrements both. -/
  | lvMovsd (cl m : Fin 16)
  /-- FILLS (R269). String op FILLS stores T at B and increments B. -/
  | lvFills (cl m : Fin 16)
  /-- CMPS (R269). String op CMPS compares the words at A and B and increments both. -/
  | lvCmps (cl m : Fin 16)
  /-- SCANS (R269). String op SCANS compares the word at A with T and increments A. -/
  | lvScans (cl m : Fin 16)
  /-- SUMS (R269). String op SUMS adds the word at A to T and increments A. -/
  | lvSums (cl m : Fin 16)
  /-- EXEC (R252). Extended op EXEC calls the address popped from T. -/
  | lvExec (cl m : Fin 16)
  /-- JMPT (R252). Extended op JMPT jumps to the address popped from T. -/
  | lvJmpt (cl m : Fin 16)
  /-- IFENCE (R298). Extended op IFENCE empties the store buffer and refetches the following instructions. -/
  | lvIfence (cl m : Fin 16)
  /-- YIELD (R317). Extended op YIELD offers the cell to a ready context of equal priority group. -/
  | lvYield (cl m : Fin 16)
  /-- DONE (R319). Extended op DONE ends service of the current event source. -/
  | lvDone (cl m : Fin 16)
  /-- TRET (R326). Extended op TRET applies the trap action to the trapped context and returns context 7 to TRAPIDLE. -/
  | lvTret (cl m : Fin 16)
  /-- PICK (R260). Extended op PICK n pushes a copy of stack item n + 1. -/
  | lvPick (cl m : Fin 16) (n : Fin 15)
  /-- RND (R263). Extended op RND n pushes MR rounded and saturated to 16 bits. -/
  | lvRnd (cl m : Fin 16) (n : Fin 25)
  /-- TRAP (R277). Extended op TRAP n raises software trap n. -/
  | lvTrap (cl m : Fin 16) (n : Fin 64)
  /-- STORE_DRAIN (R287). The oldest store buffer entry drains to local RAM or the fabric, and an error response raises DATAERR. -/
  | storeDrain (cl m : Fin 16)
  /-- CONTEXT_SWITCH (R318). After the leaving instruction ends, the switch pushes any delivered source and fetches the incoming context's word. -/
  | contextSwitch (cl m : Fin 16)
  /-- EVENT_DELIVERY (R332). The event controller delivers a pending source to the first eligible waiting target context. -/
  | eventDelivery (cl : Fin 16)
  /-- WAIT_TIMEOUT (R274). RC reaching zero before a delivery resumes a WAIT with 0xFFFF pushed. -/
  | waitTimeout (cl m : Fin 16) (c : Fin 7)
  /-- CELL_SLEEP (R334). A cell whose contexts have been idle for 16 core cycles with an empty store buffer stops its clocks. -/
  | cellSleep (cl m : Fin 16)
  /-- STARTREQ (R312). A write of STARTREQ starts or restarts the named context. -/
  | startreq (w : Writer) (cl m : Fin 16) (mask : BitVec 7)
  /-- STOPREQ (R313). A write of STOPREQ stops the named context in the next core cycle. -/
  | stopreq (w : Writer) (cl m : Fin 16) (mask : BitVec 7)
  /-- CRESTART (R328). A write of CRESTART restarts a cell and starts its START contexts. -/
  | crestart (w : Writer) (cl m : Fin 16)
  /-- EVC_PENDSET (R331). A write of EVC_PENDSET sets the pending bits of the named sources. -/
  | evcPendset (w : Writer) (cl : Fin 16) (hi : Bool) (v : Word)
  /-- EVC_PENDCLR (R331). A write of EVC_PENDCLR clears the pending bits of the named sources. -/
  | evcPendclr (w : Writer) (cl : Fin 16) (hi : Bool) (v : Word)
  /-- EVC_MASKSET (R331). A write of EVC_MASKSET unmasks the named sources. -/
  | evcMaskset (w : Writer) (cl : Fin 16) (hi : Bool) (v : Word)
  /-- EVC_MASKCLR (R331). A write of EVC_MASKCLR masks the named sources. -/
  | evcMaskclr (w : Writer) (cl : Fin 16) (hi : Bool) (v : Word)
  /-- LOCAL_SCRUB_ACCESS (R283). Every 256 core cycles a cell's local RAM scrub or march access reads and corrects an aligned pair. -/
  | localScrubAccess (cl : Fin 16) (m : Fin 16) (found : Found) (fail : Bool)
  /-- PANTRY_TEST_ACCESS (R350). Every TPER core cycles the pantry test engine makes its next save, march or restore access. -/
  | pantryTestAccess (cl : Fin 16) (found : Found) (fail : Bool)
  /-- TILE_STORE_SCRUB (R386). Every TPER core cycles each tile-store slice scrubs or march-tests one block. -/
  | tileStoreScrub (slice : Fin 4) (found : Found) (fail : Bool)
  /-- TIMER_OVERFLOW (R358). A timer at PER wraps to 0 and raises its overflow outputs and slave actions. -/
  | timerOverflow (cl : Fin 16) (n : Fin 8)
  /-- TIMER_MATCH (R358). A timer taking the value CMP raises its match outputs and slave actions. -/
  | timerMatch (cl : Fin 16) (n : Fin 8)
  /-- TIMER_CAPTURE (R365). A capture source sets CAP from CNT, or to the shadow while the read window is open. -/
  | timerCapture (cl : Fin 16) (n : Fin 8)
  /-- CAP_LOW_READ (R365). A read of CAP's low word opens the capture read window. -/
  | capLowRead (w : Writer) (cl : Fin 16) (n : Fin 8)
  /-- CAP_HIGH_READ (R365). A read of CAP's high word closes the read window, and a shadowed capture lands. -/
  | capHighRead (w : Writer) (cl : Fin 16) (n : Fin 8)
  /-- TIMER_COUNT_WRITE (R363). A write to CNT sets the count at the end of its cycle, losing that cycle's tick. -/
  | timerCountWrite (w : Writer) (cl : Fin 16) (n : Fin 8) (v : Word)
  /-- TIMER_PERIOD_WRITE (R364). A write to PER applies at once, buffered to the next overflow, or immediately with IMM. -/
  | timerPeriodWrite (w : Writer) (cl : Fin 16) (n : Fin 8) (v : Word)
  /-- SLOW_RATIO_MEASUREMENT (R367). At the end of each 32,768 slow cycles the cluster writes the core-per-slow ratio into TMR_SLRATIO. -/
  | slowRatioMeasurement (cl : Fin 16) (cycles : BitVec 48)
  /-- TIMER_RESUME (R368). At the first slow-clock edge after wake the timers resume and receive their sleep make-up. -/
  | timerResume (slow : BitVec 48)
  /-- SLOW_CLOCK_TIMEOUT (R480). No slow-clock edge within 100 µs after wake resumes the timers without make-up. -/
  | slowClockTimeout
  /-- DMA_START (R372). A write of START takes the channel parameters and sets BUSY, or is refused with ECODE 3. -/
  | dmaStart (w : Writer) (cl : Fin 16) (k : Fin 4) (v : Word)
  /-- DMA_STOP (R378). A write of STOP lets accesses in flight finish and then ends the channel with ABORTED. -/
  | dmaStop (w : Writer) (cl : Fin 16) (k : Fin 4)
  /-- DMA_UNIT_START (R375). The DMA engine starts the ready unit of the lowest-numbered channel. -/
  | dmaUnitStart (cl : Fin 16)
  /-- DMA_COMPLETE (R378). The last write of a transfer is acknowledged and the channel ends with DONE. -/
  | dmaComplete (cl : Fin 16) (k : Fin 4)
  /-- DMA_ERROR (R378). An error response or uncorrectable read stops the channel with ERR and ECODE. -/
  | dmaError (cl : Fin 16) (k : Fin 4)
  /-- HOP_REPLAY (R399). A flit rejected as uncorrectable or lost in a crossbar mismatch is sent again, failing a lane after four. -/
  | hopReplay (node : Fin 20) (port : Fin 5) (lane : Fin 4)
  /-- CROSSBAR_MISMATCH (R399). A crossbar comparison mismatch raises XBMIS or, on a second, starts the crossbar self-test. -/
  | crossbarMismatch (node : Fin 20)
  /-- CROSSBAR_SELF_TEST_END (R399). The crossbar self-test ends and fences a copy, keeps both, or declares NOXB. -/
  | crossbarSelfTestEnd (node : Fin 20) (pass0 pass1 : Bool)
  /-- LINK_TRAINING_COMPLETE (R402). The die link finishes training at the highest common rate. -/
  | linkTrainingComplete (rate : Fin 4) (up0 up1 x8_0 x8_1 : Bool)
  /-- LINK_TRAINING_TIMEOUT (R405). A die link that fails to train within 1 ms raises DLDOWN and keeps trying. -/
  | linkTrainingTimeout
  /-- DIE_LINK_RETRAIN (R405). A write of DLK_CTL.RETRAIN retrains the die link. -/
  | dieLinkRetrain (w : Writer)
  /-- MODULE_DEGRADE (R403). A die-link module failing or degrading sends flits by the other and raises DLDEGR. -/
  | moduleDegrade (module : Fin 2) (toX8 : Bool)
  /-- FLIT_RECEIVE (R405). An ASP flit arrives, is checked by CRC and sequence, updates acknowledgments and credits, and delivers its packets. -/
  | flitReceive (flit : List Byte)
  /-- FLIT_TRANSMIT (R405). The tile sends a DATA or IDLE flit carrying acknowledgment, credits and egress packets. -/
  | flitTransmit
  /-- ASP_MISMATCH (R420). An ASP engine mismatch rebuilds the flit or, on a second, starts the engine self-test. -/
  | aspMismatch
  /-- ASP_SELF_TEST_END (R420). The ASP self-test ends and fences an engine, keeps both, or declares NOASP. -/
  | aspSelfTestEnd (pass0 pass1 : Bool)
  /-- PAD (R407). A PAD packet is received and ignored. -/
  | pad (len : Nat)
  /-- RDREQ (R408). A read request is performed word by word and answered with an RDRSP. -/
  | rdreq (rid : Fin 16) (tag : BitVec 16) (addrWord : BitVec 64)
  /-- WRREQ (R408). A write request is performed word by word and answered with a WRACK when ACKREQ is set. -/
  | wrreq (rid : Fin 16) (tag : BitVec 16) (ackreq : Bool) (payload : List Byte)
  /-- TILEUP (R409). A TILEUP packet writes its payload into the tile store, or is discarded outside its limits. -/
  | tileup (off : BitVec 22) (payload : List Byte)
  /-- MAPUP (R409). A MAPUP packet writes its payload into the tile store, or is discarded outside its limits. -/
  | mapup (off : BitVec 22) (payload : List Byte)
  /-- SPRREC (R409). A SPRREC packet is written into ingress ring 0 of the named cluster. -/
  | sprrec (cl : Fin 16) (header : BitVec 64) (payload : List Byte)
  /-- NZST (R409). An NZST packet's records enter the nozzle status queue. -/
  | nzst (payload : List Byte)
  /-- JOB (R409). A JOB packet is written into ingress ring 1 of the named cluster. -/
  | job (cl : Fin 16) (header : BitVec 64) (payload : List Byte)
  /-- CONTENT_RESUME (R409). A CONTENT entry waiting for room in a full ingress ring is written once its read pointer frees room. -/
  | contentResume
  /-- STRDATA (R411). A STRDATA packet appends its chunks at the stream append point under the credit rule. -/
  | strdata (eor : Bool) (payload : List Byte)
  /-- STREAM_CHUNK_RESUME (R411). A stream chunk waiting for room is written once the slowest read offset advances. -/
  | streamChunkResume
  /-- ALARM_SUMMARY (R415). As room appears, each non-empty alarm counter is queued as a coalesced summary packet. -/
  | alarmSummary
  /-- ASP_EVPOST (R417). A write of ASP_EVPOST posts an event packet. -/
  | aspEvpost (w : Writer) (cl : Fin 16) (v : Word)
  /-- ASP_TRPOST (R417). A write of ASP_TRPOST requests a trace copy of pantry words. -/
  | aspTrpost (w : Writer) (cl : Fin 16) (v : Word)
  /-- TRACE_COPY_COMPLETE (R417). The ASP engine finishes copying the named words and queues them as a TRACE packet. -/
  | traceCopyComplete (cl : Fin 16)
  /-- ROLE_DECISION (R438). 16 µs after PROOF begins, each tile decides its head and tail roles from character lock. -/
  | roleDecision (inLock outLock : Bool)
  /-- REPEAT_FRAME (R440). The head sends a REPEAT forward frame after 64 µs without a boundary. -/
  | repeatFrame
  /-- FORWARD_FRAME_ACCEPT (R442). A tile accepts a forward frame, relays it and evaluates the chain checks. -/
  | forwardFrameAccept (frame : List Byte)
  /-- RETURN_FRAME (R441). The tail starts a return frame 40 ns after each accepted forward frame. -/
  | returnFrame
  /-- RETURN_FRAME_ACCEPT (R441). A tile accepts a return frame, relays it with its bits set, and the head checks it. -/
  | returnFrameAccept (frame : List Byte)
  /-- CHAINLOSS (R446). No accepted frame for 256 µs or 16 boundaries sets CHAINLOSS and CONS = 0. -/
  | chainloss
  /-- ALIGN (R443). A write of SYN_CTL.ALIGN in IDLE makes the next accepted frame align the tile. -/
  | align (w : Writer)
  /-- NEWEPOCH (R444). A write of SYN_CTL.NEWEPOCH in IDLE resets the position to LINE0 and increments the epoch. -/
  | newepoch (w : Writer)
  /-- REQUEST_IDLE (R453). A request for IDLE changes mode, or wakes the tile from SLEEP. -/
  | requestIdle (w : Writer)
  /-- REQUEST_ARMED (R453). A request for ARMED starts composition under R37. -/
  | requestArmed (w : Writer)
  /-- REQUEST_PRINT (R455). A request for PRINT is accepted only with CONS set, no forced condition and an open gate. -/
  | requestPrint (w : Writer)
  /-- REQUEST_BLANK (R453). A request for BLANK stops firing while lines are still sent. -/
  | requestBlank (w : Writer)
  /-- REQUEST_SPIT (R453). A request for SPIT from IDLE enters spitting. -/
  | requestSpit (w : Writer)
  /-- REQUEST_CALIBRATE (R455). A request for CALIBRATE is accepted with no forced condition and an open gate. -/
  | requestCalibrate (w : Writer)
  /-- REQUEST_DRAIN (R458). A request for DRAIN stops new composition and completes the lines already due. -/
  | requestDrain (w : Writer)
  /-- REQUEST_SLEEP (R460). A request for SLEEP from IDLE starts the SLEEP entry. -/
  | requestSleep (w : Writer)
  /-- REQUEST_SAFE (R462). A request for SAFE stops the line units and sets the outputs safe. -/
  | requestSafe (w : Writer)
  /-- REQUEST_ILLEGAL_MODE (R451). A request naming COLD, LOAD, PROOF or numbers 12 to 15 is refused with ILLEGAL. -/
  | requestIllegalMode (w : Writer) (n : BitVec 4)
  /-- PROOF_EXIT (R454). PROOF ends into IDLE once training, JESD204B, roles and digest rotation are done, or after 100 ms. -/
  | proofExit
  /-- SLEEP_ENTRY_END (R460). Cells stop, DMA and drains complete, timers stop, clocks are gated, the line store powers off, and the tile is in SLEEP. -/
  | sleepEntryEnd
  /-- LINE_STORE_CLEAR_END (R176). The line store clear after wake ends and the tile enters IDLE, a renumbering. -/
  | lineStoreClearEnd
  /-- WATCHDOG_RESTART (R471). A write of TIL_WDOG restarts the watchdog count. -/
  | watchdogRestart (w : Writer) (v : Word)
  /-- WATCHDOG_EXPIRY (R471). The watchdog count reaching 0 raises WDOG and restarts. -/
  | watchdogExpiry
  /-- PAIR_SEND (R465). A write of CX_PAIRc_OUTH sends the 32-bit value to channel c of both peers. -/
  | pairSend (cl m : Fin 16) (c : Fin 8) (k : Fin 4) (v : Half)
  /-- PAIR_VALUE_ARRIVAL (R465). A pair value lands in IN0 or IN1 of a peer, setting INF, OVR, or ERR when uncorrectable. -/
  | pairValueArrival (cl : Fin 16) (k : Fin 4) (from1 : Bool) (uncorrectable : Bool)
  /-- PAIR_INPUT_READ (R465). A read of the high word of IN0 or IN1 clears its INF bit. -/
  | pairInputRead (cl m : Fin 16) (c : Fin 8) (k : Fin 4) (in1 : Bool)
  /-- PAIR_REPORT (R465). A write of CX_PAIRc_REP is forwarded to TIL_PAIRREP, raises its alarm and may stop a peer's context. -/
  | pairReport (cl m : Fin 16) (c : Fin 8) (k : Fin 4) (v : Half)
  /-- EXTEST (R483). JTAG instruction EXTEST takes the scanned pins from the tile. -/
  | extest (bsr : BitVec 336)
  /-- IDCODE (R483). JTAG instruction IDCODE selects the 32-bit identification register. -/
  | idcode
  /-- SAMPLE_PRELOAD (R483). JTAG instruction SAMPLE/PRELOAD selects the boundary-scan register without affecting function. -/
  | samplePreload (pins bsr : BitVec 336)
  /-- FUSERD (R485). JTAG instruction FUSERD captures the fuses as they stand. -/
  | fuserd
  /-- FUSEPGM (R485). JTAG instruction FUSEPGM blows, at Update-DR in COLD, every fuse bit set in the mask. -/
  | fusepgm (mask : BitVec 290)
  /-- FUSE_BIT_PROGRAMMED (R485). Each self-timed fuse bit completes after 20 µs and programming moves to the next bit. -/
  | fuseBitProgrammed
  /-- BYPASS (R483). JTAG instruction BYPASS, and every unassigned code, selects the 1-bit bypass register. -/
  | bypass
  /-- WSYNC_N_RELEASE (R241). The JESD204B receiver releasing SYNC~ ends code group synchronisation, and the tile sends the 4-multiframe ILAS and enters the data state. -/
  | wsyncNRelease
  /-- DMA_BURST_END (R375). A burst unit of a request-driven channel ends before the transfer is complete, RUN clears and the engine chooses its next unit or idles. -/
  | dmaBurstEnd (cl : Fin 16)
  /-- RC_FIELD_READ (R15). A read of an RC field returns its value and returns the field to zero, with a same-cycle hardware event kept recorded. -/
  | rcFieldRead (w : Writer) (a : BitVec 36)
  /-- PAIR_HIGH_READ (R357). A read of the high register of a pair returns the reader's latched value and frees the latch, or the current value when the latch is free. -/
  | pairHighRead (w : Writer) (p : PairAddr)
  /-- TAP_RESET (R475). TRST_N low puts the TAP in Test-Logic-Reset, ending any EXTEST hold on the scanned pins. -/
  | tapReset
  deriving DecidableEq, Repr

end Sys2Proof
end

