-- ==== Sys2Proof/Decode.lean ====
section
/-! DEFINITION. Words to commands. The table gives no row any bits: commands come from outside as they are (registers are
accessed, packets and frames arrive, events occur), so no word spells one. What a Levain-16 word in local RAM holds (R250,
R256, R257, R259, R260) is here too: the operation that a cell executes at a word and a slot. -/

namespace Sys2Proof

/-- The command that a word spells by the table's bits: none, since no row of the table has bits. -/
def decodeTableWord (_nbits _w : Nat) : Option Instr := none

/-- Slot 0, 1 or 2 of a packed word (R250): bits [14:10], [9:5], [4:0]. -/
def slotOp (w slot : Nat) : Nat := w / 2 ^ (10 - 5 * slot) % 32

/-- Major opcode and operand of a long word (R250). -/
def majorOf (w : Nat) : Nat := w / 2 ^ 11 % 16
def operandOf (w : Nat) : Nat := w % 2 ^ 11

/-- The short ops (R256). -/
def shortOp (cl m : Fin 16) (code : Nat) : Instr :=
  match code with
  | 0x00 => .lvNop cl m
  | 0x01 => .lvDup cl m
  | 0x02 => .lvDrop cl m
  | 0x03 => .lvSwap cl m
  | 0x04 => .lvOver cl m
  | 0x05 => .lvRot cl m
  | 0x06 => .lvAdd cl m
  | 0x07 => .lvSub cl m
  | 0x08 => .lvAnd cl m
  | 0x09 => .lvOr cl m
  | 0x0A => .lvXor cl m
  | 0x0B => .lvNot cl m
  | 0x0C => .lvNeg cl m
  | 0x0D => .lvInc cl m
  | 0x0E => .lvFromB cl m
  | 0x0F => .lvShl cl m
  | 0x10 => .lvShr cl m
  | 0x11 => .lvSar cl m
  | 0x12 => .lvLd cl m
  | 0x13 => .lvSt cl m
  | 0x14 => .lvLda cl m
  | 0x15 => .lvLdaInc cl m
  | 0x16 => .lvSta cl m
  | 0x17 => .lvStaInc cl m
  | 0x18 => .lvLdbInc cl m
  | 0x19 => .lvStbInc cl m
  | 0x1A => .lvToA cl m
  | 0x1B => .lvFromA cl m
  | 0x1C => .lvToB cl m
  | 0x1D => .lvToRt cl m
  | 0x1E => .lvFromRt cl m
  | _ => .lvRet cl m

/-- The far forms (R259): kind in bits [2:0], bits [10:3] zero; `next` is the word after. -/
def farOp (cl m : Fin 16) (operand : Nat) (next : BitVec 16) : Instr :=
  match operand with
  | 0 => .lvFjmp cl m next
  | 1 => .lvFcall cl m next
  | 2 => .lvFlit cl m next
  | 3 => .lvFjz cl m next
  | 4 => .lvFjnz cl m next
  | 5 => .lvLdi cl m next
  | 6 => .lvSti cl m next
  | _ => .lvIllop cl m

/-- The extended ops below 0x100 (R260); a code that is not listed raises ILLOP. -/
def plainXop (cl m : Fin 16) (code : Nat) : Instr :=
  match code with
  | 0x01 => .lvNip cl m
  | 0x02 => .lvTuck cl m
  | 0x03 => .lvTwoDup cl m
  | 0x04 => .lvTwoDrop cl m
  | 0x05 => .lvMinusRot cl m
  | 0x06 => .lvDepth cl m
  | 0x07 => .lvRdepth cl m
  | 0x08 => .lvRtCopy cl m
  | 0x10 => .lvAdc cl m
  | 0x11 => .lvSbc cl m
  | 0x12 => .lvDec cl m
  | 0x13 => .lvAbs cl m
  | 0x14 => .lvMin cl m
  | 0x15 => .lvMax cl m
  | 0x16 => .lvMinu cl m
  | 0x17 => .lvMaxu cl m
  | 0x18 => .lvRol cl m
  | 0x19 => .lvRor cl m
  | 0x1A => .lvClz cl m
  | 0x1B => .lvPopc cl m
  | 0x20 => .lvToRc cl m
  | 0x21 => .lvFromRc cl m
  | 0x22 => .lvToSt cl m
  | 0x23 => .lvFromSt cl m
  | 0x24 => .lvAAdd cl m
  | 0x25 => .lvBAdd cl m
  | 0x30 => .lvLd2 cl m
  | 0x31 => .lvSt2 cl m
  | 0x32 => .lvAadd cl m
  | 0x33 => .lvAswap cl m
  | 0x40 => .lvMul cl m
  | 0x41 => .lvMulu cl m
  | 0x42 => .lvMac cl m
  | 0x43 => .lvMacu cl m
  | 0x44 => .lvMsu cl m
  | 0x45 => .lvClrm cl m
  | 0x46 => .lvFromMrl cl m
  | 0x47 => .lvFromMrh cl m
  | 0x48 => .lvFromMrg cl m
  | 0x49 => .lvToMrl cl m
  | 0x4A => .lvToMrh cl m
  | 0x4B => .lvToMrg cl m
  | 0x4C => .lvDiv cl m
  | 0x4D => .lvDivu cl m
  | 0x50 => .lvMovs cl m
  | 0x51 => .lvMovsd cl m
  | 0x52 => .lvFills cl m
  | 0x53 => .lvCmps cl m
  | 0x54 => .lvScans cl m
  | 0x55 => .lvSums cl m
  | 0x60 => .lvExec cl m
  | 0x61 => .lvJmpt cl m
  | 0x62 => .lvIfence cl m
  | 0x63 => .lvYield cl m
  | 0x64 => .lvDone cl m
  | 0x65 => .lvTret cl m
  | _ => .lvIllop cl m

/-- The extended ops (R260): PICK n at 0x100 + n, RND n at 0x120 + n, TRAP n at 0x1C0 + n. -/
def extendedOp (cl m : Fin 16) (code : Nat) : Instr :=
  if code < 0x100 then plainXop cl m code
  else if code < 0x10F then .lvPick cl m (Fin.ofNat 15 (code - 0x100))
  else if 0x120 ≤ code ∧ code < 0x139 then .lvRnd cl m (Fin.ofNat 25 (code - 0x120))
  else if 0x1C0 ≤ code ∧ code < 0x200 then .lvTrap cl m (Fin.ofNat 64 (code - 0x1C0))
  else .lvIllop cl m

/-- A long word (R257): 0x8000 + 0x800 × major + operand. -/
def longOp (cl m : Fin 16) (w : Nat) (next : BitVec 16) : Instr :=
  let k := BitVec.ofNat 11 (operandOf w)
  match majorOf w with
  | 0x0 => .lvJmp cl m k
  | 0x1 => .lvCall cl m k
  | 0x2 => .lvJz cl m k
  | 0x3 => .lvJnz cl m k
  | 0x4 => .lvBr cl m (BitVec.ofNat 4 (operandOf w / 2 ^ 7)) (BitVec.ofNat 7 (operandOf w))
  | 0x5 => .lvLit cl m k
  | 0x6 => farOp cl m (operandOf w) next
  | 0x7 => extendedOp cl m (operandOf w)
  | 0x8 => .lvLoop cl m k
  | 0x9 => .lvRep cl m k
  | 0xA => .lvWait cl m k
  | 0xB => .lvIn cl m k
  | 0xC => .lvOut cl m k
  | 0xD => .lvLdo cl m k
  | 0xE => .lvSto cl m k
  | _ => .lvIllop cl m

/-- The operation at slot `slot` of the word `w` (R250); a far form takes the word after it, `next`. -/
def levainOp (cl m : Fin 16) (w next : BitVec 16) (slot : Nat) : Instr :=
  if w.toNat < 2 ^ 15 then shortOp cl m (slotOp w.toNat slot) else longOp cl m w.toNat next

end Sys2Proof
end

