-- ==== Sys2Proof/Config.lean ====
section
/-! DEFINITION. The free values: constants without a body, one for each kind of value the spec leaves open. A free value
is applied to the counter State.fresh, which the command advances (log entry 6), or to the operands it depends on. -/

namespace Sys2Proof.Config

/-- A free 32-bit value. -/
opaque freeWord : Nat → BitVec 32
/-- A free 16-bit value. -/
opaque freeHalf : Nat → BitVec 16
/-- A free truth value. -/
opaque freeBool : Nat → Bool
/-- A free natural number; the use bounds it. -/
opaque freeNat : Nat → Nat
/-- Starter-image value of an event set word, by image and by word (R312, R338; log entry 64). -/
opaque imageSet : (img word : Nat) → BitVec 16
/-- Starter-image value of a context's window base, by image and by context (R352; log entry 64). -/
opaque imageBase : (img ctx : Nat) → BitVec 24
/-- Timing mode of a cell, true for Rising, by image and by cell (R281; log entry 64). -/
opaque imageRise : (img cell : Nat) → Bool
/-- Core cycles that the n-th wait of a cell takes (R284, R290, R346; log entry 122); the use bounds it. -/
opaque freeWait : (cell n : Nat) → Nat
/-- Which of the contents that a word had since the last IFENCE a Rising cell executes, by cell, fetch and word (R299; log
entry 128); the use bounds it. -/
opaque freeOld : (cell n word : Nat) → Nat
/-- Core cycles from the last rising edge of the slow clock to a core cycle (R368; log entry 70). -/
opaque slowSince : (cycle : Nat) → Nat
/-- What the scrambler of a Gen-3 port's TX lane holds when a frame begins, by time: it has run over idle blocks whose number
is timing (R197; log entry 120). -/
opaque scrambler66 : (time port lane : Nat) → BitVec 58

end Sys2Proof.Config
end

