-- ==== Sys2Proof/Machine/Bits.lean ====
section
/-! DEFINITION. Bit fields, sign extension, byte order, checksums: the helpers every unit uses. -/

namespace Sys2Proof.Machine

/-- `w` bits of the number `v` from bit `lo` up. -/
def bitsN (v lo w : Nat) : Nat := v / 2 ^ lo % 2 ^ w

/-- Bit `i` of a number. -/
def bitN (v i : Nat) : Bool := v / 2 ^ i % 2 == 1

/-- The number with bit `i` set. -/
def setBitN (v i : Nat) : Nat := if bitN v i then v else v + 2 ^ i

/-- The number with bit `i` clear. -/
def clrBitN (v i : Nat) : Nat := if bitN v i then v - 2 ^ i else v

/-- A field of a register: `w` bits from bit `lo` up (R14, "[15:8]" is lo 8, w 8). -/
def fld (v : Word) (lo w : Nat) : Nat := bitsN v.toNat lo w

/-- One bit of a register. -/
def bit (v : Word) (i : Nat) : Bool := v.getLsbD i

/-- The register with the field `lo`, `w` holding `x` mod 2^w. -/
def putFld (v : Word) (lo w x : Nat) : Word :=
  (v &&& ~~~(BitVec.ofNat 32 ((2 ^ w - 1) * 2 ^ lo))) ||| BitVec.ofNat 32 (x % 2 ^ w * 2 ^ lo)

/-- The register with bit `i` at `b`. -/
def putBit (v : Word) (i : Nat) (b : Bool) : Word := putFld v i 1 (if b then 1 else 0)

/-- The set bits of `v` among bits 0 to n − 1, rising. -/
def bitList (v n : Nat) : List Nat := (List.range n).filter (bitN v)

def b2n (b : Bool) : Nat := if b then 1 else 0

/-- The two's complement reading of the low `w` bits of `v`. -/
def sext (w v : Nat) : Int :=
  let u := v % 2 ^ w
  if u < 2 ^ (w - 1) then (u : Int) else (u : Int) - (2 ^ w : Nat)

/-- The low `w` bits of the two's complement form of `i`. -/
def low (w : Nat) (i : Int) : Nat := (i % ((2 ^ w : Nat) : Int)).toNat

/-- `i` wrapped into `w` bits, signed. -/
def wrapS (w : Nat) (i : Int) : Int := sext w (low w i)

/-- `i` bounded to lo..hi. -/
def clampI (lo hi i : Int) : Int := if i < lo then lo else if hi < i then hi else i

/-- `i` bounded to a signed field of `w` bits. -/
def satS (w : Nat) (i : Int) : Int := clampI (-((2 ^ (w - 1) : Nat) : Int)) ((2 ^ (w - 1) : Nat) - 1) i

/-- Quotient rounded towards minus infinity. -/
def fdiv (a b : Int) : Int := Int.fdiv a b

def imod (a b : Int) : Int := Int.fmod a b

/-- Least whole number at or above a / b. -/
def ceilDiv (a b : Nat) : Nat := (a + b - 1) / b

/-- The number whose bytes are listed, lowest first (R404: multi-byte fields are little-endian). -/
def leNat : List Byte → Nat
  | [] => 0
  | b :: r => b.toNat + 256 * leNat r

/-- `n` bytes of the number, lowest first. -/
def leBytes : Nat → Nat → List Byte
  | 0, _ => []
  | n + 1, v => BitVec.ofNat 8 v :: leBytes n (v / 256)

/-- `n` bytes of `l` from index `i`, 0 where the list is short. -/
def slice (l : List Byte) (i n : Nat) : List Byte := ((l.drop i) ++ List.replicate n 0).take n

/-- The little-endian number of `n` bytes at index `i`. -/
def getLE (l : List Byte) (i n : Nat) : Nat := leNat (slice l i n)

/-- One bit step of the reflected CRC-32C register (R20: Castagnoli, reflected). PRESUMED, log entry 10: the polynomial
0x1EDC6F41 that the name Castagnoli stands for, 0x82F63B78 reflected; the spec names it without writing it. -/
def crcBit (c : Nat) : Nat := if c % 2 = 1 then Nat.xor (c / 2) 0x82F63B78 else c / 2

def crcByte (c : Nat) (b : Byte) : Nat :=
  crcBit (crcBit (crcBit (crcBit (crcBit (crcBit (crcBit (crcBit (Nat.xor c b.toNat))))))))

/-- CRC-32C of a byte string (R20: initial value 0xFFFF_FFFF, final inversion). -/
def crc32c (l : List Byte) : Nat := Nat.xor (l.foldl crcByte 0xFFFFFFFF) 0xFFFFFFFF

end Sys2Proof.Machine
end

