-- ==== Sys2Proof/Machine/RegMap.lean ====
section
/-! DEFINITION. The register map: the fabric address of every 32-bit register (namespace R, one name a register, its
index arguments those of the spec's table) and one row a register with its access masks (R15) and its Reset value
(R79, R110, R111, R141, R142, R177, R178, R220, R221, R245, R339, R380, R382, R421 to R424, R448, R449, R465, R472).
Log entry 12 lists the reset values the spec leaves to the image. -/

namespace Sys2Proof.Machine

/-- One row of a register table: first offset in its block, up to two index dimensions (stride, count; count 0 for
none), the masks of the access codes of R15 (act: W1S and write-only command bits), bits that read 0 by rule but are
not reserved, whether the register is proof-staged, and the Reset value. -/
structure RegRow where
  off : Nat
  s1 : Nat
  c1 : Nat
  s2 : Nat
  c2 : Nat
  rw : Nat
  act : Nat
  w1c : Nat
  rc : Nat
  ro : Nat
  sl : Nat
  zero : Nat
  ps : Bool
  reset : Nat
  deriving DecidableEq, Repr

/-- Does the row hold the register at offset `o` of its block? -/
def RegRow.covers (r : RegRow) (o : Nat) : Bool :=
  if o < r.off then false
  else
    let d := o - r.off
    if r.c1 = 0 then d == 0
    else
      let e := d % r.s1
      decide (d / r.s1 < r.c1) &&
        (if r.c2 = 0 then e == 0 else decide (e % r.s2 = 0 ∧ e / r.s2 < r.c2))

/-- The union of the bits the row defines; every other bit is reserved (R14). -/
def RegRow.defined (r : RegRow) : Nat :=
  ((((((r.rw ||| r.act) ||| r.w1c) ||| r.rc) ||| r.ro) ||| r.sl) ||| r.zero)

namespace R

/-- Base of tile-level block `i` (R391). -/
abbrev tile (i : Nat) : Nat := 0x300000000 + i * 0x10000
/-- Base of the register block of cluster `n` (R7). -/
abbrev cluster (n : Nat) : Nat := 0x310000000 + n * 0x10000

abbrev POS_CTL : Nat := tile 1 + 0x0
abbrev POS_STAT : Nat := tile 1 + 0x4
abbrev POS_SRC : Nat := tile 1 + 0x8
abbrev POS_PL : Nat := tile 1 + 0x14
abbrev POS_PH : Nat := tile 1 + 0x18
abbrev POS_LINEL : Nat := tile 1 + 0x1C
abbrev POS_LINEH : Nat := tile 1 + 0x20
abbrev POS_HWML : Nat := tile 1 + 0x24
abbrev POS_HWMH : Nat := tile 1 + 0x28
abbrev POS_REVDEPTH : Nat := tile 1 + 0x2C
abbrev POS_VEL : Nat := tile 1 + 0x30
abbrev POS_LPER : Nat := tile 1 + 0x34
abbrev POS_LPERMIN : Nat := tile 1 + 0x38
abbrev POS_TIMEL : Nat := tile 1 + 0x3C
abbrev POS_TIMEH : Nat := tile 1 + 0x40
abbrev POS_ENC_CTL (i : Nat) : Nat := tile 1 + 0x100 + 0x20 * i
abbrev POS_ENC_CNT (i : Nat) : Nat := tile 1 + 0x104 + 0x20 * i
abbrev POS_ENC_ERR (i : Nat) : Nat := tile 1 + 0x108 + 0x20 * i
abbrev POS_ENC_GF (i : Nat) : Nat := tile 1 + 0x10C + 0x20 * i
abbrev POS_ENC_NUM (i : Nat) : Nat := tile 1 + 0x110 + 0x20 * i
abbrev POS_ENC_DEN (i : Nat) : Nat := tile 1 + 0x114 + 0x20 * i
abbrev POS_SSI_CTL (i : Nat) : Nat := tile 1 + 0x200 + 0x20 * i
abbrev POS_SSI_SCALE (i : Nat) : Nat := tile 1 + 0x204 + 0x20 * i
abbrev POS_SSI_TOL (i : Nat) : Nat := tile 1 + 0x208 + 0x20 * i
abbrev POS_SSI_LAST (i : Nat) : Nat := tile 1 + 0x20C + 0x20 * i
abbrev POS_SSI_DEV (i : Nat) : Nat := tile 1 + 0x210 + 0x20 * i
abbrev POS_EV_CTL (i : Nat) : Nat := tile 1 + 0x400 + 0x20 * i
abbrev POS_EV_TSL (i : Nat) : Nat := tile 1 + 0x404 + 0x20 * i
abbrev POS_EV_TSH (i : Nat) : Nat := tile 1 + 0x408 + 0x20 * i
abbrev POS_EV_PL (i : Nat) : Nat := tile 1 + 0x40C + 0x20 * i
abbrev POS_EV_PH (i : Nat) : Nat := tile 1 + 0x410 + 0x20 * i
abbrev POS_EV_STAT (i : Nat) : Nat := tile 1 + 0x414 + 0x20 * i
abbrev POS_REG_CTL (i : Nat) : Nat := tile 1 + 0x600 + 0x20 * i
abbrev POS_REG_GAIN (i : Nat) : Nat := tile 1 + 0x604 + 0x20 * i
abbrev POS_REG_MSTEP (i : Nat) : Nat := tile 1 + 0x608 + 0x20 * i
abbrev POS_REG_NEXTL (i : Nat) : Nat := tile 1 + 0x60C + 0x20 * i
abbrev POS_REG_NEXTH (i : Nat) : Nat := tile 1 + 0x610 + 0x20 * i
abbrev POS_REG_CORR (i : Nat) : Nat := tile 1 + 0x614 + 0x20 * i
abbrev POS_PHASE (i : Nat) : Nat := tile 1 + 0x800 + 0x4 * i
abbrev POS_CMP_VL (i : Nat) : Nat := tile 1 + 0x1000 + 0x10 * i
abbrev POS_CMP_VH (i : Nat) : Nat := tile 1 + 0x1004 + 0x10 * i
abbrev POS_CMP_STEP (i : Nat) : Nat := tile 1 + 0x1008 + 0x10 * i
abbrev POS_CMP_CTL (i : Nat) : Nat := tile 1 + 0x100C + 0x10 * i
abbrev CMP_CFG : Nat := tile 2 + 0x0
abbrev CMP_DICT : Nat := tile 2 + 0x4
abbrev CMP_CMTL : Nat := tile 2 + 0x10
abbrev CMP_CMTH : Nat := tile 2 + 0x14
abbrev CMP_CMTGO : Nat := tile 2 + 0x18
abbrev CMP_CMTSTAT : Nat := tile 2 + 0x1C
abbrev CMP_STR_BASE : Nat := tile 2 + 0x20
abbrev CMP_STR_SIZE : Nat := tile 2 + 0x24
abbrev CMP_STR_WP : Nat := tile 2 + 0x28
abbrev CMP_STR_RP : Nat := tile 2 + 0x2C
abbrev CMP_STR_CTL : Nat := tile 2 + 0x30
abbrev CMP_TSTAT : Nat := tile 2 + 0x34
abbrev CLC_CTL (cl : Nat) : Nat := cluster cl + 0x1000
abbrev CLC_ASTAT (cl : Nat) : Nat := cluster cl + 0x1004
abbrev CLC_LANE (cl : Nat) : Nat := cluster cl + 0x1008
abbrev CLC_LASTL (cl : Nat) : Nat := cluster cl + 0x100C
abbrev CLC_LASTH (cl : Nat) : Nat := cluster cl + 0x1010
abbrev CLC_PSTAT (cl : Nat) : Nat := cluster cl + 0x1014
abbrev CLC_SPRSTAT (cl : Nat) : Nat := cluster cl + 0x1018
abbrev CLC_OMIT (cl : Nat) : Nat := cluster cl + 0x101C
abbrev CLC_STRCNT (cl : Nat) : Nat := cluster cl + 0x1020
abbrev CLC_CMTL (cl : Nat) : Nat := cluster cl + 0x1024
abbrev CLC_CMTH (cl : Nat) : Nat := cluster cl + 0x1028
abbrev CLC_CMTGO (cl : Nat) : Nat := cluster cl + 0x102C
abbrev CLC_CMTSTAT (cl : Nat) : Nat := cluster cl + 0x1030
abbrev CLC_PL_CTL (cl i : Nat) : Nat := cluster cl + 0x1100 + 0x20 * i
abbrev CLC_PLS_CTL (cl : Nat) : Nat := cluster cl + 0x1180
abbrev CLC_PL_MAP (cl i : Nat) : Nat := cluster cl + 0x1104 + 0x20 * i
abbrev CLC_PL_XSCR (cl i : Nat) : Nat := cluster cl + 0x1108 + 0x20 * i
abbrev CLC_PL_YORGL (cl i : Nat) : Nat := cluster cl + 0x110C + 0x20 * i
abbrev CLC_PL_YORGH (cl i : Nat) : Nat := cluster cl + 0x1110 + 0x20 * i
abbrev CLC_SPR_BASE (cl : Nat) : Nat := cluster cl + 0x11A0
abbrev CLC_SPR_LEN (cl : Nat) : Nat := cluster cl + 0x11A4
abbrev CLC_SPR_YORGL (cl : Nat) : Nat := cluster cl + 0x11A8
abbrev CLC_SPR_YORGH (cl : Nat) : Nat := cluster cl + 0x11AC
abbrev CLC_PAL (cl i : Nat) : Nat := cluster cl + 0x11C0 + 0x4 * i
abbrev NZL_CFG : Nat := tile 3 + 0x0
abbrev NZL_STAT : Nat := tile 3 + 0x4
abbrev NZL_PIPE : Nat := tile 3 + 0x8
abbrev NZL_UPD : Nat := tile 3 + 0xC
abbrev NZL_CMTL : Nat := tile 3 + 0x10
abbrev NZL_CMTH : Nat := tile 3 + 0x14
abbrev NZL_CMTGO : Nat := tile 3 + 0x18
abbrev NZL_CMTSTAT : Nat := tile 3 + 0x1C
abbrev NZL_QRY : Nat := tile 3 + 0x20
abbrev NZL_QDAT : Nat := tile 3 + 0x24
abbrev NZL_NTOT : Nat := tile 3 + 0x28
abbrev NZL_NOVL : Nat := tile 3 + 0x2C
abbrev NZL_LOST : Nat := tile 3 + 0x30
abbrev NZL_SQ_BASE : Nat := tile 3 + 0x34
abbrev NZL_SQ_SIZE : Nat := tile 3 + 0x38
abbrev NZL_SQ_WP : Nat := tile 3 + 0x3C
abbrev NZL_SQ_RP : Nat := tile 3 + 0x40
abbrev NZL_SQ_DROP : Nat := tile 3 + 0x44
abbrev NZL_RG (i : Nat) : Nat := tile 3 + 0x100 + 0x4 * i
abbrev NZL_RG_N (i : Nat) : Nat := tile 3 + 0x200 + 0x4 * i
abbrev NZL_RG_MAP (i : Nat) : Nat := tile 3 + 0x300 + 0x4 * i
abbrev NZL_RTAB (i : Nat) : Nat := tile 3 + 0x800 + 0x4 * i
abbrev NZL_CRULE (i : Nat) : Nat := tile 3 + 0xA00 + 0x4 * i
abbrev NZL_OV_A (i : Nat) : Nat := tile 3 + 0x2000 + 0x8 * i
abbrev NZL_OV_B (i : Nat) : Nat := tile 3 + 0x2004 + 0x8 * i
abbrev NZL_GEO_A (i : Nat) : Nat := tile 3 + 0x4000 + 0x8 * i
abbrev NZL_GEO_B (i : Nat) : Nat := tile 3 + 0x4004 + 0x8 * i
abbrev NZL_MASK (i : Nat) : Nat := tile 3 + 0x8000 + 0x4 * i
abbrev LST_CFG : Nat := tile 4 + 0x0
abbrev LST_STAT : Nat := tile 4 + 0x4
abbrev LST_DREL : Nat := tile 4 + 0x8
abbrev LST_NLINES : Nat := tile 4 + 0xC
abbrev LST_WP : Nat := tile 4 + 0x10
abbrev LST_RP : Nat := tile 4 + 0x14
abbrev LST_OCC : Nat := tile 4 + 0x18
abbrev LST_OCCMAX : Nat := tile 4 + 0x1C
abbrev LST_WM_NOTE : Nat := tile 4 + 0x20
abbrev LST_WM_RED : Nat := tile 4 + 0x24
abbrev LST_WM_TOP : Nat := tile 4 + 0x28
abbrev LST_DROPCNT : Nat := tile 4 + 0x2C
abbrev LST_REDSEG : Nat := tile 4 + 0x30
abbrev LST_REDLINE : Nat := tile 4 + 0x34
abbrev LST_LOG_BASE : Nat := tile 4 + 0x40
abbrev LST_LOG_SIZE : Nat := tile 4 + 0x44
abbrev LST_LOG_WP : Nat := tile 4 + 0x48
abbrev LST_LOG_RP : Nat := tile 4 + 0x4C
abbrev LST_LOG_DROP : Nat := tile 4 + 0x50
abbrev LST_SCRUB : Nat := tile 4 + 0x60
abbrev LST_ECCCNT : Nat := tile 4 + 0x64
abbrev LST_UEADDR : Nat := tile 4 + 0x68
abbrev LST_SLICE : Nat := tile 4 + 0x6C
abbrev LST_CETHR : Nat := tile 4 + 0x70
abbrev COD_CFG : Nat := tile 5 + 0x0
abbrev COD_STAT : Nat := tile 5 + 0x4
abbrev COD_PIPE : Nat := tile 5 + 0x8
abbrev COD_BUD : Nat := tile 5 + 0xC
abbrev COD_LASTL : Nat := tile 5 + 0x10
abbrev COD_LASTH : Nat := tile 5 + 0x14
abbrev COD_LSIZE : Nat := tile 5 + 0x18
abbrev COD_MODES0 : Nat := tile 5 + 0x1C
abbrev COD_MODES1 : Nat := tile 5 + 0x20
abbrev COD_MODES2 : Nat := tile 5 + 0x24
abbrev PEEL_CFG : Nat := tile 6 + 0x0
abbrev PEEL_STAT : Nat := tile 6 + 0x4
abbrev PEEL_PIPE : Nat := tile 6 + 0x8
abbrev PEEL_LATECNT : Nat := tile 6 + 0xC
abbrev PEEL_UECNT : Nat := tile 6 + 0x10
abbrev PEEL_SPIT : Nat := tile 6 + 0x20
abbrev PEEL_SPITSKIP : Nat := tile 6 + 0x24
abbrev PEEL_RG (i : Nat) : Nat := tile 6 + 0x100 + 0x4 * i
abbrev HLK_CFG : Nat := tile 7 + 0x0
abbrev HLK_STAT : Nat := tile 7 + 0x4
abbrev HLK_LSET : Nat := tile 7 + 0x8
abbrev HLK_RSWL : Nat := tile 7 + 0x10
abbrev HLK_RSWH : Nat := tile 7 + 0x14
abbrev HLK_RSWGO : Nat := tile 7 + 0x18
abbrev HLK_RSWSTAT : Nat := tile 7 + 0x1C
abbrev HLK_G3P_CFG (i : Nat) : Nat := tile 7 + 0x100 + 0x20 * i
abbrev HLK_G3P_STAT (i : Nat) : Nat := tile 7 + 0x104 + 0x20 * i
abbrev HLK_G3P_CTL (i : Nat) : Nat := tile 7 + 0x108 + 0x20 * i
abbrev HLK_G3P_RTT (i : Nat) : Nat := tile 7 + 0x10C + 0x20 * i
abbrev HLK_G3P_RETX (i : Nat) : Nat := tile 7 + 0x110 + 0x20 * i
abbrev HLK_G3P_RXERR (i : Nat) : Nat := tile 7 + 0x114 + 0x20 * i
abbrev HLK_G3P_REPLAY (i : Nat) : Nat := tile 7 + 0x118 + 0x20 * i
abbrev HLK_TX_FFE (i : Nat) : Nat := tile 7 + 0x400 + 0x10 * i
abbrev HLK_RX_EQ (i : Nat) : Nat := tile 7 + 0x600 + 0x10 * i
abbrev HLK_RX_DFE (i : Nat) : Nat := tile 7 + 0x604 + 0x10 * i
abbrev HLK_STB (i : Nat) : Nat := tile 7 + 0x800 + 0x4 * i
abbrev HLK_RTA (i : Nat) : Nat := tile 7 + 0x1000 + 0x4 * i
abbrev HLK_RTB (i : Nat) : Nat := tile 7 + 0x2000 + 0x4 * i
abbrev HLK_TEMP (i : Nat) : Nat := tile 7 + 0x3000 + 0x4 * i
abbrev WAV_CFG : Nat := tile 8 + 0x0
abbrev WAV_STAT : Nat := tile 8 + 0x4
abbrev WAV_JSTAT : Nat := tile 8 + 0x8
abbrev WAV_JLANE : Nat := tile 8 + 0xC
abbrev WAV_JID : Nat := tile 8 + 0x10
abbrev WAV_VOTE : Nat := tile 8 + 0x14
abbrev WAV_CTL : Nat := tile 8 + 0x18
abbrev WAV_VO_CFG (i : Nat) : Nat := tile 8 + 0x100 + 0x10 * i
abbrev WAV_VO_BASE (i : Nat) : Nat := tile 8 + 0x104 + 0x10 * i
abbrev WAV_VO_DLY (i : Nat) : Nat := tile 8 + 0x108 + 0x10 * i
abbrev WAV_VO_STAT (i : Nat) : Nat := tile 8 + 0x10C + 0x10 * i
abbrev WAV_OUT_SRC (i j : Nat) : Nat := tile 8 + 0x800 + 0x40 * i + 0x4 * j
abbrev WAV_OUT_GAIN (i : Nat) : Nat := tile 8 + 0x810 + 0x40 * i
abbrev WAV_OUT_GNOW (i : Nat) : Nat := tile 8 + 0x814 + 0x40 * i
abbrev WAV_OUT_CEIL (i : Nat) : Nat := tile 8 + 0x818 + 0x40 * i
abbrev WAV_OUT_LIM (i : Nat) : Nat := tile 8 + 0x81C + 0x40 * i
abbrev WAV_OUT_OSTAT (i : Nat) : Nat := tile 8 + 0x820 + 0x40 * i
abbrev WAV_TS_SRC (i : Nat) : Nat := tile 8 + 0x1000 + 0x20 * i
abbrev WAV_TS_PWM (i : Nat) : Nat := tile 8 + 0x1004 + 0x20 * i
abbrev WAV_TS_LAW (i : Nat) : Nat := tile 8 + 0x1008 + 0x20 * i
abbrev WAV_TS_KLIM (i : Nat) : Nat := tile 8 + 0x100C + 0x20 * i
abbrev WAV_TS_K (i : Nat) : Nat := tile 8 + 0x1010 + 0x20 * i
abbrev WAV_TS_T (i : Nat) : Nat := tile 8 + 0x1014 + 0x20 * i
abbrev WAV_SEG (i : Nat) : Nat := tile 8 + 0x4000 + 0x4 * i
abbrev EVC_CELL_PC (cl i j : Nat) : Nat := cluster cl + 0x800 + 0x20 * i + 0x4 * j
abbrev EVC_CELL_CFG (cl i : Nat) : Nat := cluster cl + 0xA00 + 0x4 * i
abbrev EVC_CELL_BPRIL (cl i : Nat) : Nat := cluster cl + 0xA40 + 0x8 * i
abbrev EVC_CELL_BPRIH (cl i : Nat) : Nat := cluster cl + 0xA44 + 0x8 * i
abbrev EVC_CFG (cl : Nat) : Nat := cluster cl + 0xC00
abbrev EVC_STAT (cl : Nat) : Nat := cluster cl + 0xC04
abbrev EVC_PENDSETL (cl : Nat) : Nat := cluster cl + 0xC08
abbrev EVC_PENDSETH (cl : Nat) : Nat := cluster cl + 0xC0C
abbrev EVC_PENDCLRL (cl : Nat) : Nat := cluster cl + 0xC10
abbrev EVC_PENDCLRH (cl : Nat) : Nat := cluster cl + 0xC14
abbrev EVC_MASKSETL (cl : Nat) : Nat := cluster cl + 0xC18
abbrev EVC_MASKSETH (cl : Nat) : Nat := cluster cl + 0xC1C
abbrev EVC_MASKCLRL (cl : Nat) : Nat := cluster cl + 0xC20
abbrev EVC_MASKCLRH (cl : Nat) : Nat := cluster cl + 0xC24
abbrev EVC_ACTL (cl : Nat) : Nat := cluster cl + 0xC28
abbrev EVC_ACTH (cl : Nat) : Nat := cluster cl + 0xC2C
abbrev EVC_RAWL (cl : Nat) : Nat := cluster cl + 0xC30
abbrev EVC_RAWH (cl : Nat) : Nat := cluster cl + 0xC34
abbrev EVC_DELIV (cl : Nat) : Nat := cluster cl + 0xC38
abbrev EVC_MERGE (cl : Nat) : Nat := cluster cl + 0xC3C
abbrev EVC_CELL (cl i : Nat) : Nat := cluster cl + 0xC40 + 0x4 * i
abbrev EVC_WAKE_L (cl i : Nat) : Nat := cluster cl + 0xC80 + 0x8 * i
abbrev EVC_WAKE_H (cl i : Nat) : Nat := cluster cl + 0xC84 + 0x8 * i
abbrev EVC_SRC (cl i : Nat) : Nat := cluster cl + 0xD00 + 0x4 * i
abbrev EVC_TGT_L (cl i : Nat) : Nat := cluster cl + 0xE00 + 0x8 * i
abbrev EVC_TGT_H (cl i : Nat) : Nat := cluster cl + 0xE04 + 0x8 * i
abbrev TMR_SLRATIO (cl : Nat) : Nat := cluster cl + 0x15F0
abbrev TMR_SLCTL (cl : Nat) : Nat := cluster cl + 0x15F4
abbrev TMR_SLN (cl : Nat) : Nat := cluster cl + 0x15F8
abbrev TMR_SLPH (cl : Nat) : Nat := cluster cl + 0x15FC
abbrev TMR_CTL (cl i : Nat) : Nat := cluster cl + 0x1600 + 0x20 * i
abbrev TMR_CNT (cl i : Nat) : Nat := cluster cl + 0x1604 + 0x20 * i
abbrev TMR_PER (cl i : Nat) : Nat := cluster cl + 0x1608 + 0x20 * i
abbrev TMR_CMP (cl i : Nat) : Nat := cluster cl + 0x160C + 0x20 * i
abbrev TMR_CAP (cl i : Nat) : Nat := cluster cl + 0x1610 + 0x20 * i
abbrev TMR_STAT (cl i : Nat) : Nat := cluster cl + 0x1614 + 0x20 * i
abbrev TMR_PRE (cl i : Nat) : Nat := cluster cl + 0x1618 + 0x20 * i
abbrev TMR_MISS (cl i : Nat) : Nat := cluster cl + 0x161C + 0x20 * i
abbrev DMA_CTL (cl i : Nat) : Nat := cluster cl + 0x1700 + 0x40 * i
abbrev DMA_STAT (cl i : Nat) : Nat := cluster cl + 0x1704 + 0x40 * i
abbrev DMA_SRCL (cl i : Nat) : Nat := cluster cl + 0x1708 + 0x40 * i
abbrev DMA_SRCH (cl i : Nat) : Nat := cluster cl + 0x170C + 0x40 * i
abbrev DMA_DSTL (cl i : Nat) : Nat := cluster cl + 0x1710 + 0x40 * i
abbrev DMA_DSTH (cl i : Nat) : Nat := cluster cl + 0x1714 + 0x40 * i
abbrev DMA_COUNT (cl i : Nat) : Nat := cluster cl + 0x1718 + 0x40 * i
abbrev DMA_REMAIN (cl i : Nat) : Nat := cluster cl + 0x171C + 0x40 * i
abbrev DMA_SSHAPE (cl i : Nat) : Nat := cluster cl + 0x1720 + 0x40 * i
abbrev DMA_SSTRIDE (cl i : Nat) : Nat := cluster cl + 0x1724 + 0x40 * i
abbrev DMA_DSHAPE (cl i : Nat) : Nat := cluster cl + 0x1728 + 0x40 * i
abbrev DMA_DSTRIDE (cl i : Nat) : Nat := cluster cl + 0x172C + 0x40 * i
abbrev PAN_CFG (cl : Nat) : Nat := cluster cl + 0x1800
abbrev PAN_STAT (cl : Nat) : Nat := cluster cl + 0x1804
abbrev PAN_ECCCNT (cl : Nat) : Nat := cluster cl + 0x1808
abbrev PAN_UEADDR (cl : Nat) : Nat := cluster cl + 0x180C
abbrev PAN_TPOS (cl : Nat) : Nat := cluster cl + 0x1810
abbrev PAN_SPARE (cl : Nat) : Nat := cluster cl + 0x1814
abbrev PAN_LTPOS (cl : Nat) : Nat := cluster cl + 0x1818
abbrev PAN_LSPARE (cl : Nat) : Nat := cluster cl + 0x181C
abbrev PAN_LECC (cl : Nat) : Nat := cluster cl + 0x1820
abbrev PAN_LUEADDR (cl : Nat) : Nat := cluster cl + 0x1824
abbrev PAN_WMAX01 (cl : Nat) : Nat := cluster cl + 0x1828
abbrev PAN_WMAX23 (cl : Nat) : Nat := cluster cl + 0x182C
abbrev FAB_CFG : Nat := tile 9 + 0x0
abbrev FAB_STAT : Nat := tile 9 + 0x4
abbrev FAB_AERRL : Nat := tile 9 + 0x8
abbrev FAB_AERRH : Nat := tile 9 + 0xC
abbrev FAB_AERRCNT : Nat := tile 9 + 0x10
abbrev FAB_FAULT : Nat := tile 9 + 0x14
abbrev FAB_C0Q : Nat := tile 9 + 0x18
abbrev FAB_TSCFG : Nat := tile 9 + 0x30
abbrev FAB_TSECC : Nat := tile 9 + 0x34
abbrev FAB_TSPOS : Nat := tile 9 + 0x38
abbrev FAB_GROUP (i : Nat) : Nat := tile 9 + 0x20 + 0x4 * i
abbrev FAB_FLOW_SL (i : Nat) : Nat := tile 9 + 0x1000 + 0x8 * i
abbrev FAB_FLOW_SH (i : Nat) : Nat := tile 9 + 0x1004 + 0x8 * i
abbrev DLK_CFG : Nat := tile 10 + 0x0
abbrev DLK_STAT : Nat := tile 10 + 0x4
abbrev DLK_CTL : Nat := tile 10 + 0x8
abbrev DLK_CRCERR : Nat := tile 10 + 0xC
abbrev DLK_REPLAY : Nat := tile 10 + 0x10
abbrev DLK_ALM : Nat := tile 10 + 0x14
abbrev ASP_CFG : Nat := tile 11 + 0x0
abbrev ASP_STAT : Nat := tile 11 + 0x4
abbrev ASP_DROP : Nat := tile 11 + 0x8
abbrev ASP_QOCC : Nat := tile 11 + 0xC
abbrev ASP_COALMAPL : Nat := tile 11 + 0x10
abbrev ASP_COALMAPH : Nat := tile 11 + 0x14
abbrev ASP_INREJ : Nat := tile 11 + 0x18
abbrev ASP_COAL (i : Nat) : Nat := tile 11 + 0x100 + 0x4 * i
abbrev ASP_IR_BASE (cl i : Nat) : Nat := cluster cl + 0x1900 + 0x10 * i
abbrev ASP_IR_SIZE (cl i : Nat) : Nat := cluster cl + 0x1904 + 0x10 * i
abbrev ASP_IR_WP (cl i : Nat) : Nat := cluster cl + 0x1908 + 0x10 * i
abbrev ASP_IR_RP (cl i : Nat) : Nat := cluster cl + 0x190C + 0x10 * i
abbrev ASP_EVPOST (cl : Nat) : Nat := cluster cl + 0x1920
abbrev ASP_TRPOST (cl : Nat) : Nat := cluster cl + 0x1924
abbrev STA_STAT : Nat := tile 12 + 0x0
abbrev STA_FUSE : Nat := tile 12 + 0x4
abbrev STA_IMGID : Nat := tile 12 + 0x8
abbrev STA_SVN : Nat := tile 12 + 0xC
abbrev STA_IMGLEN : Nat := tile 12 + 0x10
abbrev STA_MCVER : Nat := tile 12 + 0x14
abbrev STA_LOADT : Nat := tile 12 + 0x18
abbrev STA_REPAIR : Nat := tile 12 + 0x1C
abbrev STA_FLASH : Nat := tile 12 + 0x20
abbrev STA_IDIG (i : Nat) : Nat := tile 12 + 0x40 + 0x4 * i
abbrev STA_BDIG (i : Nat) : Nat := tile 12 + 0x60 + 0x4 * i
abbrev STA_CDIG (i : Nat) : Nat := tile 12 + 0x80 + 0x4 * i
abbrev STA_KEYH (i : Nat) : Nat := tile 12 + 0xA0 + 0x4 * i
abbrev SYN_CFG : Nat := tile 13 + 0x0
abbrev SYN_TOL : Nat := tile 13 + 0x4
abbrev SYN_LINE0L : Nat := tile 13 + 0x8
abbrev SYN_LINE0H : Nat := tile 13 + 0xC
abbrev SYN_CTL : Nat := tile 13 + 0x10
abbrev SYN_STAT : Nat := tile 13 + 0x14
abbrev SYN_COND : Nat := tile 13 + 0x18
abbrev SYN_ALM : Nat := tile 13 + 0x1C
abbrev SYN_EPOCH : Nat := tile 13 + 0x20
abbrev SYN_PMASK : Nat := tile 13 + 0x24
abbrev SYN_IMASK : Nat := tile 13 + 0x28
abbrev SYN_D : Nat := tile 13 + 0x2C
abbrev SYN_CRCERR : Nat := tile 13 + 0x30
abbrev SYN_SKIP : Nat := tile 13 + 0x34
abbrev TIL_ID : Nat := tile 0 + 0x0
abbrev TIL_MODE : Nat := tile 0 + 0x4
abbrev TIL_MREQ : Nat := tile 0 + 0x8
abbrev TIL_MSTAT : Nat := tile 0 + 0xC
abbrev TIL_CFG : Nat := tile 0 + 0x10
abbrev TIL_FORCE : Nat := tile 0 + 0x14
abbrev TIL_REDLOST : Nat := tile 0 + 0x18
abbrev TIL_MCHGL : Nat := tile 0 + 0x1C
abbrev TIL_MCHGH : Nat := tile 0 + 0x20
abbrev TIL_WAKE : Nat := tile 0 + 0x24
abbrev TIL_WDOG : Nat := tile 0 + 0x28
abbrev TIL_WDCFG : Nat := tile 0 + 0x2C
abbrev TIL_PREP : Nat := tile 0 + 0x30
abbrev TIL_TPC : Nat := tile 0 + 0x34
abbrev TIL_PAIRREP : Nat := tile 0 + 0x38
abbrev TIL_ASUML : Nat := tile 0 + 0x40
abbrev TIL_ASUMH : Nat := tile 0 + 0x44
abbrev TIL_AMASKL : Nat := tile 0 + 0x48
abbrev TIL_AMASKH : Nat := tile 0 + 0x4C
abbrev TIL_MCHGCNT : Nat := tile 0 + 0x50
abbrev CLN_UPD (cl : Nat) : Nat := cluster cl + 0x1400
abbrev CLN_QRY (cl : Nat) : Nat := cluster cl + 0x1404
abbrev CLN_QDAT (cl : Nat) : Nat := cluster cl + 0x1408
abbrev CLN_CMTL (cl : Nat) : Nat := cluster cl + 0x140C
abbrev CLN_CMTH (cl : Nat) : Nat := cluster cl + 0x1410
abbrev CLN_CMTGO (cl : Nat) : Nat := cluster cl + 0x1414
abbrev CLN_CMTSTAT (cl : Nat) : Nat := cluster cl + 0x1418
abbrev CLN_SQ_WP (cl : Nat) : Nat := cluster cl + 0x141C
abbrev CLN_SQ_RP (cl : Nat) : Nat := cluster cl + 0x1420
abbrev CX_PAIR_CFG (cl i : Nat) : Nat := cluster cl + 0x1940 + 0x4 * i

end R

def rowsTIL : List RegRow := [
  ⟨0x0, 0x0, 0, 0x0, 0, 0, 0, 0, 0, 0xFFFFF, 0, 0, false, 0x14816⟩, -- TIL_ID
  ⟨0x4, 0x0, 0, 0x0, 0, 0, 0, 0, 0, 0x3FFF, 0, 0, false, 0⟩, -- TIL_MODE
  ⟨0x8, 0x0, 0, 0x0, 0, 0, 0xF, 0, 0, 0, 0, 0, false, 0⟩, -- TIL_MREQ
  ⟨0xC, 0x0, 0, 0x0, 0, 0, 0, 0, 0, 0xFFF7, 0, 0, false, 0⟩, -- TIL_MSTAT
  ⟨0x10, 0x0, 0, 0x0, 0, 0, 0, 0, 0, 0, 0x1EF, 0, false, 0⟩, -- TIL_CFG
  ⟨0x14, 0x0, 0, 0x0, 0, 0, 0, 0, 0, 0x1FF, 0, 0, false, 0⟩, -- TIL_FORCE
  ⟨0x18, 0x0, 0, 0x0, 0, 0, 0, 0, 0, 0x13FFF, 0, 0, false, 0x10000⟩, -- TIL_REDLOST
  ⟨0x1C, 0x0, 0, 0x0, 0, 0, 0, 0, 0, 0xFFFFFFFF, 0, 0, false, 0⟩, -- TIL_MCHGL
  ⟨0x20, 0x0, 0, 0x0, 0, 0, 0, 0, 0, 0xFF, 0, 0, false, 0⟩, -- TIL_MCHGH
  ⟨0x24, 0x0, 0, 0x0, 0, 0xFFFFFFF7, 0, 0, 0, 0, 0, 0, false, 0x1⟩, -- TIL_WAKE
  ⟨0x28, 0x0, 0, 0x0, 0, 0xFFFFFF, 0, 0, 0, 0, 0, 0, false, 0⟩, -- TIL_WDOG
  ⟨0x2C, 0x0, 0, 0x0, 0, 0, 0, 0, 0, 0, 0xFFFFFF, 0, false, 0⟩, -- TIL_WDCFG
  ⟨0x30, 0x0, 0, 0x0, 0, 0, 0, 0, 0, 0, 0xFFF7F7F, 0, false, 0⟩, -- TIL_PREP
  ⟨0x34, 0x0, 0, 0x0, 0, 0, 0, 0, 0, 0, 0xFFFFFF, 0, false, 0⟩, -- TIL_TPC
  ⟨0x38, 0x0, 0, 0x0, 0, 0, 0xFFFFFFFF, 0, 0, 0, 0, 0, false, 0⟩, -- TIL_PAIRREP
  ⟨0x40, 0x0, 0, 0x0, 0, 0, 0, 0xFFFFFFFF, 0, 0, 0, 0, false, 0⟩, -- TIL_ASUML
  ⟨0x44, 0x0, 0, 0x0, 0, 0, 0, 0xFFFFFFFF, 0, 0, 0, 0, false, 0⟩, -- TIL_ASUMH
  ⟨0x48, 0x0, 0, 0x0, 0, 0xFFFFFFFF, 0, 0, 0, 0, 0, 0, false, 0⟩, -- TIL_AMASKL
  ⟨0x4C, 0x0, 0, 0x0, 0, 0xFFFFFFFF, 0, 0, 0, 0, 0, 0, false, 0⟩, -- TIL_AMASKH
  ⟨0x50, 0x0, 0, 0x0, 0, 0, 0, 0, 0xFFFFFFFF, 0, 0, 0, false, 0⟩ -- TIL_MCHGCNT
  ]

def rowsPOS0 : List RegRow := [
  ⟨0x0, 0x0, 0, 0x0, 0, 0, 0x7, 0, 0, 0, 0, 0, false, 0⟩, -- POS_CTL
  ⟨0x4, 0x0, 0, 0x0, 0, 0, 0, 0x1E3A, 0, 0x1C5, 0, 0, false, 0⟩, -- POS_STAT
  ⟨0x8, 0x0, 0, 0x0, 0, 0, 0, 0, 0, 0, 0xF1F, 0, false, 0⟩, -- POS_SRC
  ⟨0x14, 0x0, 0, 0x0, 0, 0, 0, 0, 0, 0xFFFFFFFF, 0, 0, false, 0⟩, -- POS_PL
  ⟨0x18, 0x0, 0, 0x0, 0, 0, 0, 0, 0, 0xFFFF, 0, 0, false, 0⟩, -- POS_PH
  ⟨0x1C, 0x0, 0, 0x0, 0, 0, 0, 0, 0, 0xFFFFFFFF, 0, 0, false, 0⟩, -- POS_LINEL
  ⟨0x20, 0x0, 0, 0x0, 0, 0, 0, 0, 0, 0xFF, 0, 0, false, 0⟩, -- POS_LINEH
  ⟨0x24, 0x0, 0, 0x0, 0, 0, 0, 0, 0, 0xFFFFFFFF, 0, 0, false, 0⟩, -- POS_HWML
  ⟨0x28, 0x0, 0, 0x0, 0, 0, 0, 0, 0, 0xFF, 0, 0, false, 0⟩, -- POS_HWMH
  ⟨0x2C, 0x0, 0, 0x0, 0, 0, 0, 0, 0, 0x1FFF, 0, 0, false, 0⟩, -- POS_REVDEPTH
  ⟨0x30, 0x0, 0, 0x0, 0, 0, 0, 0, 0, 0xFFFFFFFF, 0, 0, false, 0⟩, -- POS_VEL
  ⟨0x34, 0x0, 0, 0x0, 0, 0, 0, 0, 0, 0xFFFFFFFF, 0, 0, false, 0xFFFFFFFF⟩, -- POS_LPER
  ⟨0x38, 0x0, 0, 0x0, 0, 0, 0, 0, 0xFFFFFFFF, 0, 0, 0, false, 0xFFFFFFFF⟩, -- POS_LPERMIN
  ⟨0x3C, 0x0, 0, 0x0, 0, 0, 0, 0, 0, 0xFFFFFFFF, 0, 0, false, 0⟩, -- POS_TIMEL
  ⟨0x40, 0x0, 0, 0x0, 0, 0, 0, 0, 0, 0xFFFFFF, 0, 0, false, 0⟩, -- POS_TIMEH
  ⟨0x100, 0x20, 4, 0x0, 0, 0, 0, 0, 0, 0, 0xFFFFFF07, 0, false, 0⟩, -- POS_ENC_CTL
  ⟨0x104, 0x20, 4, 0x0, 0, 0, 0, 0, 0, 0xFFFFFFFF, 0, 0, false, 0⟩, -- POS_ENC_CNT
  ⟨0x108, 0x20, 4, 0x0, 0, 0, 0, 0, 0xFFFFFFFF, 0, 0, 0, false, 0⟩, -- POS_ENC_ERR
  ⟨0x10C, 0x20, 4, 0x0, 0, 0x10000FF, 0, 0, 0, 0, 0xFFFF00, 0, false, 0⟩, -- POS_ENC_GF
  ⟨0x110, 0x20, 4, 0x0, 0, 0, 0, 0, 0, 0, 0xFFFFFFFF, 0, false, 0⟩, -- POS_ENC_NUM
  ⟨0x114, 0x20, 4, 0x0, 0, 0, 0, 0, 0, 0, 0xFFFFFFFF, 0, false, 0⟩, -- POS_ENC_DEN
  ⟨0x200, 0x20, 2, 0x0, 0, 0, 0, 0, 0, 0, 0xFFFFFF, 0, false, 0⟩, -- POS_SSI_CTL
  ⟨0x204, 0x20, 2, 0x0, 0, 0, 0, 0, 0, 0, 0xFFFFFFFF, 0, false, 0⟩, -- POS_SSI_SCALE
  ⟨0x208, 0x20, 2, 0x0, 0, 0, 0, 0, 0, 0, 0xFFFF, 0, false, 0⟩, -- POS_SSI_TOL
  ⟨0x20C, 0x20, 2, 0x0, 0, 0, 0, 0, 0, 0xFFFFFFFF, 0, 0, false, 0⟩, -- POS_SSI_LAST
  ⟨0x210, 0x20, 2, 0x0, 0, 0, 0, 0, 0, 0xFFFFFFFF, 0, 0, false, 0⟩, -- POS_SSI_DEV
  ⟨0x400, 0x20, 16, 0x0, 0, 0x7FF, 0, 0, 0, 0, 0, 0, false, 0⟩, -- POS_EV_CTL
  ⟨0x404, 0x20, 16, 0x0, 0, 0, 0, 0, 0, 0xFFFFFFFF, 0, 0, false, 0⟩, -- POS_EV_TSL
  ⟨0x408, 0x20, 16, 0x0, 0, 0, 0, 0, 0, 0xFFFFFF, 0, 0, false, 0⟩, -- POS_EV_TSH
  ⟨0x40C, 0x20, 16, 0x0, 0, 0, 0, 0, 0, 0xFFFFFFFF, 0, 0, false, 0⟩, -- POS_EV_PL
  ⟨0x410, 0x20, 16, 0x0, 0, 0, 0, 0, 0, 0xFFFF, 0, 0, false, 0⟩, -- POS_EV_PH
  ⟨0x414, 0x20, 16, 0x0, 0, 0, 0, 0x2, 0, 0x1, 0, 0, false, 0⟩, -- POS_EV_STAT
  ⟨0x600, 0x20, 8, 0x0, 0, 0x20, 0, 0, 0, 0, 0xFFFFFFDF, 0, false, 0⟩, -- POS_REG_CTL
  ⟨0x604, 0x20, 8, 0x0, 0, 0, 0, 0, 0, 0, 0xFFFFFFFF, 0, false, 0⟩, -- POS_REG_GAIN
  ⟨0x608, 0x20, 8, 0x0, 0, 0, 0, 0, 0, 0, 0xFFFFFFFF, 0, false, 0⟩, -- POS_REG_MSTEP
  ⟨0x60C, 0x20, 8, 0x0, 0, 0xFFFFFFFF, 0, 0, 0, 0, 0, 0, false, 0⟩, -- POS_REG_NEXTL
  ⟨0x610, 0x20, 8, 0x0, 0, 0xFFFF, 0, 0, 0, 0, 0, 0, false, 0⟩, -- POS_REG_NEXTH
  ⟨0x614, 0x20, 8, 0x0, 0, 0xFFFF, 0, 0, 0, 0, 0, 0, false, 0⟩, -- POS_REG_CORR
  ⟨0x800, 0x4, 64, 0x0, 0, 0, 0, 0, 0, 0, 0xFFFFFF01, 0, false, 0⟩, -- POS_PHASE
  ⟨0x1000, 0x10, 256, 0x0, 0, 0xFFFFFFFF, 0, 0, 0, 0, 0, 0, false, 0⟩ -- POS_CMP_VL
  ]
def rowsPOS1 : List RegRow := [
  ⟨0x1004, 0x10, 256, 0x0, 0, 0xFFFF, 0, 0, 0, 0, 0, 0, false, 0⟩, -- POS_CMP_VH
  ⟨0x1008, 0x10, 256, 0x0, 0, 0xFFFFFFFF, 0, 0, 0, 0, 0, 0, false, 0⟩, -- POS_CMP_STEP
  ⟨0x100C, 0x10, 256, 0x0, 0, 0x27, 0, 0x10, 0, 0x8, 0, 0, false, 0⟩ -- POS_CMP_CTL
  ]
def rowsPOS : List RegRow := rowsPOS0 ++ rowsPOS1

def rowsCMP : List RegRow := [
  ⟨0x0, 0x0, 0, 0x0, 0, 0, 0, 0, 0, 0, 0x11FFF, 0, false, 0⟩, -- CMP_CFG
  ⟨0x4, 0x0, 0, 0x0, 0, 0, 0, 0, 0, 0, 0x1FFFE00, 0, false, 0⟩, -- CMP_DICT
  ⟨0x10, 0x0, 0, 0x0, 0, 0xFFFFFFFF, 0, 0, 0, 0, 0, 0, false, 0⟩, -- CMP_CMTL
  ⟨0x14, 0x0, 0, 0x0, 0, 0xFF, 0, 0, 0, 0, 0, 0, false, 0⟩, -- CMP_CMTH
  ⟨0x18, 0x0, 0, 0x0, 0, 0, 0xFFFF, 0, 0, 0, 0, 0, false, 0⟩, -- CMP_CMTGO
  ⟨0x1C, 0x0, 0, 0x0, 0, 0, 0, 0, 0, 0xFFFF000F, 0, 0, false, 0⟩, -- CMP_CMTSTAT
  ⟨0x20, 0x0, 0, 0x0, 0, 0, 0, 0, 0, 0, 0x1FFFFC0, 0, false, 0⟩, -- CMP_STR_BASE
  ⟨0x24, 0x0, 0, 0x0, 0, 0, 0, 0, 0, 0, 0xFFFFC0, 0, false, 0⟩, -- CMP_STR_SIZE
  ⟨0x28, 0x0, 0, 0x0, 0, 0x7FFFC0, 0, 0, 0, 0, 0, 0, false, 0⟩, -- CMP_STR_WP
  ⟨0x2C, 0x0, 0, 0x0, 0, 0, 0, 0, 0, 0x7FFFC0, 0, 0, false, 0⟩, -- CMP_STR_RP
  ⟨0x30, 0x0, 0, 0x0, 0, 0, 0x1, 0, 0, 0, 0, 0, false, 0⟩, -- CMP_STR_CTL
  ⟨0x34, 0x0, 0, 0x0, 0, 0, 0, 0, 0, 0xFF, 0, 0, false, 0⟩ -- CMP_TSTAT
  ]

def rowsNZL : List RegRow := [
  ⟨0x0, 0x0, 0, 0x0, 0, 0x3, 0, 0, 0, 0, 0x7FF0F00, 0, false, 0⟩, -- NZL_CFG
  ⟨0x4, 0x0, 0, 0x0, 0, 0, 0, 0xFF, 0, 0, 0, 0, false, 0⟩, -- NZL_STAT
  ⟨0x8, 0x0, 0, 0x0, 0, 0, 0, 0, 0, 0xFF03, 0, 0, false, 0x3⟩, -- NZL_PIPE
  ⟨0xC, 0x0, 0, 0x0, 0, 0, 0xFFF1FFFF, 0, 0, 0, 0, 0, false, 0⟩, -- NZL_UPD
  ⟨0x10, 0x0, 0, 0x0, 0, 0xFFFFFFFF, 0, 0, 0, 0, 0, 0, false, 0⟩, -- NZL_CMTL
  ⟨0x14, 0x0, 0, 0x0, 0, 0xFF, 0, 0, 0, 0, 0, 0, false, 0⟩, -- NZL_CMTH
  ⟨0x18, 0x0, 0, 0x0, 0, 0, 0x1, 0, 0, 0, 0, 0, false, 0⟩, -- NZL_CMTGO
  ⟨0x1C, 0x0, 0, 0x0, 0, 0, 0, 0, 0, 0xFFFF001F, 0, 0, false, 0⟩, -- NZL_CMTSTAT
  ⟨0x20, 0x0, 0, 0x0, 0, 0xBF01FFFF, 0, 0, 0, 0, 0, 0, false, 0⟩, -- NZL_QRY
  ⟨0x24, 0x0, 0, 0x0, 0, 0, 0, 0, 0, 0x1FF, 0, 0, false, 0⟩, -- NZL_QDAT
  ⟨0x28, 0x0, 0, 0x0, 0, 0, 0, 0, 0, 0, 0x3FFFF, 0, false, 0⟩, -- NZL_NTOT
  ⟨0x2C, 0x0, 0, 0x0, 0, 0, 0, 0, 0, 0, 0x1FF, 0, false, 0⟩, -- NZL_NOVL
  ⟨0x30, 0x0, 0, 0x0, 0, 0, 0, 0, 0, 0x3FFFF, 0, 0, false, 0⟩, -- NZL_LOST
  ⟨0x34, 0x0, 0, 0x0, 0, 0, 0, 0, 0, 0, 0x3FFFC, 0, false, 0⟩, -- NZL_SQ_BASE
  ⟨0x38, 0x0, 0, 0x0, 0, 0, 0, 0, 0, 0, 0x3FFF, 0, false, 0⟩, -- NZL_SQ_SIZE
  ⟨0x3C, 0x0, 0, 0x0, 0, 0, 0, 0, 0, 0x1FFF, 0, 0, false, 0⟩, -- NZL_SQ_WP
  ⟨0x40, 0x0, 0, 0x0, 0, 0x1FFF, 0, 0, 0, 0, 0, 0, false, 0⟩, -- NZL_SQ_RP
  ⟨0x44, 0x0, 0, 0x0, 0, 0, 0, 0, 0xFFFF, 0, 0, 0, false, 0⟩, -- NZL_SQ_DROP
  ⟨0x100, 0x4, 64, 0x0, 0, 0, 0, 0, 0, 0, 0xFFFF, 0, false, 0⟩, -- NZL_RG
  ⟨0x200, 0x4, 64, 0x0, 0, 0, 0, 0, 0, 0, 0x3FFFF, 0, false, 0⟩, -- NZL_RG_N
  ⟨0x300, 0x4, 64, 0x0, 0, 0, 0, 0, 0, 0, 0x1FFFF, 0, false, 0⟩, -- NZL_RG_MAP
  ⟨0x800, 0x4, 16, 0x0, 0, 0, 0, 0, 0, 0, 0xFFFFF8, 0x7, false, 0⟩, -- NZL_RTAB
  ⟨0xA00, 0x4, 4, 0x0, 0, 0, 0, 0, 0, 0, 0xF1F, 0, false, 0⟩, -- NZL_CRULE
  ⟨0x2000, 0x8, 256, 0x0, 0, 0, 0, 0, 0, 0, 0x1FFFFFFF, 0, false, 0⟩, -- NZL_OV_A
  ⟨0x2004, 0x8, 256, 0x0, 0, 0, 0, 0, 0, 0, 0x1FFFFFFF, 0, false, 0⟩, -- NZL_OV_B
  ⟨0x4000, 0x8, 1024, 0x0, 0, 0, 0, 0, 0, 0, 0x1FFFFFF, 0, false, 0⟩, -- NZL_GEO_A
  ⟨0x4004, 0x8, 1024, 0x0, 0, 0, 0, 0, 0, 0, 0x1FFFFF, 0, false, 0⟩, -- NZL_GEO_B
  ⟨0x8000, 0x4, 8192, 0x0, 0, 0, 0, 0, 0, 0, 0x3F3F3F3F, 0, false, 0⟩ -- NZL_MASK
  ]

def rowsLST : List RegRow := [
  ⟨0x0, 0x0, 0, 0x0, 0, 0, 0, 0, 0, 0, 0xF07, 0, false, 0⟩, -- LST_CFG
  ⟨0x4, 0x0, 0, 0x0, 0, 0, 0, 0x7F, 0, 0, 0, 0, false, 0⟩, -- LST_STAT
  ⟨0x8, 0x0, 0, 0x0, 0, 0, 0, 0, 0, 0, 0x3FFF, 0, false, 0⟩, -- LST_DREL
  ⟨0xC, 0x0, 0, 0x0, 0, 0, 0, 0, 0, 0, 0x7FFF, 0, false, 0⟩, -- LST_NLINES
  ⟨0x10, 0x0, 0, 0x0, 0, 0, 0, 0, 0, 0x1FFFFF, 0, 0, false, 0⟩, -- LST_WP
  ⟨0x14, 0x0, 0, 0x0, 0, 0, 0, 0, 0, 0x1FFFFF, 0, 0, false, 0⟩, -- LST_RP
  ⟨0x18, 0x0, 0, 0x0, 0, 0, 0, 0, 0, 0x1FFFFF, 0, 0, false, 0⟩, -- LST_OCC
  ⟨0x1C, 0x0, 0, 0x0, 0, 0, 0, 0, 0x1FFFFF, 0, 0, 0, false, 0⟩, -- LST_OCCMAX
  ⟨0x20, 0x0, 0, 0x0, 0, 0x1FFFFF, 0, 0, 0, 0, 0, 0, false, 0⟩, -- LST_WM_NOTE
  ⟨0x24, 0x0, 0, 0x0, 0, 0, 0, 0, 0, 0, 0x1FFFFF, 0, false, 0⟩, -- LST_WM_RED
  ⟨0x28, 0x0, 0, 0x0, 0, 0, 0, 0, 0, 0, 0x1FFFFF, 0, false, 0⟩, -- LST_WM_TOP
  ⟨0x2C, 0x0, 0, 0x0, 0, 0, 0, 0, 0xFFFF, 0, 0, 0, false, 0⟩, -- LST_DROPCNT
  ⟨0x30, 0x0, 0, 0x0, 0, 0, 0, 0, 0xFFFFFFFF, 0, 0, 0, false, 0⟩, -- LST_REDSEG
  ⟨0x34, 0x0, 0, 0x0, 0, 0, 0, 0, 0xFFFF, 0, 0, 0, false, 0⟩, -- LST_REDLINE
  ⟨0x40, 0x0, 0, 0x0, 0, 0, 0, 0, 0, 0, 0x3FFF, 0, false, 0⟩, -- LST_LOG_BASE
  ⟨0x44, 0x0, 0, 0x0, 0, 0, 0, 0, 0, 0, 0x3FFF, 0, false, 0⟩, -- LST_LOG_SIZE
  ⟨0x48, 0x0, 0, 0x0, 0, 0, 0, 0, 0, 0x1FFF, 0, 0, false, 0⟩, -- LST_LOG_WP
  ⟨0x4C, 0x0, 0, 0x0, 0, 0x1FFF, 0, 0, 0, 0, 0, 0, false, 0⟩, -- LST_LOG_RP
  ⟨0x50, 0x0, 0, 0x0, 0, 0, 0, 0, 0xFFFF, 0, 0, 0, false, 0⟩, -- LST_LOG_DROP
  ⟨0x60, 0x0, 0, 0x0, 0, 0, 0, 0, 0, 0, 0x1FFFF, 0, false, 0⟩, -- LST_SCRUB
  ⟨0x64, 0x0, 0, 0x0, 0, 0, 0, 0, 0xFFFFFFFF, 0, 0, 0, false, 0⟩, -- LST_ECCCNT
  ⟨0x68, 0x0, 0, 0x0, 0, 0, 0, 0, 0, 0x7FFFFC0, 0, 0, false, 0⟩, -- LST_UEADDR
  ⟨0x6C, 0x0, 0, 0x0, 0, 0, 0, 0, 0, 0x7F7FFF, 0, 0, false, 0x7F7F00⟩, -- LST_SLICE
  ⟨0x70, 0x0, 0, 0x0, 0, 0, 0, 0, 0, 0, 0xFFFF, 0, false, 0⟩ -- LST_CETHR
  ]

def rowsCOD : List RegRow := [
  ⟨0x0, 0x0, 0, 0x0, 0, 0, 0, 0, 0, 0, 0x1, 0, false, 0⟩, -- COD_CFG
  ⟨0x4, 0x0, 0, 0x0, 0, 0, 0, 0x7, 0, 0, 0, 0, false, 0⟩, -- COD_STAT
  ⟨0x8, 0x0, 0, 0x0, 0, 0, 0, 0, 0, 0xFF03, 0, 0, false, 0x3⟩, -- COD_PIPE
  ⟨0xC, 0x0, 0, 0x0, 0, 0x10F, 0, 0, 0, 0xF0000, 0, 0, false, 0⟩, -- COD_BUD
  ⟨0x10, 0x0, 0, 0x0, 0, 0, 0, 0, 0, 0xFFFFFFFF, 0, 0, false, 0⟩, -- COD_LASTL
  ⟨0x14, 0x0, 0, 0x0, 0, 0, 0, 0, 0, 0xFF, 0, 0, false, 0⟩, -- COD_LASTH
  ⟨0x18, 0x0, 0, 0x0, 0, 0, 0, 0, 0, 0x7FF03FF, 0, 0, false, 0⟩, -- COD_LSIZE
  ⟨0x1C, 0x0, 0, 0x0, 0, 0, 0, 0, 0, 0x7FF07FF, 0, 0, false, 0⟩, -- COD_MODES0
  ⟨0x20, 0x0, 0, 0x0, 0, 0, 0, 0, 0, 0x7FF07FF, 0, 0, false, 0⟩, -- COD_MODES1
  ⟨0x24, 0x0, 0, 0x0, 0, 0, 0, 0, 0, 0x7FF07FF, 0, 0, false, 0⟩ -- COD_MODES2
  ]

def rowsPEEL : List RegRow := [
  ⟨0x0, 0x0, 0, 0x0, 0, 0, 0, 0, 0, 0, 0x1, 0, false, 0⟩, -- PEEL_CFG
  ⟨0x4, 0x0, 0, 0x0, 0, 0, 0, 0xFF, 0, 0, 0, 0, false, 0⟩, -- PEEL_STAT
  ⟨0x8, 0x0, 0, 0x0, 0, 0, 0, 0, 0, 0xFF03, 0, 0, false, 0x3⟩, -- PEEL_PIPE
  ⟨0xC, 0x0, 0, 0x0, 0, 0, 0, 0, 0xFFFFFFFF, 0, 0, 0, false, 0⟩, -- PEEL_LATECNT
  ⟨0x10, 0x0, 0, 0x0, 0, 0, 0, 0, 0xFFFF, 0, 0, 0, false, 0⟩, -- PEEL_UECNT
  ⟨0x20, 0x0, 0, 0x0, 0, 0, 0, 0, 0, 0, 0x3FFFFFF, 0, false, 0⟩, -- PEEL_SPIT
  ⟨0x24, 0x0, 0, 0x0, 0, 0, 0, 0, 0xFFFF, 0, 0, 0, false, 0⟩, -- PEEL_SPITSKIP
  ⟨0x100, 0x4, 64, 0x0, 0, 0, 0, 0, 0, 0, 0x73FFF, 0, false, 0⟩ -- PEEL_RG
  ]

def rowsHLK : List RegRow := [
  ⟨0x0, 0x0, 0, 0x0, 0, 0, 0, 0, 0, 0, 0xFF3FFF, 0, false, 0⟩, -- HLK_CFG
  ⟨0x4, 0x0, 0, 0x0, 0, 0, 0, 0x1F, 0, 0, 0, 0, false, 0⟩, -- HLK_STAT
  ⟨0x8, 0x0, 0, 0x0, 0, 0, 0, 0, 0, 0, 0xFFFF, 0, false, 0⟩, -- HLK_LSET
  ⟨0x10, 0x0, 0, 0x0, 0, 0xFFFFFFFF, 0, 0, 0, 0, 0, 0, false, 0⟩, -- HLK_RSWL
  ⟨0x14, 0x0, 0, 0x0, 0, 0xFF, 0, 0, 0, 0, 0, 0, false, 0⟩, -- HLK_RSWH
  ⟨0x18, 0x0, 0, 0x0, 0, 0, 0x1, 0, 0, 0, 0, 0, false, 0⟩, -- HLK_RSWGO
  ⟨0x1C, 0x0, 0, 0x0, 0, 0, 0, 0, 0, 0x73, 0, 0, false, 0⟩, -- HLK_RSWSTAT
  ⟨0x100, 0x20, 8, 0x0, 0, 0, 0, 0, 0, 0, 0xFF03, 0, false, 0⟩, -- HLK_G3P_CFG
  ⟨0x104, 0x20, 8, 0x0, 0, 0, 0, 0, 0, 0x1FF, 0, 0, false, 0⟩, -- HLK_G3P_STAT
  ⟨0x108, 0x20, 8, 0x0, 0, 0, 0x1, 0, 0, 0, 0, 0, false, 0⟩, -- HLK_G3P_CTL
  ⟨0x10C, 0x20, 8, 0x0, 0, 0, 0, 0, 0, 0xFFFFFF, 0, 0, false, 0⟩, -- HLK_G3P_RTT
  ⟨0x110, 0x20, 8, 0x0, 0, 0, 0, 0, 0xFFFFFFFF, 0, 0, 0, false, 0⟩, -- HLK_G3P_RETX
  ⟨0x114, 0x20, 8, 0x0, 0, 0, 0, 0, 0xFFFFFFFF, 0, 0, 0, false, 0⟩, -- HLK_G3P_RXERR
  ⟨0x118, 0x20, 8, 0x0, 0, 0, 0, 0, 0, 0x3FFF, 0, 0, false, 0⟩, -- HLK_G3P_REPLAY
  ⟨0x400, 0x10, 16, 0x0, 0, 0x3F3F3F, 0, 0, 0, 0, 0, 0, false, 0⟩, -- HLK_TX_FFE
  ⟨0x600, 0x10, 8, 0x0, 0, 0x1F, 0, 0, 0, 0xFF0100, 0, 0, false, 0⟩, -- HLK_RX_EQ
  ⟨0x604, 0x10, 8, 0x0, 0, 0x3FFFFFFF, 0, 0, 0, 0, 0, 0, false, 0⟩, -- HLK_RX_DFE
  ⟨0x800, 0x4, 32, 0x0, 0, 0, 0, 0, 0, 0, 0xFFFF1FFF, 0, false, 0⟩, -- HLK_STB
  ⟨0x1000, 0x4, 1024, 0x0, 0, 0, 0, 0, 0, 0, 0xFFFF, 0, false, 0⟩, -- HLK_RTA
  ⟨0x2000, 0x4, 1024, 0x0, 0, 0, 0, 0, 0, 0, 0xFFFF, 0, false, 0⟩, -- HLK_RTB
  ⟨0x3000, 0x4, 128, 0x0, 0, 0, 0, 0, 0, 0xFFFFFFFF, 0, 0, false, 0⟩ -- HLK_TEMP
  ]

def rowsWAV : List RegRow := [
  ⟨0x0, 0x0, 0, 0x0, 0, 0, 0, 0, 0, 0, 0xFF07, 0, false, 0⟩, -- WAV_CFG
  ⟨0x4, 0x0, 0, 0x0, 0, 0, 0, 0x1FF, 0, 0, 0, 0, false, 0⟩, -- WAV_STAT
  ⟨0x8, 0x0, 0, 0x0, 0, 0, 0, 0, 0, 0xFFFF07FF, 0, 0, false, 0⟩, -- WAV_JSTAT
  ⟨0xC, 0x0, 0, 0x0, 0, 0, 0, 0, 0, 0, 0xFFF, 0, false, 0⟩, -- WAV_JLANE
  ⟨0x10, 0x0, 0, 0x0, 0, 0, 0, 0, 0, 0, 0xFFF, 0, false, 0⟩, -- WAV_JID
  ⟨0x14, 0x0, 0, 0x0, 0, 0, 0, 0, 0, 0xFF07, 0, 0, false, 0x7⟩, -- WAV_VOTE
  ⟨0x18, 0x0, 0, 0x0, 0, 0, 0x1, 0, 0, 0, 0, 0, false, 0⟩, -- WAV_CTL
  ⟨0x100, 0x10, 64, 0x0, 0, 0x3F7FFF, 0, 0, 0, 0, 0, 0, false, 0⟩, -- WAV_VO_CFG
  ⟨0x104, 0x10, 64, 0x0, 0, 0xFFF, 0, 0, 0, 0, 0, 0, false, 0⟩, -- WAV_VO_BASE
  ⟨0x108, 0x10, 64, 0x0, 0, 0xFFFF, 0, 0, 0, 0, 0, 0, false, 0⟩, -- WAV_VO_DLY
  ⟨0x10C, 0x10, 64, 0x0, 0, 0, 0, 0, 0, 0xFFFF0F7F, 0, 0, false, 0⟩, -- WAV_VO_STAT
  ⟨0x800, 0x40, 32, 0x4, 4, 0xFFFF007F, 0, 0, 0, 0, 0, 0, false, 0⟩, -- WAV_OUT_SRC
  ⟨0x810, 0x40, 32, 0x0, 0, 0xFFFFFFFF, 0, 0, 0, 0, 0, 0, false, 0⟩, -- WAV_OUT_GAIN
  ⟨0x814, 0x40, 32, 0x0, 0, 0, 0, 0, 0, 0xFFFF, 0, 0, false, 0⟩, -- WAV_OUT_GNOW
  ⟨0x818, 0x40, 32, 0x0, 0, 0xFFFFFFFF, 0, 0, 0, 0, 0, 0, false, 0⟩, -- WAV_OUT_CEIL
  ⟨0x81C, 0x40, 32, 0x0, 0, 0x11F0F, 0, 0, 0, 0, 0, 0, false, 0⟩, -- WAV_OUT_LIM
  ⟨0x820, 0x40, 32, 0x0, 0, 0, 0, 0, 0xFFFFFFFF, 0, 0, 0, false, 0⟩, -- WAV_OUT_OSTAT
  ⟨0x1000, 0x20, 16, 0x0, 0, 0, 0, 0, 0, 0, 0xFFFF0FFF, 0, false, 0⟩, -- WAV_TS_SRC
  ⟨0x1004, 0x20, 16, 0x0, 0, 0, 0, 0, 0, 0, 0xFFFFFFFF, 0, false, 0⟩, -- WAV_TS_PWM
  ⟨0x1008, 0x20, 16, 0x0, 0, 0xFFFFFFFF, 0, 0, 0, 0, 0, 0, false, 0⟩, -- WAV_TS_LAW
  ⟨0x100C, 0x20, 16, 0x0, 0, 0xFFFFFFFF, 0, 0, 0, 0, 0, 0, false, 0⟩, -- WAV_TS_KLIM
  ⟨0x1010, 0x20, 16, 0x0, 0, 0x1FFFF, 0, 0, 0, 0x20000, 0, 0, false, 0x4000⟩, -- WAV_TS_K
  ⟨0x1014, 0x20, 16, 0x0, 0, 0, 0, 0, 0, 0xFFFF, 0, 0, false, 0⟩, -- WAV_TS_T
  ⟨0x4000, 0x4, 4096, 0x0, 0, 0xFFFFFFFF, 0, 0, 0, 0, 0, 0, false, 0⟩ -- WAV_SEG
  ]

def rowsFAB : List RegRow := [
  ⟨0x0, 0x0, 0, 0x0, 0, 0, 0, 0, 0, 0, 0xFFF, 0, false, 0⟩, -- FAB_CFG
  ⟨0x4, 0x0, 0, 0x0, 0, 0, 0, 0x1F, 0, 0, 0, 0, false, 0⟩, -- FAB_STAT
  ⟨0x8, 0x0, 0, 0x0, 0, 0, 0, 0, 0, 0xFFFFFFFF, 0, 0, false, 0⟩, -- FAB_AERRL
  ⟨0xC, 0x0, 0, 0x0, 0, 0, 0, 0, 0, 0xF, 0, 0, false, 0⟩, -- FAB_AERRH
  ⟨0x10, 0x0, 0, 0x0, 0, 0, 0, 0, 0xFFFF, 0, 0, 0, false, 0⟩, -- FAB_AERRCNT
  ⟨0x14, 0x0, 0, 0x0, 0, 0, 0, 0, 0, 0x3FF, 0, 0, false, 0⟩, -- FAB_FAULT
  ⟨0x18, 0x0, 0, 0x0, 0, 0, 0, 0, 0xFFFFFF, 0, 0, 0, false, 0⟩, -- FAB_C0Q
  ⟨0x30, 0x0, 0, 0x0, 0, 0, 0, 0, 0, 0, 0xFFFF0003, 0, false, 0⟩, -- FAB_TSCFG
  ⟨0x34, 0x0, 0, 0x0, 0, 0, 0, 0, 0xFFFFFFFF, 0, 0, 0, false, 0⟩, -- FAB_TSECC
  ⟨0x38, 0x0, 0, 0x0, 0, 0, 0, 0, 0, 0x1FFFF, 0, 0, false, 0⟩, -- FAB_TSPOS
  ⟨0x20, 0x4, 4, 0x0, 0, 0xFFFF, 0, 0, 0, 0, 0, 0, false, 0⟩, -- FAB_GROUP
  ⟨0x1000, 0x8, 256, 0x0, 0, 0, 0, 0, 0, 0, 0xFFFFFFFF, 0, false, 0⟩, -- FAB_FLOW_SL
  ⟨0x1004, 0x8, 256, 0x0, 0, 0, 0, 0, 0, 0, 0xFFFFFFFF, 0, false, 0⟩ -- FAB_FLOW_SH
  ]

def rowsDLK : List RegRow := [
  ⟨0x0, 0x0, 0, 0x0, 0, 0, 0, 0, 0, 0, 0x7, 0, false, 0x3⟩, -- DLK_CFG
  ⟨0x4, 0x0, 0, 0x0, 0, 0, 0, 0, 0, 0x7F, 0, 0, false, 0⟩, -- DLK_STAT
  ⟨0x8, 0x0, 0, 0x0, 0, 0, 0x1, 0, 0, 0, 0, 0, false, 0⟩, -- DLK_CTL
  ⟨0xC, 0x0, 0, 0x0, 0, 0, 0, 0, 0xFFFFFFFF, 0, 0, 0, false, 0⟩, -- DLK_CRCERR
  ⟨0x10, 0x0, 0, 0x0, 0, 0, 0, 0, 0xFFFFFFFF, 0, 0, 0, false, 0⟩, -- DLK_REPLAY
  ⟨0x14, 0x0, 0, 0x0, 0, 0, 0, 0x3F, 0, 0, 0, 0, false, 0⟩ -- DLK_ALM
  ]

def rowsASP : List RegRow := [
  ⟨0x0, 0x0, 0, 0x0, 0, 0, 0, 0, 0, 0, 0xFFFF, 0, false, 0⟩, -- ASP_CFG
  ⟨0x4, 0x0, 0, 0x0, 0, 0, 0, 0, 0, 0x7, 0, 0, false, 0⟩, -- ASP_STAT
  ⟨0x8, 0x0, 0, 0x0, 0, 0, 0, 0, 0xFFFFFFFF, 0, 0, 0, false, 0⟩, -- ASP_DROP
  ⟨0xC, 0x0, 0, 0x0, 0, 0, 0, 0, 0, 0xFFFFFFFF, 0, 0, false, 0⟩, -- ASP_QOCC
  ⟨0x10, 0x0, 0, 0x0, 0, 0, 0, 0, 0, 0xFFFFFFFF, 0, 0, false, 0⟩, -- ASP_COALMAPL
  ⟨0x14, 0x0, 0, 0x0, 0, 0, 0, 0, 0, 0xFFFFFFFF, 0, 0, false, 0⟩, -- ASP_COALMAPH
  ⟨0x18, 0x0, 0, 0x0, 0, 0, 0, 0, 0xFFFFFFFF, 0, 0, 0, false, 0⟩, -- ASP_INREJ
  ⟨0x100, 0x4, 64, 0x0, 0, 0, 0, 0, 0, 0xFFFFFF, 0, 0, false, 0⟩ -- ASP_COAL
  ]

def rowsSTA : List RegRow := [
  ⟨0x0, 0x0, 0, 0x0, 0, 0, 0, 0, 0, 0xFF0EC7, 0, 0, false, 0⟩, -- STA_STAT
  ⟨0x4, 0x0, 0, 0x0, 0, 0, 0, 0, 0, 0x3F01, 0, 0, false, 0⟩, -- STA_FUSE
  ⟨0x8, 0x0, 0, 0x0, 0, 0, 0, 0, 0, 0xFFFFFFFF, 0, 0, false, 0⟩, -- STA_IMGID
  ⟨0xC, 0x0, 0, 0x0, 0, 0, 0, 0, 0, 0x3F, 0, 0, false, 0⟩, -- STA_SVN
  ⟨0x10, 0x0, 0, 0x0, 0, 0, 0, 0, 0, 0xFFFFFFFF, 0, 0, false, 0⟩, -- STA_IMGLEN
  ⟨0x14, 0x0, 0, 0x0, 0, 0, 0, 0, 0, 0xFFFF, 0, 0, false, 0x100⟩, -- STA_MCVER
  ⟨0x18, 0x0, 0, 0x0, 0, 0, 0, 0, 0, 0xFFFFFFFF, 0, 0, false, 0⟩, -- STA_LOADT
  ⟨0x1C, 0x0, 0, 0x0, 0, 0, 0, 0, 0, 0xFF, 0, 0, false, 0⟩, -- STA_REPAIR
  ⟨0x20, 0x0, 0, 0x0, 0, 0, 0, 0, 0, 0xFFFF, 0, 0, false, 0⟩, -- STA_FLASH
  ⟨0x40, 0x4, 8, 0x0, 0, 0, 0, 0, 0, 0xFFFFFFFF, 0, 0, false, 0⟩, -- STA_IDIG
  ⟨0x60, 0x4, 8, 0x0, 0, 0, 0, 0, 0, 0xFFFFFFFF, 0, 0, false, 0⟩, -- STA_BDIG
  ⟨0x80, 0x4, 8, 0x0, 0, 0, 0, 0, 0, 0xFFFFFFFF, 0, 0, false, 0⟩, -- STA_CDIG
  ⟨0xA0, 0x4, 8, 0x0, 0, 0, 0, 0, 0, 0xFFFFFFFF, 0, 0, false, 0⟩ -- STA_KEYH
  ]

def rowsSYN : List RegRow := [
  ⟨0x0, 0x0, 0, 0x0, 0, 0, 0, 0, 0, 0, 0xFF07FF, 0, false, 0⟩, -- SYN_CFG
  ⟨0x4, 0x0, 0, 0x0, 0, 0, 0, 0, 0, 0, 0xFFFF, 0, false, 0⟩, -- SYN_TOL
  ⟨0x8, 0x0, 0, 0x0, 0, 0, 0, 0, 0, 0, 0xFFFFFFFF, 0, false, 0⟩, -- SYN_LINE0L
  ⟨0xC, 0x0, 0, 0x0, 0, 0, 0, 0, 0, 0, 0xFF, 0, false, 0⟩, -- SYN_LINE0H
  ⟨0x10, 0x0, 0, 0x0, 0, 0, 0x3, 0, 0, 0, 0, 0, false, 0⟩, -- SYN_CTL
  ⟨0x14, 0x0, 0, 0x0, 0, 0, 0, 0, 0, 0x3F07FF, 0, 0, false, 0⟩, -- SYN_STAT
  ⟨0x18, 0x0, 0, 0x0, 0, 0, 0, 0, 0, 0x3F, 0, 0, false, 0⟩, -- SYN_COND
  ⟨0x1C, 0x0, 0, 0x0, 0, 0, 0, 0x7F, 0, 0, 0, 0, false, 0⟩, -- SYN_ALM
  ⟨0x20, 0x0, 0, 0x0, 0, 0, 0, 0, 0, 0xFFFFFFFF, 0, 0, false, 0⟩, -- SYN_EPOCH
  ⟨0x24, 0x0, 0, 0x0, 0, 0, 0, 0, 0, 0xFFFFFFFF, 0, 0, false, 0⟩, -- SYN_PMASK
  ⟨0x28, 0x0, 0, 0x0, 0, 0, 0, 0, 0, 0xFFFFFFFF, 0, 0, false, 0⟩, -- SYN_IMASK
  ⟨0x2C, 0x0, 0, 0x0, 0, 0, 0, 0, 0, 0xFFFFFFFF, 0, 0, false, 0⟩, -- SYN_D
  ⟨0x30, 0x0, 0, 0x0, 0, 0, 0, 0, 0xFFFFFFFF, 0, 0, 0, false, 0⟩, -- SYN_CRCERR
  ⟨0x34, 0x0, 0, 0x0, 0, 0, 0, 0, 0xFFFF, 0, 0, 0, false, 0⟩ -- SYN_SKIP
  ]

def rowsCL0 : List RegRow := [
  ⟨0x1000, 0x0, 0, 0x0, 0, 0x2, 0, 0, 0, 0, 0x5, 0, false, 0⟩, -- CLC_CTL
  ⟨0x1004, 0x0, 0, 0x0, 0, 0, 0, 0xFF, 0, 0, 0, 0, false, 0⟩, -- CLC_ASTAT
  ⟨0x1008, 0x0, 0, 0x0, 0, 0, 0, 0, 0, 0xFF03, 0, 0, false, 0x3⟩, -- CLC_LANE
  ⟨0x100C, 0x0, 0, 0x0, 0, 0, 0, 0, 0, 0xFFFFFFFF, 0, 0, false, 0⟩, -- CLC_LASTL
  ⟨0x1010, 0x0, 0, 0x0, 0, 0, 0, 0, 0, 0xFF, 0, 0, false, 0⟩, -- CLC_LASTH
  ⟨0x1014, 0x0, 0, 0x0, 0, 0, 0, 0, 0, 0x3, 0, 0, false, 0⟩, -- CLC_PSTAT
  ⟨0x1018, 0x0, 0, 0x0, 0, 0, 0, 0, 0, 0x1FF0FFF, 0, 0, false, 0⟩, -- CLC_SPRSTAT
  ⟨0x101C, 0x0, 0, 0x0, 0, 0, 0, 0, 0xFFFF, 0, 0, 0, false, 0⟩, -- CLC_OMIT
  ⟨0x1020, 0x0, 0, 0x0, 0, 0, 0, 0, 0xFFFFFFFF, 0, 0, 0, false, 0⟩, -- CLC_STRCNT
  ⟨0x1024, 0x0, 0, 0x0, 0, 0xFFFFFFFF, 0, 0, 0, 0, 0, 0, false, 0⟩, -- CLC_CMTL
  ⟨0x1028, 0x0, 0, 0x0, 0, 0xFF, 0, 0, 0, 0, 0, 0, false, 0⟩, -- CLC_CMTH
  ⟨0x102C, 0x0, 0, 0x0, 0, 0, 0xFFFF, 0, 0, 0, 0, 0, false, 0⟩, -- CLC_CMTGO
  ⟨0x1030, 0x0, 0, 0x0, 0, 0, 0, 0, 0, 0xFFFF000F, 0, 0, false, 0⟩, -- CLC_CMTSTAT
  ⟨0x1100, 0x20, 4, 0x0, 0, 0xFFFFFF7, 0, 0, 0, 0, 0, 0, true, 0⟩, -- CLC_PL_CTL
  ⟨0x1180, 0x0, 0, 0x0, 0, 0x7, 0, 0, 0, 0, 0, 0, true, 0⟩, -- CLC_PLS_CTL
  ⟨0x1104, 0x20, 4, 0x0, 0, 0x1FFFFFC, 0, 0, 0, 0, 0, 0, true, 0⟩, -- CLC_PL_MAP
  ⟨0x1108, 0x20, 4, 0x0, 0, 0xFFFFFFFF, 0, 0, 0, 0, 0, 0, true, 0⟩, -- CLC_PL_XSCR
  ⟨0x110C, 0x20, 4, 0x0, 0, 0xFFFFFFFF, 0, 0, 0, 0, 0, 0, true, 0⟩, -- CLC_PL_YORGL
  ⟨0x1110, 0x20, 4, 0x0, 0, 0xFF, 0, 0, 0, 0, 0, 0, true, 0⟩, -- CLC_PL_YORGH
  ⟨0x11A0, 0x0, 0, 0x0, 0, 0x1FFF8, 0, 0, 0, 0, 0, 0, true, 0⟩, -- CLC_SPR_BASE
  ⟨0x11A4, 0x0, 0, 0x0, 0, 0x1FFF, 0, 0, 0, 0, 0, 0, true, 0⟩, -- CLC_SPR_LEN
  ⟨0x11A8, 0x0, 0, 0x0, 0, 0xFFFFFFFF, 0, 0, 0, 0, 0, 0, true, 0⟩, -- CLC_SPR_YORGL
  ⟨0x11AC, 0x0, 0, 0x0, 0, 0xFF, 0, 0, 0, 0, 0, 0, true, 0⟩, -- CLC_SPR_YORGH
  ⟨0x11C0, 0x4, 8, 0x0, 0, 0x7777, 0, 0, 0, 0, 0, 0, true, 0⟩, -- CLC_PAL
  ⟨0x800, 0x20, 16, 0x4, 7, 0, 0, 0, 0, 0, 0x7FFF, 0, false, 0⟩, -- EVC_CELL_PC
  ⟨0xA00, 0x4, 16, 0x0, 0, 0, 0, 0, 0, 0, 0x7FFF7F01, 0x8000, false, 0⟩, -- EVC_CELL_CFG
  ⟨0xA40, 0x8, 16, 0x0, 0, 0, 0, 0, 0, 0, 0xFFFFFFFF, 0, false, 0⟩, -- EVC_CELL_BPRIL
  ⟨0xA44, 0x8, 16, 0x0, 0, 0, 0, 0, 0, 0, 0xFFFFFF, 0, false, 0⟩, -- EVC_CELL_BPRIH
  ⟨0xC00, 0x0, 0, 0x0, 0, 0, 0, 0, 0, 0, 0xF, 0, false, 0⟩, -- EVC_CFG
  ⟨0xC04, 0x0, 0, 0x0, 0, 0, 0, 0x3, 0, 0, 0, 0, false, 0⟩, -- EVC_STAT
  ⟨0xC08, 0x0, 0, 0x0, 0, 0, 0xFFFFFFFF, 0, 0, 0, 0, 0, false, 0⟩, -- EVC_PENDSETL
  ⟨0xC0C, 0x0, 0, 0x0, 0, 0, 0xFFFFFFFF, 0, 0, 0, 0, 0, false, 0⟩, -- EVC_PENDSETH
  ⟨0xC10, 0x0, 0, 0x0, 0, 0, 0, 0xFFFFFFFF, 0, 0, 0, 0, false, 0⟩, -- EVC_PENDCLRL
  ⟨0xC14, 0x0, 0, 0x0, 0, 0, 0, 0xFFFFFFFF, 0, 0, 0, 0, false, 0⟩, -- EVC_PENDCLRH
  ⟨0xC18, 0x0, 0, 0x0, 0, 0, 0xFFFFFFFF, 0, 0, 0, 0, 0, false, 0⟩, -- EVC_MASKSETL
  ⟨0xC1C, 0x0, 0, 0x0, 0, 0, 0xFFFFFFFF, 0, 0, 0, 0, 0, false, 0⟩, -- EVC_MASKSETH
  ⟨0xC20, 0x0, 0, 0x0, 0, 0, 0, 0xFFFFFFFF, 0, 0, 0, 0, false, 0⟩, -- EVC_MASKCLRL
  ⟨0xC24, 0x0, 0, 0x0, 0, 0, 0, 0xFFFFFFFF, 0, 0, 0, 0, false, 0⟩, -- EVC_MASKCLRH
  ⟨0xC28, 0x0, 0, 0x0, 0, 0, 0, 0, 0, 0xFFFFFFFF, 0, 0, false, 0⟩, -- EVC_ACTL
  ⟨0xC2C, 0x0, 0, 0x0, 0, 0, 0, 0, 0, 0xFFFFFFFF, 0, 0, false, 0⟩ -- EVC_ACTH
  ]
def rowsCL1 : List RegRow := [
  ⟨0xC30, 0x0, 0, 0x0, 0, 0, 0, 0, 0, 0xFFFFFFFF, 0, 0, false, 0⟩, -- EVC_RAWL
  ⟨0xC34, 0x0, 0, 0x0, 0, 0, 0, 0, 0, 0xFFFFFFFF, 0, 0, false, 0⟩, -- EVC_RAWH
  ⟨0xC38, 0x0, 0, 0x0, 0, 0, 0, 0, 0xFFFFFFFF, 0, 0, 0, false, 0⟩, -- EVC_DELIV
  ⟨0xC3C, 0x0, 0, 0x0, 0, 0, 0, 0, 0xFFFFFFFF, 0, 0, 0, false, 0⟩, -- EVC_MERGE
  ⟨0xC40, 0x4, 16, 0x0, 0, 0, 0x17F7F00, 0, 0, 0x800000FF, 0, 0, false, 0⟩, -- EVC_CELL
  ⟨0xC80, 0x8, 16, 0x0, 0, 0xFFFFFFFF, 0, 0, 0, 0, 0, 0, false, 0⟩, -- EVC_WAKE_L
  ⟨0xC84, 0x8, 16, 0x0, 0, 0xFFFFFFFF, 0, 0, 0, 0, 0, 0, false, 0⟩, -- EVC_WAKE_H
  ⟨0xD00, 0x4, 64, 0x0, 0, 0, 0, 0, 0, 0xFF00, 0xFF, 0, false, 0x3C00⟩, -- EVC_SRC
  ⟨0xE00, 0x8, 64, 0x0, 0, 0xFFFFFFFF, 0, 0, 0, 0, 0, 0, false, 0⟩, -- EVC_TGT_L
  ⟨0xE04, 0x8, 64, 0x0, 0, 0xFFFFFFFF, 0, 0, 0, 0, 0, 0, false, 0⟩, -- EVC_TGT_H
  ⟨0x15F0, 0x0, 0, 0x0, 0, 0xFFFFFFFF, 0, 0, 0, 0, 0, 0, false, 0⟩, -- TMR_SLRATIO
  ⟨0x15F4, 0x0, 0, 0x0, 0, 0x1, 0, 0, 0, 0x6, 0, 0, false, 0⟩, -- TMR_SLCTL
  ⟨0x15F8, 0x0, 0, 0x0, 0, 0, 0, 0, 0, 0xFFFFFFFF, 0, 0, false, 0⟩, -- TMR_SLN
  ⟨0x15FC, 0x0, 0, 0x0, 0, 0, 0, 0, 0, 0xFFFF, 0, 0, false, 0⟩, -- TMR_SLPH
  ⟨0x1600, 0x20, 8, 0x0, 0, 0x3CFF7FFF, 0, 0, 0, 0, 0, 0, false, 0⟩, -- TMR_CTL
  ⟨0x1604, 0x20, 8, 0x0, 0, 0xFFFFFFFF, 0, 0, 0, 0, 0, 0, false, 0⟩, -- TMR_CNT
  ⟨0x1608, 0x20, 8, 0x0, 0, 0xFFFFFFFF, 0, 0, 0, 0, 0, 0, false, 0⟩, -- TMR_PER
  ⟨0x160C, 0x20, 8, 0x0, 0, 0xFFFFFFFF, 0, 0, 0, 0, 0, 0, false, 0⟩, -- TMR_CMP
  ⟨0x1610, 0x20, 8, 0x0, 0, 0, 0, 0, 0, 0xFFFFFFFF, 0, 0, false, 0⟩, -- TMR_CAP
  ⟨0x1614, 0x20, 8, 0x0, 0, 0, 0, 0x1F, 0, 0xE0, 0, 0, false, 0⟩, -- TMR_STAT
  ⟨0x1618, 0x20, 8, 0x0, 0, 0x7FFFFF, 0, 0, 0, 0, 0, 0, false, 0⟩, -- TMR_PRE
  ⟨0x161C, 0x20, 8, 0x0, 0, 0, 0, 0, 0xFFFFFFFF, 0, 0, 0, false, 0⟩, -- TMR_MISS
  ⟨0x1700, 0x40, 4, 0x0, 0, 0xFFF7FFC, 0x3, 0, 0, 0, 0, 0, false, 0⟩, -- DMA_CTL
  ⟨0x1704, 0x40, 4, 0x0, 0, 0, 0, 0x338, 0, 0xC7, 0, 0, false, 0⟩, -- DMA_STAT
  ⟨0x1708, 0x40, 4, 0x0, 0, 0xFFFFFFFF, 0, 0, 0, 0, 0, 0, false, 0⟩, -- DMA_SRCL
  ⟨0x170C, 0x40, 4, 0x0, 0, 0xF, 0, 0, 0, 0, 0, 0, false, 0⟩, -- DMA_SRCH
  ⟨0x1710, 0x40, 4, 0x0, 0, 0xFFFFFFFF, 0, 0, 0, 0, 0, 0, false, 0⟩, -- DMA_DSTL
  ⟨0x1714, 0x40, 4, 0x0, 0, 0xF, 0, 0, 0, 0, 0, 0, false, 0⟩, -- DMA_DSTH
  ⟨0x1718, 0x40, 4, 0x0, 0, 0xFFFFFFFF, 0, 0, 0, 0, 0, 0, false, 0⟩, -- DMA_COUNT
  ⟨0x171C, 0x40, 4, 0x0, 0, 0, 0, 0, 0, 0xFFFFFFFF, 0, 0, false, 0⟩, -- DMA_REMAIN
  ⟨0x1720, 0x40, 4, 0x0, 0, 0xFFFFFFFF, 0, 0, 0, 0, 0, 0, false, 0⟩, -- DMA_SSHAPE
  ⟨0x1724, 0x40, 4, 0x0, 0, 0xFFFFFFFF, 0, 0, 0, 0, 0, 0, false, 0⟩, -- DMA_SSTRIDE
  ⟨0x1728, 0x40, 4, 0x0, 0, 0xFFFFFFFF, 0, 0, 0, 0, 0, 0, false, 0⟩, -- DMA_DSHAPE
  ⟨0x172C, 0x40, 4, 0x0, 0, 0xFFFFFFFF, 0, 0, 0, 0, 0, 0, false, 0⟩, -- DMA_DSTRIDE
  ⟨0x1800, 0x0, 0, 0x0, 0, 0, 0, 0, 0, 0, 0xFFFF0003, 0, false, 0⟩, -- PAN_CFG
  ⟨0x1804, 0x0, 0, 0x0, 0, 0, 0, 0x7F, 0, 0, 0, 0, false, 0⟩, -- PAN_STAT
  ⟨0x1808, 0x0, 0, 0x0, 0, 0, 0, 0, 0xFFFFFFFF, 0, 0, 0, false, 0⟩, -- PAN_ECCCNT
  ⟨0x180C, 0x0, 0, 0x0, 0, 0, 0, 0, 0, 0xFFFF8, 0, 0, false, 0⟩, -- PAN_UEADDR
  ⟨0x1810, 0x0, 0, 0x0, 0, 0, 0, 0, 0, 0x3FFF, 0, 0, false, 0⟩, -- PAN_TPOS
  ⟨0x1814, 0x0, 0, 0x0, 0, 0, 0, 0, 0, 0x7777, 0, 0, false, 0⟩ -- PAN_SPARE
  ]
def rowsCL2 : List RegRow := [
  ⟨0x1818, 0x0, 0, 0x0, 0, 0, 0, 0, 0, 0x3FFF, 0, 0, false, 0⟩, -- PAN_LTPOS
  ⟨0x181C, 0x0, 0, 0x0, 0, 0, 0, 0, 0, 0xFFFFFFFF, 0, 0, false, 0⟩, -- PAN_LSPARE
  ⟨0x1820, 0x0, 0, 0x0, 0, 0, 0, 0, 0xFFFFFFFF, 0, 0, 0, false, 0⟩, -- PAN_LECC
  ⟨0x1824, 0x0, 0, 0x0, 0, 0, 0, 0, 0, 0x7FFFF, 0, 0, false, 0⟩, -- PAN_LUEADDR
  ⟨0x1828, 0x0, 0, 0x0, 0, 0, 0, 0, 0xFFFFFFFF, 0, 0, 0, false, 0⟩, -- PAN_WMAX01
  ⟨0x182C, 0x0, 0, 0x0, 0, 0, 0, 0, 0xFFFFFFFF, 0, 0, 0, false, 0⟩, -- PAN_WMAX23
  ⟨0x1900, 0x10, 2, 0x0, 0, 0, 0, 0, 0, 0, 0x3FFFC, 0, false, 0⟩, -- ASP_IR_BASE
  ⟨0x1904, 0x10, 2, 0x0, 0, 0, 0, 0, 0, 0, 0xFFFF, 0, false, 0⟩, -- ASP_IR_SIZE
  ⟨0x1908, 0x10, 2, 0x0, 0, 0, 0, 0, 0, 0x7FFF, 0, 0, false, 0⟩, -- ASP_IR_WP
  ⟨0x190C, 0x10, 2, 0x0, 0, 0x7FFF, 0, 0, 0, 0, 0, 0, false, 0⟩, -- ASP_IR_RP
  ⟨0x1920, 0x0, 0, 0x0, 0, 0, 0xFFFFFF, 0, 0, 0, 0, 0, false, 0⟩, -- ASP_EVPOST
  ⟨0x1924, 0x0, 0, 0x0, 0, 0, 0x7F07FFFF, 0, 0, 0, 0, 0, false, 0⟩, -- ASP_TRPOST
  ⟨0x1400, 0x0, 0, 0x0, 0, 0, 0xFFF1FFFF, 0, 0, 0, 0, 0, false, 0⟩, -- CLN_UPD
  ⟨0x1404, 0x0, 0, 0x0, 0, 0xBF01FFFF, 0, 0, 0, 0, 0, 0, false, 0⟩, -- CLN_QRY
  ⟨0x1408, 0x0, 0, 0x0, 0, 0, 0, 0, 0, 0x1FF, 0, 0, false, 0⟩, -- CLN_QDAT
  ⟨0x140C, 0x0, 0, 0x0, 0, 0xFFFFFFFF, 0, 0, 0, 0, 0, 0, false, 0⟩, -- CLN_CMTL
  ⟨0x1410, 0x0, 0, 0x0, 0, 0xFF, 0, 0, 0, 0, 0, 0, false, 0⟩, -- CLN_CMTH
  ⟨0x1414, 0x0, 0, 0x0, 0, 0, 0x1, 0, 0, 0, 0, 0, false, 0⟩, -- CLN_CMTGO
  ⟨0x1418, 0x0, 0, 0x0, 0, 0, 0, 0, 0, 0xFFFF001F, 0, 0, false, 0⟩, -- CLN_CMTSTAT
  ⟨0x141C, 0x0, 0, 0x0, 0, 0, 0, 0, 0, 0x1FFF, 0, 0, false, 0⟩, -- CLN_SQ_WP
  ⟨0x1420, 0x0, 0, 0x0, 0, 0x1FFF, 0, 0, 0, 0, 0, 0, false, 0⟩, -- CLN_SQ_RP
  ⟨0x1940, 0x4, 4, 0x0, 0, 0, 0, 0, 0, 0, 0xFFFF07FF, 0, false, 0⟩ -- CX_PAIR_CFG
  ]
def rowsCL : List RegRow := rowsCL0 ++ rowsCL1 ++ rowsCL2

/-- The rows of tile-level block `i`, in the order of R391. -/
def tileRows (i : Nat) : List RegRow :=
  match i with
  | 0 => rowsTIL
  | 1 => rowsPOS
  | 2 => rowsCMP
  | 3 => rowsNZL
  | 4 => rowsLST
  | 5 => rowsCOD
  | 6 => rowsPEEL
  | 7 => rowsHLK
  | 8 => rowsWAV
  | 9 => rowsFAB
  | 10 => rowsDLK
  | 11 => rowsASP
  | 12 => rowsSTA
  | 13 => rowsSYN
  | _ => []

/-- The row of the register at fabric address `a`, none where the address holds no register. Offsets that the tables
name "reserved" and every offset not named lie under R11. -/
def rowAt (a : Nat) : Option RegRow :=
  if a < 0x300000000 then none
  else if a < 0x310000000 then
    (tileRows ((a - 0x300000000) / 0x10000)).find? (fun r => r.covers (a % 0x10000))
  else if a < 0x310100000 then rowsCL.find? (fun r => r.covers (a % 0x10000))
  else none

/-- The Reset value of the register at `a` (0 where there is none). -/
def regReset (a : Nat) : Word :=
  match rowAt a with
  | some r => BitVec.ofNat 32 r.reset
  | none => 0

/-- The index of `a` in a family of `count` registers at `base`, `stride` bytes apart. -/
def ixOf (base stride count a : Nat) : Option Nat :=
  if base ≤ a ∧ (a - base) % stride = 0 ∧ (a - base) / stride < count then some ((a - base) / stride) else none

end Sys2Proof.Machine
end

