-- ==== Sys2Proof/Machine/Sparse.lean ====
section
/-! DEFINITION. Finite tables as sorted lists of (key, value) with a default: one canonical form for memory and for
every indexed piece of state, so that equal tables are equal data. -/

namespace Sys2Proof.Machine

/-- A table: keys strictly rising, no entry equal to its key's default (Tab.wf). -/
abbrev Tab (α : Type) := List (Nat × α)

namespace Sparse

variable {α : Type}

/-- The value at `k`, `d` where the table lists none. -/
def get (d : α) : Tab α → Nat → α
  | [], _ => d
  | (j, v) :: r, k => if j = k then v else get d r k

/-- The table without key `k`. -/
def erase : Tab α → Nat → Tab α
  | [], _ => []
  | (j, v) :: r, k => if j = k then erase r k else (j, v) :: erase r k

/-- An entry put in before the first greater key. -/
def insert : Tab α → Nat → α → Tab α
  | [], k, v => [(k, v)]
  | (j, u) :: r, k, v => if k < j then (k, v) :: (j, u) :: r else (j, u) :: insert r k v

/-- The table with `v` at `k`; writing the default removes the entry. -/
def set [DecidableEq α] (d : α) (t : Tab α) (k : Nat) (v : α) : Tab α :=
  if v = d then erase t k else insert (erase t k) k v

/-- Keys strictly rising above `lo` (none: no bound) and no value equal to its key's default. -/
def wfAbove [DecidableEq α] (d : Nat → α) : Option Nat → Tab α → Bool
  | _, [] => true
  | lo, (k, v) :: r =>
      (match lo with
       | none => true
       | some b => decide (b < k)) && decide (v ≠ d k) && wfAbove d (some k) r

/-- The canonical form. -/
def wf [DecidableEq α] (d : Nat → α) (t : Tab α) : Bool := wfAbove d none t

end Sparse

end Sys2Proof.Machine
end

