-- ==== Sys2Proof/Machine/State.lean ====
section
/-! DEFINITION. The state of the tile as plain data: the registers (one table by fabric address), the memories (one
table by fabric byte address) and, unit by unit, what the spec gives the machine beside its registers. -/

namespace Sys2Proof.Machine

/-- The twelve modes (R39). -/
inductive Mode
  | cold | load | proof | idle | armed | print | blank | spit | calibrate | drain | sleep | safe
  deriving DecidableEq, Repr

/-- Why a command stops. -/
inductive Fault
  /-- A write carries 1 in a reserved bit of the register at `addr` (R14: "The effect of writing one is not defined").
  Raised by every command that writes registers. Safe: the model stops where the spec gives no effect. -/
  | reservedBit (addr : Nat)
  deriving DecidableEq, Repr

/-- Why a command has no meaning. -/
inductive Refusal
  /-- The command has not been given its meaning. Raised by the dispatch alone. Safe. -/
  | notModelled (mnemonic : String)
  deriving DecidableEq, Repr

/-- What the loader does on the flash port (R426, R427). -/
inductive FlashAct
  /-- The reset pair 0x66, 0x99, in 8D-8D-8D form or in 1-1-1 form. -/
  | resetPair (octal : Bool)
  /-- Instruction 0x5A, 3-byte address 0, 8 dummy cycles, at 1-1-1. -/
  | readSfdp
  /-- The mode-entry sequence that SFDP advertises. -/
  | enterOctal
  /-- A read in a mode of FMODE from an address of 3 or 4 bytes onward. -/
  | read (fmode : Nat) (four : Bool) (addr : Nat)
  /-- The port is released: every pin high-impedance. -/
  | release
  deriving DecidableEq, Repr

/-- What a bump or a link carried out of the tile, newest first: the model's own history of the outputs. -/
inductive Out
  /-- Strobe output 0 to 31, or PSTB 32 to 35 (R205), changes level at a POS_TIME. -/
  | strobe (o : Nat) (level : Bool) (t : Nat)
  /-- Words of a Gen-1 port for a print line, then LAT (R192). -/
  | gen1 (port : Nat) (q : Int) (words : List Nat) (lat : Bool)
  /-- A Gen-2 frame with the idle set after it (R194, R215): characters (control, octet) and their 10-bit codes. -/
  | gen2 (pair : Nat) (chars : List (Bool × Byte)) (code : List Nat)
  /-- A Gen-3 frame (R197): its bytes, and its blocks as dealt to the TX lanes (lane, sync header, 64 bits as
  scrambled). -/
  | gen3 (port : Nat) (bytes : List Byte) (blocks : List (Nat × Nat × Nat))
  /-- The converter samples of one sample instant, the POS_TIME at which their frame begins to leave (R228, R238), and the
  frame's characters on each physical lane, inverted or not (R241). -/
  | samples (n : Nat) (v : List Int) (t : Nat) (lanes : List (Nat × Bool × List (Bool × Byte)))
  /-- JESD204B link phase: code group synchronisation, ILAS, data (R241). -/
  | jesd (phase : Nat)
  /-- The ILAS of a logical lane: its physical lane, inverted or not, its configuration octets (R241). -/
  | ilas (lane : Nat) (inv : Bool) (config : List Byte)
  /-- What the loader does on the flash port (R426, R427). -/
  | flash (act : FlashAct)
  /-- An ASP flit (R404) on a module of the die link (R403). -/
  | flit (module : Nat) (bytes : List Byte)
  /-- A sync-chain frame on the out-port (forward) or the in-port (return) (R439, R441). -/
  | forward (bytes : List Byte)
  | back (bytes : List Byte)
  /-- Every strobe, PSTB, Gen-1 and Gen-2 pin low and the serial lanes electrically idle (R467). -/
  | protective
  deriving DecidableEq, Repr

/-- An ASP packet (R407). -/
structure Packet where
  pt : Nat
  rid : Nat := 0
  arg : Nat := 0
  payload : List Byte := []
  deriving DecidableEq, Repr

/-- A coalescing counter (R415): COUNT, FIRST, LAST, words 2 and 3. -/
structure Coal where
  count : Nat := 0
  first : Nat := 0
  last : Nat := 0
  w2 : Nat := 0
  w3 : Nat := 0
  deriving DecidableEq, Repr

/-- States of a context (R311). -/
inductive CtxState | stopped | ready | running | waiting | trapped | trapidle
  deriving DecidableEq, Repr

/-- One context of a cell (R247, R311 to R320, R352). -/
structure Ctx where
  ds : List Half := []
  rs : List Half := []
  a : Half := 0
  b : Half := 0
  rc : Half := 0
  /-- ST[4:0]: C, V, Z, DZ, DZT. CTX and RISE are computed at the read. -/
  st : Half := 0
  pc : Nat := 0
  slot : Nat := 0
  state : CtxState := .stopped
  /-- The event set waited on and the TMO bit (R274). -/
  wset : Nat := 0
  tmo : Bool := false
  /-- Core cycles of the present RC step of a WAIT (16 to a step). -/
  phase : Nat := 0
  /-- Source in service (R319), and the core cycle of its delivery (R333). -/
  svc : Option Nat := none
  given : Nat := 0
  /-- Value to push at the switch (R318). -/
  due : Option Half := none
  /-- CX_WINBASE as written since the start; none: the starter-image value (R352). -/
  winbase : Option Nat := none
  /-- Event set words written since the start, by 4 s + i (R338); an unlisted one holds its starter-image value (R312). -/
  sets : Tab Half := []
  deriving DecidableEq, Repr

/-- A store buffer entry (R287): its context, word address, fabric byte address for a window store, its words. -/
structure SbEntry where
  c : Nat
  addr : Nat
  fab : Option Nat
  words : List Half
  deriving DecidableEq, Repr

/-- A trap in the queue (R324), the core cycle of its arrival, and whether its taking has been reported already. -/
structure TrapRec where
  c : Nat
  code : Nat
  pc : Nat
  slot : Nat
  adr : Nat
  st : Half
  at_ : Nat := 0
  told : Bool := false
  deriving DecidableEq, Repr

/-- What a short op is to the pairing of R293: a P op with the registers it gives (bit 0 T, 1 A, 2 B) and whether it
computes on T; an M op with the register that holds its address, and whether it loads. -/
inductive Short
  | p (gives : Nat) (reads : Bool)
  | m (addr : Nat) (loads : Bool)
  deriving DecidableEq, Repr

/-- A word of the fetch buffer (R284): its address and content, none for an uncorrectable word. -/
structure Fetched where
  adr : Nat
  word : Option Half
  deriving DecidableEq, Repr

/-- A line of the instruction cache (R296): word address bits [14:11] and the eight words. -/
structure CacheLine where
  tag : Nat
  words : List (Option Half)
  deriving DecidableEq, Repr

/-- The fetch side of a cell (R284, R293, R295, R296, R302, R310). -/
structure Fetch where
  /-- The two-word buffer of Steady mode, oldest word first. -/
  buf : List Fetched := []
  /-- Instruction cache by set, the line used last first. -/
  cache : Tab (List CacheLine) := []
  /-- Words that drains have changed since the last IFENCE of a Rising cell, with the content before, newest first (R299). -/
  olds : List (Nat × Option Half) := []
  /-- The 512 two-bit counters, 1 (weakly not-taken) at reset. -/
  counters : Tab Nat := []
  /-- Return predictor by context, top first; none: an entry marked invalid. -/
  rets : Tab (List (Option Nat)) := []
  /-- The 64-entry target buffer: the transfer's address and its target. -/
  targets : Tab (Option (Nat × Nat)) := []
  /-- The short op issued last, where it has no partner yet. -/
  alone : Option Short := none
  /-- The instruction begun waits for the store buffer. -/
  held : Bool := false
  /-- Core cycle of the youngest multiply. -/
  mulAt : Option Nat := none
  /-- Counter that feeds the cell's free waits (log entry 122). -/
  drawn : Nat := 0
  fstall : Nat := 0
  bstall : Nat := 0
  ustall : Nat := 0
  abort : Nat := 0
  icmiss : Nat := 0
  brmiss : Nat := 0
  pairs : Nat := 0
  deriving DecidableEq, Repr

/-- One cell (R247, R248, R287, R321 to R328, R334, R338). -/
structure Cell where
  ctxs : Tab Ctx := []
  mr : BitVec 40 := 0
  owner : Option Nat := none
  live : Bool := false
  save : Tab (BitVec 40) := []
  /-- Valid save slots, a bit per context. -/
  valid : Nat := 0
  /-- Dirty bits, 3 c + 0, 1, 2 for MRL, MRH, MRG of context c (R322). -/
  dirty : Nat := 0
  mrsave : Nat := 0
  switches : Nat := 0
  sbuf : List SbEntry := []
  running : Option Nat := none
  /-- A switch to the running context is in progress (R318). -/
  switching : Bool := false
  trapq : List TrapRec := []
  /-- Trap record: CX_TRAPCODE, TRAPPC, TRAPSL, TRAPADR, TRAPST, TRAPACT. -/
  trapcode : Half := 0
  trappc : Half := 0
  trapsl : Half := 0
  trapadr : Half := 0
  trapst : Half := 0
  trapact : Half := 0
  /-- The context whose trap context 7 handles, the core cycle in which that trap arrived, and whether the context was
  stopped meanwhile (R313, R324). -/
  handling : Option Nat := none
  handledAt : Nat := 0
  handledStopped : Bool := false
  stopped : Bool := false
  asleep : Bool := false
  /-- Core cycle since which every context of the cell has been idle (R334). -/
  idleSince : Option Nat := none
  fetch : Fetch := {}
  deriving DecidableEq, Repr

/-- A pair-port channel of a cluster (R465): IN0, IN1, their full bits, OVR, ERR, and values on the pair lines. -/
structure PairCh where
  in0 : Word := 0
  in1 : Word := 0
  in0f : Bool := false
  in1f : Bool := false
  ovr : Bool := false
  err : Bool := false
  /-- Values on their way from PEER0 and from PEER1, oldest first. -/
  line0 : List Word := []
  line1 : List Word := []
  deriving DecidableEq, Repr

/-- What stands for a timer in the present core cycle (R358 to R365): a tick of CLK 1 to 4; the tick taken already, or lost
to a write of CNT; a reset, a start by its master; a capture source; a period to take effect at its end; CNT found above
it; and what the cycle has brought: an overflow, a match, a capture, events of a make-up. -/
structure TmrNow where
  due : Bool := false
  spent : Bool := false
  zero : Bool := false
  start : Bool := false
  cap : Bool := false
  per : Option Nat := none
  above : Bool := false
  ovf : Bool := false
  mat : Bool := false
  made : Bool := false
  capd : Bool := false
  deriving DecidableEq, Repr

/-- What a timer holds beside its registers (R359, R364, R365), and whether SLEEP found it enabled and not gated (R369). -/
structure Tmr where
  rho : Nat := 0
  pbuf : Option Nat := none
  shadow : Option Word := none
  window : Bool := false
  slept : Bool := false
  now : TmrNow := {}
  deriving DecidableEq, Repr

/-- How a DMA unit has ended, before the event that reports it (R375, R378). -/
inductive DmaMet | none_ | burst | done | err (code : Nat)
  deriving DecidableEq, Repr

/-- What a cluster's DMA engine holds beside the registers: the channel whose unit runs, the bytes left in the unit, how it
ended, the core cycles to its next access (R377), and the bytes that the transfers under way have overwritten, as they were,
by 2^36 k + address for channel k (R374). -/
structure DmaEng where
  unit : Option Nat := none
  left : Nat := 0
  met : DmaMet := .none_
  wait : Nat := 0
  olds : Tab (Option Byte) := []
  deriving DecidableEq, Repr

/-- A march engine (R349, R350, R386): its region, its next access within the region, and the next place of the scrubber
that its accesses serve in place of the test. -/
structure Tester where
  region : Nat := 0
  step : Nat := 0
  scrub : Nat := 0
  deriving DecidableEq, Repr

/-- Fabric faults (R399): failed lanes and fenced crossbars, and the core cycles of earlier uncorrectable flits and
mismatches. -/
structure Fabric where
  lanes : List (Nat × Nat × Nat) := []
  flitErrs : List ((Nat × Nat × Nat) × Nat) := []
  /-- Copies of each node's crossbar that work (2 unless listed). -/
  copies : Tab Nat := []
  /-- 1 + the core cycle of each node's last mismatch, 0 for none. -/
  lastMis : Tab Nat := []
  testing : List Nat := []
  /-- 1 + the core cycle at which both crossbars of a node last passed their test, 0 for none. -/
  passed : Tab Nat := []
  deriving DecidableEq, Repr

/-- The die link (R401 to R412). -/
structure Dlk where
  trained : Bool := false
  rate : Nat := 0
  up0 : Bool := false
  up1 : Bool := false
  x80 : Bool := false
  x81 : Bool := false
  training : Bool := false
  /-- Receiver: ACKSEQ, ACKV, a NAK owed, packet bytes received and not yet a whole packet, its channel known. -/
  rxSeq : Nat := 4095
  rxSeen : Bool := false
  nakOwed : Bool := false
  nakRun : Nat := 0
  rxBytes : List Byte := []
  /-- DATA flits ahead of their turn, come over the other module: FSEQ and payload (R403). -/
  early : List (Nat × List Byte) := []
  /-- Transmitter: next FSEQ, replay buffer (FSEQ, payload, FIRST), where resending stands, bytes of packets begun. -/
  txSeq : Nat := 0
  replay : List (Nat × List Byte × Nat) := []
  resend : Option Nat := none
  txBytes : List Byte := []
  /-- Egress credits held, by channel RSP, ALARM, EVENT, TRACE. -/
  credits : Tab Nat := []
  /-- Credits to return, by channel REQ, STREAM, CONTENT. -/
  owed : Tab Nat := []
  granted : Bool := false
  /-- Requests, stream packets and content packets that wait (R402, R408, R409, R411). -/
  req : List Packet := []
  stream : List Packet := []
  content : List Packet := []
  /-- ASP engine: mismatches on the flit being built, self-test, working engines, engine stopped. -/
  mis : Nat := 0
  testing : Bool := false
  engines : Nat := 2
  noasp : Bool := false
  deriving DecidableEq, Repr

/-- The egress queue (R412), oldest first. -/
structure Egress where
  rsp : List Packet := []
  alarm : List Packet := []
  event : List Packet := []
  trace : List Packet := []
  coal : Tab Coal := []
  deriving DecidableEq, Repr

/-- Ingress into the tile (R409, R411): the content packet that waits, the stream append point, the stream bytes that
wait with the EOR mark and the length of their packet. -/
structure Ingress where
  content : Option Packet := none
  append : Nat := 0
  stream : List Byte := []
  eor : Bool := false
  len : Nat := 0
  waiting : Bool := false
  /-- Trace posts being copied, by cluster: cell, context, word offset, words. -/
  traces : Tab (Option (Nat × Nat × Nat × Nat)) := []
  deriving DecidableEq, Repr

/-! ### Position unit (R45 to R78, R493) -/

/-- The hold-off filters of A and B (R47): accepted levels, ends of the open hold-offs, the count the last accepted edge of
each signal gave. -/
structure Filt where
  a : Bool := false
  b : Bool := false
  endA : Option Nat := none
  endB : Option Nat := none
  cntA : Int := 0
  cntB : Int := 0
  deriving DecidableEq, Repr

/-- One decoder: its filter, position and remainder (R50, R53). -/
structure Dec where
  p : Int := 0
  r : Nat := 0
  f : Filt := {}
  deriving DecidableEq, Repr

/-- What the driving input brought, as the replay holds it (R51): a raw edge with its time and the filter width then, or
the sample at a hold-off's end. -/
inductive RawIn
  | edge (e : QEdge) (t w : Nat)
  | sample (g : QSig) (level : Bool) (t : Nat)
  deriving DecidableEq, Repr

/-- One quadrature input: its filter, filter widths, edges of the adaptation window, Z check with the reverse counts since
the last Z edge (R46 to R49). -/
structure Enc where
  f : Filt := {}
  adapted : Nat := 0
  prog : Nat := 0
  edges : Nat := 0
  emin : Option Nat := none
  lastEdge : Option Nat := none
  lastZ : Option Int := none
  revs : Nat := 0
  deriving DecidableEq, Repr

/-- One event input: filtered level, read window, shadow capture (time, position), last edges (R66, R67, R235). -/
structure EvIn where
  level : Bool := false
  window : Bool := false
  shadow : Option (Nat × Int) := none
  rise : Option Nat := none
  fall : Option Nat := none
  lastRise : Option Nat := none
  /-- The level at the ends of the last core cycle and of the one before, on its way to the timers' gates (R360). -/
  sync1 : Bool := false
  sync2 : Bool := false
  deriving DecidableEq, Repr

/-- One registration channel: i in 1/4,096 tick, c in ticks, errors of used captures awaiting the boundary, the target
written to CORR (R75, R77). -/
structure RegCh where
  i : Int := 0
  c : Int := 0
  errs : List Int := []
  target : Int := 0
  deriving DecidableEq, Repr

/-- One SSI input: previous reading and p, p at the latch instant of the frame that runs, end of the last frame, print
lines since the last reading (R78). -/
structure Ssi where
  prev : Option (Nat × Int) := none
  frame : Option Int := none
  lastEnd : Option Nat := none
  lines : Nat := 0
  deriving DecidableEq, Repr

/-- A fire of a print line: n_g and f_g (R68) and whether the mode at its boundary fires it (R36). -/
structure Fire where
  q : Int
  n : Int
  f : Nat
  fires : Bool
  deriving DecidableEq, Repr

/-- Fire placement of one row group: (Q, n, f) taken at the boundaries of Q − lead, the fire pending since the boundary
of Q, last line fired, crossing time of an edge-locked fire, placement cancelled until the next count (R68 to R72). -/
structure Rg where
  taken : List (Int × Int × Nat) := []
  pend : Option Fire := none
  fired : Option Int := none
  elk : Option Nat := none
  cancelled : Bool := false
  /-- The prediction that later counts no longer replace: print line and instant (R57, R69). -/
  kept : Option (Int × Nat) := none
  /-- Print lines whose transfer began in a mode that sends, newest first. -/
  began : List Int := []
  /-- Last FIRE frame sent: Q, fire time, HOLD (R201); the FIRE time last sent for each print line, newest first (R199). -/
  sent : Option (Int × Nat × Bool) := none
  fires : List (Int × Nat) := []
  deriving DecidableEq, Repr

/-- The position unit. -/
structure Pos where
  d0 : Dec := {}
  d1 : Dec := {}
  /-- The decoder whose position is p; the decoder dropped; counts it has agreed since. -/
  use : Nat := 0
  dropped : Option Nat := none
  agreed : Nat := 0
  /-- Arbitration runs, and its start; the last 64 raw edges, oldest first, and the third decoder as it stood before them
  (R51). -/
  arb : Bool := false
  arbAt : Nat := 0
  raw : List RawIn := []
  base : Dec := {}
  /-- Position up to which boundaries, compares and edge-locked fires have been issued (R51). -/
  issued : Int := 0
  hwm : Int := 0
  onSec : Bool := false
  /-- Encoder loss without failover stands while POS_STAT.ENCLOSS is set (R456). -/
  lossForces : Bool := false
  illLine : Nat := 0
  enc : Tab Enc := []
  /-- Counts of the velocity window, newest first: time and p × DEN + r (R56). -/
  win : List (Nat × Int) := []
  lastCount : Option Nat := none
  lastGap : Nat := 0
  /-- Time of the last accepted count, or of the end of LOAD (R56). -/
  countAt : Nat := 0
  /-- The instant predicted at the last count for the next boundary (R57). -/
  nextAt : Option Nat := none
  lastBoundary : Option Nat := none
  ev : Tab EvIn := []
  reg : Tab RegCh := []
  ssi : Tab Ssi := []
  rg : Tab Rg := []
  /-- p at entry to SLEEP (R461). -/
  sleepP : Int := 0
  deriving DecidableEq, Repr

/-! ### Composer and commits (R81 to R107) -/

/-- A map row segment of a plane as the slice fetched it (R86): the map row and XSCROLL it was fetched for, and its entries
in column order, none where the word was uncorrectable. -/
structure MapSeg where
  row : Nat
  xscr : Int
  entries : List (Option Nat)
  deriving DecidableEq, Repr

/-- The S taken for a line (R89): its codes, and the segments that an uncorrectable tile-store word feeds. -/
structure KeptS where
  line : Int
  codes : List Nat := []
  bad : List Nat := []
  deriving DecidableEq, Repr

/-- One composer slice: the line in progress, the core cycle of its start and the stream source as it stood before it (read
offset, stream error, previous S); the last line begun and the highest line ever begun (a recomposition runs where the
first lies below the second), `again` the last line that a commit sent back; lockstep mismatches on the line, its self-test
and the line under it, a third composition, a recomposition after a mismatch; stream read offset, standing stream error,
the S taken for lines whose deadline lies ahead, and the previous S; the map row segments by plane (R26, R86, R88 to R90,
R102, R106, R107). A list of codes that ends early reads 0 beyond. -/
structure Slice where
  cur : Option Int := none
  beganAt : Nat := 0
  before : Nat × Bool × List Nat := (0, false, [])
  last : Option Int := none
  top : Option Int := none
  again : Option Int := none
  mis : Nat := 0
  testing : Bool := false
  tested : Int := 0
  third : Bool := false
  redo : Bool := false
  rp : Nat := 0
  strErr : Bool := false
  kept : List KeptS := []
  sPrev : List Nat := []
  segs : Tab (Option MapSeg) := []
  deriving DecidableEq, Repr

/-- A commit on its way to the commit unit (R100, R128, R134): issuer 0 to 15 a cluster block, 16 the tile-level block,
17 the hardware response; the core cycle of its issue. -/
structure Commit where
  nozzle : Bool
  issuer : Nat
  line : Int
  mask : Nat
  cycle : Nat
  deriving DecidableEq, Repr

/-- An accepted commit (R101): the clusters that have not taken it, those it has not reached, and whether the issuer's
RESULT still speaks of it. -/
structure PendCommit where
  nozzle : Bool
  issuer : Nat
  line : Int
  mask : Nat
  flying : Nat
  reports : Bool
  deriving DecidableEq, Repr

/-- Composer and commit unit: slices, composed lines that await conditioning (cluster, line, codes), commits. -/
structure Cmp where
  slices : Tab Slice := []
  composed : List (Nat × Int × List Nat) := []
  issued : List Commit := []
  pend : List PendCommit := []
  deriving DecidableEq, Repr

/-! ### Conditioning, codec, line store (R119 to R176) -/

/-- What the codec makes of a line (R150 to R166): how it ends, its bytes, and what the registers report of it. -/
inductive LineEnd | stored | dropped | discarded
  deriving DecidableEq, Repr

structure Coded where
  line : Int
  fate : LineEnd
  bytes : List Byte := []
  ver : Nat := 0
  red : Nat := 0
  /-- Segments stored as ZERO, FILL, RUN, COPY, RAW, RAWR. -/
  counts : List Nat := []
  /-- The stored codes, segment by segment (R151). -/
  ref : List (List Nat) := []
  /-- Mismatches and self-test of the pipeline and of the encoder on this line (R137, R169). -/
  mis : Nat := 0
  testing : Bool := false
  third : Bool := false
  encMis : Nat := 0
  encTesting : Bool := false
  encThird : Bool := false
  /-- The composed codes by cluster, kept for reconditioning (R137). -/
  input : List (Nat × List Nat) := []
  deriving DecidableEq, Repr

/-- A stored line in the order of writing (R154): first block and length, whether it has a record, VER. -/
structure Stored where
  line : Int
  blk : Nat := 0
  len : Nat := 0
  hasRec : Bool := true
  ver : Nat := 0
  deriving DecidableEq, Repr

/-- A dead nozzle of the hardware response (R134): SETMISS applied in the staged bank, its commit issued and not yet
decided, a first commit issued for it. -/
structure AutoMiss where
  g : Nat
  n : Nat
  applied : Bool
  issued : Bool := false
  tried : Bool := false
  deriving DecidableEq, Repr

/-- A word that R140 holds in two copies: a table register by its fabric address, or a byte of a nozzle-map bank. -/
inductive TabWord
  | table (a : Nat)
  | bank (staged : Bool) (i : Nat)
  deriving DecidableEq, Repr

/-- Slice substitution for the march test (R174): a spare being loaded with the slice, the test, the copy-back. -/
inductive SliceJob
  | idle
  | load (slice spare : Nat)
  | march (slice spare : Nat)
  | back (slice spare : Nat)
  deriving DecidableEq, Repr

/-- Nozzle map banks, conditioning, codec, line store. -/
structure Lst where
  mapA : Tab Nat := []
  mapS : Tab Nat := []
  /-- Words of which one copy has an uncorrectable error, and which copy (R140). -/
  tabErr : List (TabWord × Bool) := []
  /-- Hardware nozzle-out response (R134): the dead nozzles whose commit is not yet accepted. -/
  auto : List AutoMiss := []
  /-- Nozzle status records that wait, four words each as one number (R131). -/
  records : List Nat := []
  busy : Option Coded := none
  /-- Last line conditioned since composition began. -/
  lastCond : Option Int := none
  /-- 1 + the core cycle of the last write of COD_BUD, and the value in force in that cycle (R161). -/
  bud : Nat × Word := (0, 0)
  /-- Reference of the codec: line, late, codes (R151). -/
  ref : Option (Int × Bool × List (List Nat)) := none
  stored : List Stored := []
  /-- Entries of the fixed organisation, kept outside the fabric map (R180). -/
  slots : Tab Nat := []
  /-- VER of lines that a rewind removed (R156). -/
  vers : List (Int × Nat) := []
  scrubBlk : Nat := 0
  scrubCnt : Tab Nat := []
  job : SliceJob := .idle
  /-- Repair whose copy runs (slice, spare), and the slices that wait for repair. -/
  repair : Option (Nat × Nat) := none
  repairQ : List Nat := []
  nextMarch : Nat := 0
  /-- Spares that failed the load's self-test. -/
  deadSpares : List Nat := []
  deriving DecidableEq, Repr

/-! ### Peel and head links (R180 to R219) -/

/-- A row group's copy buffer (R183): line, codes by segment, poison marks, RED of its record (R162). -/
structure CopyBuf where
  line : Int
  segs : List (List Nat)
  poison : List Bool
  red : Bool := false
  deriving DecidableEq, Repr

/-- A slot's codes on the way to its port (R185, R188). -/
structure Xfer where
  q : Int
  g : Nat
  gen : Nat
  port : Nat
  hlane : Nat
  order : Nat
  w : Nat
  codes : List Nat
  pois : Bool := false
  red : Bool := false
  noFire : Bool := false
  spit : Bool := false
  zero : Bool := false
  deriving DecidableEq, Repr

/-- A Gen-3 TX frame kept until acknowledged (R199): its fields and payload without CRC and LMASK, times sent, when its last
block left. -/
structure Frame3 where
  seq : Nat
  typ : Nat
  q : Int
  g : Nat
  hlane : Nat := 0
  w : Nat := 0
  n : Nat := 0
  flags : Nat := 0
  payload : List Byte := []
  sends : Nat := 1
  sent : Nat := 0
  deriving DecidableEq, Repr

/-- One Gen-3 port: next SEQ, replay buffer, the time at which the frame that is leaving has left, FIRE frames and
retransmissions (by SEQ) that wait for their turn (R200), consecutive NAKs naming each TX lane, frames without an answer in a
row, time of the last TIME frame, lanes in training (0 to 3 TX, 4 and 5 RX), a training attempt finished. -/
structure G3 where
  seq : Nat := 0
  replay : List Frame3 := []
  freeAt : Nat := 0
  fires : List Frame3 := []
  again : List Nat := []
  naks : Tab Nat := []
  silent : Nat := 0
  lastTime : Option Nat := none
  train : List Nat := []
  tried : Bool := false
  deriving DecidableEq, Repr

/-- Peel and head links. -/
structure Links where
  copy : Tab (Option CopyBuf) := []
  prevN : Tab (Option Int) := []
  xfers : List Xfer := []
  /-- The frame that a recovery holds back (R217, R218), mismatches on it, its self-test, a third build. -/
  held : Option Xfer := none
  mis : Nat := 0
  testing : Bool := false
  third : Bool := false
  g3 : Tab G3 := []
  /-- Running disparity of each Gen-2 pair, 1 for + (R194). -/
  rd2 : Tab Nat := []
  /-- Strobe outputs that are high (0 to 31 STB, 32 to 35 PSTB) with the time of their rise. -/
  high : Tab (Option Nat) := []
  /-- Route tables by first print line, newest first (R190); the one pending (R189). -/
  routes : List (Int × Bool) := []
  rswPend : Option (Int × Bool) := none
  /-- Row groups whose spit transfer runs, with the Q of its frames (R207). -/
  spit : List (Nat × Int) := []
  deriving DecidableEq, Repr

/-! ### Waveform block (R223 to R244) -/

/-- One voice: level (8 fraction bits), cycle in progress with origin, segment, its start offset and level, factor
(Q2.14), queued start times. -/
structure Voice where
  lvl : Int := 0
  run : Bool := false
  t0 : Nat := 0
  j : Nat := 0
  tau : Nat := 0
  lj : Int := 0
  k : Nat := 16384
  q : List Nat := []
  deriving DecidableEq, Repr

/-- One output channel: gain in use, ramp (from, to, length, samples done), envelope gain num ÷ 2^exp. -/
structure WOut where
  gain : Nat := 0
  g0 : Nat := 0
  g1 : Nat := 0
  ramp : Nat := 0
  i : Nat := 0
  num : Nat := 1
  exp : Nat := 0
  deriving DecidableEq, Repr

/-- A JESD204B lane in the data state: its scrambler, and the last octet of the frame before where it may be repeated
(R241). -/
structure JLane where
  scr : Nat := 0
  last : Option Byte := none
  deriving DecidableEq, Repr

structure Wav where
  /-- Sample number. -/
  n : Nat := 0
  voices : Tab Voice := []
  outs : Tab WOut := []
  /-- Time of the last reading of each sensor. -/
  sens : Tab Nat := []
  realign : Bool := false
  /-- Time of the last sample; phase of the LMFC on POS_TIME (mod 800 ns). -/
  lastT : Option Nat := none
  lmfc : Nat := 0
  /-- Writes not yet in effect (R230), oldest first: register, value before the write, time. -/
  late : List (Nat × Word × Nat) := []
  /-- Sample at which each copy last dissented. -/
  dissent : Tab (Option Nat) := []
  /-- Sample instants that the ILAS still takes (R241, R243); the logical lanes. -/
  ilas : Nat := 0
  lanes : Tab JLane := []
  deriving DecidableEq, Repr

/-! ### Loader, sync chain, test port (R426 to R447, R483 to R485) -/

/-- A section table entry (R429). -/
structure Section where
  typ : Nat
  off : Nat
  len : Nat
  dest : Nat
  deriving DecidableEq, Repr

structure Loader where
  /-- What the flash answers to the detection, and the time by which it has ended (R434). -/
  flash : Option FlashInfo := none
  detectEnds : Nat := 0
  /-- SFDP's density allows copy B. -/
  hasB : Bool := false
  /-- The loader drives the flash port; else its pins are high-impedance (R427). -/
  drives : Bool := false
  /-- Time that a rejected copy has taken since the end of COLD. -/
  spent : Nat := 0
  /-- Header and section table of the copy in hand, its sections, its trailer, whether the body check passed. -/
  hdr : List Byte := []
  secs : List Section := []
  trailer : List Byte := []
  bodyOk : Bool := false
  /-- The self-test of this copy's load has ended. -/
  tested : Bool := false
  deriving DecidableEq, Repr

structure Syn where
  decided : Bool := false
  /-- Head's frame count; REBASE carried by its frames. -/
  fidx : Nat := 0
  /-- A boundary's frame that waits for the link. -/
  wait : Bool := false
  rebase : Bool := false
  /-- Align at the next accepted frame; aligned since PROOF began. -/
  alignArmed : Bool := false
  aligned : Bool := false
  /-- Next FIDX of the DIGMIS-free run, its length, one full rotation done since the last alignment. -/
  want : Nat := 0
  run : Nat := 0
  rotated : Bool := false
  /-- |d| of the last frame above the tolerance, or within it; forward and return frames discarded in a row. -/
  above : Bool := false
  under : Bool := false
  badRow : Nat := 0
  badRet : Nat := 0
  /-- Last frame sent or accepted: start time of the head's, forward P, answered forward frame, times and own boundaries
  since the frames of each kind. -/
  sentAt : Nat := 0
  owed : Bool := false
  lastP : Int := 0
  fwdAt : Nat := 0
  retAt : Nat := 0
  bounds : Nat := 0
  inconsUp : Bool := false
  almUp : Bool := false
  almDown : Bool := false
  deriving DecidableEq, Repr

structure Jtag where
  /-- Instruction register: IDCODE after Test-Logic-Reset (log entry 13). -/
  ir : Nat := 1
  /-- Update stage of the boundary-scan register, and the data register last captured. -/
  bsr : BitVec 336 := 0
  dr : BitVec 336 := 0
  /-- Fuses (R485): [0] SIGEN, [32:1] rollback, [288:33] key hash, [289] KEYLOCK. -/
  fuses : BitVec 290 := 0
  /-- Bits still to be blown, rising. -/
  prog : List Nat := []
  deriving DecidableEq, Repr

/-! ### The tile -/

/-- Events recorded in the present core cycle in the field `lo`, `w` of an RC register (R16): its value before them, and
what of them a read leaves. -/
structure RcEv where
  lo : Nat
  w : Nat
  old : Nat
  kept : Nat
  deriving DecidableEq, Repr

/-- What the rules for one core cycle need of the present one (R16, R331): the status bits set by hardware and the events
recorded in RC fields, by register; the rank of the last write of a PEND bit (128 n + i) or MASK bit (128 n + 64 + i) of
cluster n, one more than the cell number, 17 for the fabric, 18 for hardware. -/
structure Cyc where
  sets : Tab Word := []
  counts : Tab (List RcEv) := []
  ranks : Tab Nat := []
  /-- The alarms of the cycle in increasing type, and the queue and the counters as they stood before them (R415). -/
  alarms : List (Nat × Coal) := []
  queue0 : List Packet := []
  coal0 : Tab Coal := []
  deriving DecidableEq, Repr

/-- The state of the tile. -/
structure State where
  /-- Commands that wait, first in first out. -/
  pending : List Instr := []
  /-- Counter that feeds the free values (log entry 6). -/
  fresh : Nat := 0
  /-- POS_TIME in 250 ps units since the end of COLD, unwrapped. -/
  time : Nat := 0
  /-- Core cycles that SLEEP has gated (R460), and what the present one holds. -/
  gated : Nat := 0
  cyc : Cyc := {}
  /-- Registers by fabric address; an unlisted one holds its Reset value. -/
  regs : Tab Word := []
  /-- Proof banks by the fabric address of the active register (R99). -/
  proof : Tab Word := []
  /-- Bytes of local RAM, pantries, tile store, line store by fabric address. -/
  mem : List Host.Cell := []
  /-- Memory words with an uncorrectable error, by first byte; words with a single-bit error. -/
  ue : List Nat := []
  ce : List Nat := []
  /-- Microcode patch RAM: points 0 to 15, entries from 16 (R304, R429). -/
  patch : Tab Nat := []
  /-- What left the tile, newest first. -/
  wire : List Out := []
  mode : Mode := .cold
  prev : Mode := .cold
  cause : Nat := 0
  /-- SL fields are sealed (R437). -/
  sealed : Bool := false
  /-- Stages and latches of R355 by writer: the pair's address and the value. -/
  stages : Tab (Option (Nat × Nat)) := []
  latches : Tab (List (Nat × Nat)) := []
  /-- Data and STATUS of the last response (R390). -/
  rdata : Word := 0
  rstat : Nat := 0
  cells : Tab Cell := []
  pair : Tab PairCh := []
  tmr : Tab Tmr := []
  dma : Tab DmaEng := []
  /-- March engines: of cluster n's pantry by n, of tile-store slice j by 16 + j, of cell m of cluster n by
  32 + 16 n + m. -/
  tester : Tab Tester := []
  evLatch : Tab Nat := []
  /-- By cluster, the sources to be offered again (R330); by 64 n + i, the sources of cluster n that were pending when
  source i became active-and-pending. -/
  evAhead : Tab Nat := []
  evBefore : Tab Nat := []
  pos : Pos := {}
  cmp : Cmp := {}
  lst : Lst := {}
  links : Links := {}
  wav : Wav := {}
  fab : Fabric := {}
  dlk : Dlk := {}
  egress : Egress := {}
  ingress : Ingress := {}
  loader : Loader := {}
  syn : Syn := {}
  jtag : Jtag := {}
  /-- Image lines that fell due (R26), as spans first to last, newest first; E of the last entry to a composing mode (R37);
  I_last of DRAIN (R40). -/
  due : List (Int × Int) := []
  first : Option Int := none
  iLast : Option Int := none
  /-- BLANK was entered because of the gate (R456); causes of a forced BLANK that waits for the boundary (5 ring full,
  6 mismatch policy); core cycle of the last forced change. -/
  gateBlank : Bool := false
  blankDue : List Nat := []
  forcedAt : Option Nat := none
  /-- Time at which PROOF began; entry to SLEEP in progress, exit from it in progress (R460, R461). -/
  proofAt : Nat := 0
  sleepEntry : Bool := false
  waking : Bool := false
  /-- Timers stopped by SLEEP, and the ratio of each cluster in force at that time (R368); the ratio measured last, or the
  starter image's (R367); the core cycle of the slow-clock edge shown last by a command. -/
  tmrStopped : Bool := false
  sleepRatio : Tab Nat := []
  slowRatio : Tab Nat := []
  slowAt : Option Nat := none
  /-- Time at which the watchdog count was last restarted, and the count then (R471). -/
  wdAt : Nat := 0
  /-- Names the starter-image values of event sets and window bases in use; 0 before an image is loaded. -/
  img : Nat := 0
  deriving DecidableEq, Repr

/-- The tile right after reset: COLD, every register at its Reset value, every memory unlisted, every unit empty. What
the spec gives no reset value for stands at the value log entry 12 names. -/
def State.reset : State := {}

end Sys2Proof.Machine
end

