-- ==== Sys2Proof/Machine/Ops.lean ====
section
/-! DEFINITION. The named operations over registers and memory that every unit uses: raw register access (no access
codes: those are RegWrite's), memory bytes and ECC words, free values, alarms, events, address errors. -/

namespace Sys2Proof.Machine

/-! ### Registers as stored -/

/-- The stored value of the register at `a`. -/
def rd (a : Nat) (s : State) : Word := Sparse.get (regReset a) s.regs a

/-- The register at `a` set to `v`. -/
def wr (a : Nat) (v : Word) (s : State) : State :=
  { s with regs := Sparse.set (regReset a) s.regs a v }

/-- A field of a register. -/
def rf (a lo w : Nat) (s : State) : Nat := fld (rd a s) lo w

/-- A bit of a register. -/
def rb (a i : Nat) (s : State) : Bool := bit (rd a s) i

/-- A field of a register set. -/
def wf (a lo w x : Nat) (s : State) : State := wr a (putFld (rd a s) lo w x) s

/-! ### What one core cycle does to a register (R16) -/

/-- The bits of the register at `a` that hardware has set in this core cycle. -/
def setNow (a : Nat) (s : State) : Word := Sparse.get 0 s.cyc.sets a

/-- Bit `i` of the register at `a` is set in this core cycle. -/
def noteSet (a i : Nat) (s : State) : State :=
  { s with cyc := { s.cyc with sets := Sparse.set 0 s.cyc.sets a (putBit (setNow a s) i true) } }

/-- A bit of a register set. -/
def wb (a i : Nat) (b : Bool) (s : State) : State :=
  let t := wr a (putBit (rd a s) i b) s
  if b then noteSet a i t else t

/-- The events recorded in RC fields of the register at `a` in this core cycle. -/
def eventsNow (a : Nat) (s : State) : List RcEv := Sparse.get [] s.cyc.counts a

def putEvents (a : Nat) (l : List RcEv) (s : State) : State :=
  { s with cyc := { s.cyc with counts := Sparse.set [] s.cyc.counts a l } }

/-- An event is recorded in the field `lo`, `w` of an RC register: `join` adds it to what a read leaves of this core
cycle's earlier events, `none` where there are none. -/
def noteEvent (a lo w : Nat) (join : Option Nat → Nat) (s : State) : State :=
  let l := eventsNow a s
  match l.find? (fun e => e.lo == lo) with
  | some _ => putEvents a (l.map (fun e => if e.lo = lo then { e with kept := join (some e.kept) } else e)) s
  | none => putEvents a (l ++ [{ lo := lo, w := w, old := rf a lo w s, kept := join none }]) s

/-- What a read of the register at `a`, whose value is `v`, returns: RC fields as they stood before this core cycle's
events (R16). -/
def beforeEvents (a : Nat) (v : Word) (s : State) : Word :=
  (eventsNow a s).foldl (fun v e => putFld v e.lo e.w e.old) v

/-- The fields of the register at `a` that lie in `m` cleared by a read to those of `back`: this core cycle's events remain
recorded (R16). -/
def clearFields (a : Nat) (m back : Word) (s : State) : State :=
  let l := eventsNow a s
  let v := (rd a s &&& ~~~m) ||| (back &&& m)
  let v := l.foldl (fun v e => if bit m e.lo then putFld v e.lo e.w e.kept else v) v
  putEvents a (l.map (fun e => if bit m e.lo then { e with old := fld back e.lo e.w } else e)) (wr a v s)

/-- A saturating counter field advanced by `n`. -/
def addSat (a lo w n : Nat) (s : State) : State :=
  if n = 0 then s
  else
    wf a lo w (min (2 ^ w - 1) (rf a lo w s + n))
      (noteEvent a lo w (fun k => min (2 ^ w - 1) (k.getD 0 + n)) s)

/-- A field that keeps the smallest value seen. -/
def keepMin (a lo w x : Nat) (s : State) : State :=
  let t := noteEvent a lo w (fun k => min (k.getD (2 ^ w - 1)) x) s
  if x < rf a lo w s then wf a lo w x t else t

/-- A field that keeps the largest value seen. -/
def keepMax (a lo w x : Nat) (s : State) : State :=
  let t := noteEvent a lo w (fun k => max (k.getD 0) x) s
  if rf a lo w s < x then wf a lo w x t else t

/-- A 40-bit signed line held in a couple of registers: low word, high byte. -/
def rdLine (aL aH : Nat) (s : State) : Int := sext 40 ((rd aL s).toNat + 2 ^ 32 * rf aH 0 8 s)

/-- A 40-bit line written to a couple of registers. -/
def wrLine (aL aH : Nat) (i : Int) (s : State) : State :=
  wf aH 0 8 (low 40 i / 2 ^ 32) (wr aL (BitVec.ofNat 32 (low 40 i)) s)

/-! ### Free values -/

/-- The counter that feeds the free values, advanced. -/
def drawn (s : State) : State := { s with fresh := s.fresh + 1 }

/-! ### Memory -/

/-- The one canonical form of memory: addresses strictly rising, no listed byte equal to what an unlisted one reads as. -/
def Memory.wf (m : List Host.Cell) : Bool := Sparse.wf (fun _ => 0) m

/-- One byte of a memory (R7); an unlisted byte reads 0 (log entry 4). -/
def mb (a : Nat) (s : State) : Byte := Sparse.get 0 s.mem a

/-- `n` bytes from `a` up. -/
def readBytes (a : Nat) : Nat → State → List Byte
  | 0, _ => []
  | n + 1, s => mb a s :: readBytes (a + 1) n s

/-- `n` bytes from `a` up as a little-endian number. -/
def readN (a n : Nat) (s : State) : Nat := leNat (readBytes a n s)

/-- The ECC word that holds the byte at `a`: an aligned pair of local RAM (R349), 64 data bits elsewhere (R172, R348,
R386). -/
def eccWord (a : Nat) : Nat :=
  if 0x200000000 ≤ a ∧ a < 0x300000000 then a / 4 * 4 else a / 8 * 8

def eccSize (a : Nat) : Nat := if 0x200000000 ≤ a ∧ a < 0x300000000 then 4 else 8

/-- Does a read of `n` bytes at `a` meet an uncorrectable word? -/
def ueIn (a n : Nat) (s : State) : Bool := s.ue.any (fun w => decide (w < a + n ∧ a < w + eccSize w))

def storeBytes (a : Nat) : List Byte → List Host.Cell → List Host.Cell
  | [], m => m
  | b :: r, m => storeBytes (a + 1) r (Sparse.set 0 m a b)

/-- Is the word in error at `w` sound after a write of `n` bytes at `a`? Every write to the line store writes whole words
(R172); elsewhere a word stays in error until one write covers it whole (R348). -/
def cured (a n w : Nat) : Bool :=
  if w < 0x6000000 then decide (w < a + n ∧ a < w + 8) else decide (a ≤ w ∧ w + eccSize w ≤ a + n)

/-- Bytes written to memory. A word with a single-bit error is corrected before a part of it is written. -/
def writeBytes (a : Nat) (l : List Byte) (s : State) : State :=
  { s with
    mem := storeBytes a l s.mem
    ue := s.ue.filter (fun w => !cured a l.length w)
    ce := s.ce.filter (fun w => !decide (w < a + l.length ∧ a < w + eccSize w)) }

/-- A little-endian number of `n` bytes written at `a`. -/
def writeN (a n v : Nat) (s : State) : State := writeBytes a (leBytes n v) s

/-! ### Addresses of the memories (R7, R341) -/

def lineStoreBase : Nat := 0
def tileStoreBase : Nat := 0x8000000
def pantryBase (cl : Nat) : Nat := 0x100000000 + cl * 0x100000
/-- Byte address of word `o` of bank `k` (R341). -/
def bankWord (cl k o : Nat) : Nat := pantryBase cl + k * 0x40000 + 2 * o
def localBase (cl m : Nat) : Nat := 0x200000000 + cl * 0x100000 + m * 0x10000

/-- A place on the fabric (R7, R8). -/
inductive Place
  | lineStore | tileStore
  | pantry (cl : Nat)
  | localRam (cl m : Nat)
  | tileReg
  | clusterReg (index : Nat)
  | nowhere
  deriving DecidableEq, Repr

/-- Where the fabric address `a` lies. -/
def placeOf (a : Nat) : Place :=
  if a < 0x6000000 then .lineStore
  else if 0x8000000 ≤ a ∧ a < 0xA000000 then .tileStore
  else if 0x100000000 ≤ a ∧ a < 0x101000000 then .pantry ((a - 0x100000000) / 0x100000)
  else if 0x200000000 ≤ a ∧ a < 0x201000000 then
    .localRam ((a - 0x200000000) / 0x100000) ((a - 0x200000000) / 0x10000 % 16)
  else if 0x300000000 ≤ a ∧ a < 0x310000000 then .tileReg
  else if 0x310000000 ≤ a ∧ a < 0x310200000 then .clusterReg ((a - 0x310000000) / 0x10000)
  else .nowhere

/-- Is the place a register block (R12)? -/
def isRegPlace (a : Nat) : Bool :=
  match placeOf a with
  | .tileReg => true
  | .clusterReg _ => true
  | _ => false

/-! ### Time (R19): 250 ps units since the end of COLD -/

/-- Core cycles of 1.2 GHz since the end of COLD. -/
def coreCycle (s : State) : Nat := s.time * 3 / 10

/-- A line index or position as the 40 bits a packet holds. -/
def h40 (i : Int) : Nat := low 40 i

/-! ### Egress (R412, R415, R416) -/

def Packet.bytes (p : Packet) : Nat := 8 + p.payload.length

def queueBytes (l : List Packet) : Nat := (l.map Packet.bytes).sum

/-- An event packet queued (R416): the oldest are discarded until it fits, each counted in ASP_DROP.EV. -/
def pushEvent (p : Packet) (s : State) : State :=
  let rec trim : Nat → List Packet → List Packet
    | 0, q => q
    | n + 1, q => if queueBytes q + p.bytes ≤ 24576 then q else trim n (q.drop 1)
  let q := trim s.egress.event.length s.egress.event
  addSat R.ASP_DROP 0 16 (s.egress.event.length - q.length)
    { s with egress := { s.egress with event := q ++ [p] } }

/-- An event packet of KIND (R418). -/
def postEvent (kind cl m c detail : Nat) (s : State) : State :=
  let w0 := h40 s.pos.hwm + cl * 2 ^ 40 + m * 2 ^ 44 + c * 2 ^ 48 + kind * 2 ^ 56
  pushEvent { pt := 0x41, payload := leBytes 8 w0 ++ leBytes 8 detail } s

/-- A trace packet queued, or discarded and counted in ASP_DROP.TR (R416). -/
def pushTrace (p : Packet) (s : State) : State :=
  if queueBytes s.egress.trace + p.bytes ≤ 24576 then
    { s with egress := { s.egress with trace := s.egress.trace ++ [p] } }
  else addSat R.ASP_DROP 16 16 1 s

/-- What an alarm carries (R413, R414): DETAIL and word 3; fields a type does not use are 0. -/
structure Alarm where
  line : Int := 0
  idx : Nat := 0
  cluster : Nat := 0
  unit : Nat := 0
  ctx : Nat := 0
  code : Nat := 0
  addr : Nat := 0
  port : Nat := 0
  deriving DecidableEq, Repr

/-- Word 2, DETAIL (R413). -/
def Alarm.w2 (x : Alarm) : Nat :=
  h40 x.line + x.idx % 64 * 2 ^ 40 + x.cluster % 16 * 2 ^ 46 + x.unit % 16 * 2 ^ 50 + x.ctx % 8 * 2 ^ 54
    + x.code % 128 * 2 ^ 57

/-- Word 3 (R413). -/
def Alarm.w3 (x : Alarm) : Nat := x.addr % 2 ^ 40 + x.port % 64 * 2 ^ 40

/-- The alarm packet of type `typ` (R413). -/
def alarmPacket (typ : Nat) (coal : Bool) (c : Coal) : Packet :=
  { pt := 0x40, arg := typ + b2n coal * 64 + c.count * 256
    payload := leBytes 8 c.first ++ leBytes 8 c.last ++ leBytes 8 c.w2 ++ leBytes 8 c.w3 }

def coalOf (typ : Nat) (s : State) : Coal := Sparse.get {} s.egress.coal typ

/-- An alarm of type `typ` is taken into the egress (R415): its packet, or its coalescing counter. After NOASP alarms
coalesce (R420). -/
def takeAlarm (noasp : Bool) (e : Egress) (typ : Nat) (one : Coal) : Egress :=
  let c := Sparse.get {} e.coal typ
  if c.count = 0 ∧ queueBytes e.alarm + 40 ≤ 8192 ∧ noasp = false then
    { e with alarm := e.alarm ++ [alarmPacket typ false one] }
  else
    { e with coal := Sparse.set {} e.coal typ (if c.count = 0 then one
        else { one with count := min 0xFFFFFF (c.count + 1), first := c.first }) }

/-- An alarm behind those of its type and before those of later ones. -/
def inType (typ : Nat) (one : Coal) : List (Nat × Coal) → List (Nat × Coal)
  | [] => [(typ, one)]
  | y :: r => if typ < y.1 then (typ, one) :: y :: r else y :: inType typ one r

/-- What an alarm packet carries of `x`, with the high-water mark `h`. -/
def oneAlarm (h : Nat) (x : Alarm) : Coal := { count := 1, first := h, last := h, w2 := x.w2, w3 := x.w3 }

/-- An alarm of type `typ` is raised (R415, R469): its summary bit, and its packet or its coalescing counter. The alarms of
one core cycle are taken in increasing type: those of later types taken already in this cycle are taken again after it. -/
def raiseAlarm (typ : Nat) (x : Alarm) (s : State) : State :=
  let s := wb (if typ < 32 then R.TIL_ASUML else R.TIL_ASUMH) (typ % 32) true s
  let one := oneAlarm (h40 s.pos.hwm) x
  let y := s.cyc
  let y := if y.alarms = [] then { y with queue0 := s.egress.alarm, coal0 := s.egress.coal } else y
  let y := { y with alarms := inType typ one y.alarms }
  { s with
    cyc := y
    egress := y.alarms.foldl (fun e z => takeAlarm s.dlk.noasp e z.1 z.2) { s.egress with alarm := y.queue0, coal := y.coal0 } }

/-- A W1C status bit set with the alarm it raises (R414). -/
def alarmBit (a i typ : Nat) (x : Alarm) (s : State) : State := raiseAlarm typ x (wb a i true s)

/-- A TILE alarm of a code (R414: type 63). -/
def tileAlarm (code : Nat) (x : Alarm) (s : State) : State := raiseAlarm 63 { x with code := code } s

/-- An access to a reserved index or an unmapped address (R11): FAB_AERR registers and event kind 0x01 (R418, R421). -/
def addressError (a : Nat) (s : State) : State :=
  s |> wr R.FAB_AERRL (BitVec.ofNat 32 a)
    |> wr R.FAB_AERRH (BitVec.ofNat 32 (a / 2 ^ 32 % 16))
    |> addSat R.FAB_AERRCNT 0 16 1
    |> wb R.FAB_STAT 4 true
    |> postEvent 1 0 0 0 (a % 2 ^ 36)

/-- What a requester gets back: data and STATUS (R390). -/
def respond (v : Word) (st : Nat) (s : State) : State := { s with rdata := v, rstat := st }

/-- The redundancy of a unit is used up (R463, R472): its TIL_REDLOST bit, and GUAR reads 0. -/
def redLost (i : Nat) (s : State) : State := s |> wb R.TIL_REDLOST i true |> wb R.TIL_REDLOST 16 false

/-- Something leaves the tile. -/
def emit (o : Out) (s : State) : State := { s with wire := o :: s.wire }

end Sys2Proof.Machine
end

