-- ==== Sys2Proof/Machine/Events.lean ====
section
/-! DEFINITION. The event controllers and the scheduler (R311 to R340): sources, delivery, service, context states,
priorities, traps. Shared by every command that starts, stops, resumes or traps a context. -/

namespace Sys2Proof.Machine

/-! ### 64-bit register couples of a controller -/

def rd64 (aL aH : Nat) (s : State) : Nat := (rd aL s).toNat + (rd aH s).toNat * 2 ^ 32

/-- Bit `i` of a 64-bit couple set to `b`. -/
def wb64 (aL aH i : Nat) (b : Bool) (s : State) : State :=
  if i < 32 then wb aL i b s else wb aH (i - 32) b s

/-! ### Sources (R329, R330) -/

/-- Is source `i` a level source? -/
def isLevel (i : Nat) : Bool := i == 6 || i == 7 || i == 20 || i == 21 || i == 23 || i == 24

/-- Has source `i` an asynchronous edge latch? -/
def hasLatch (i : Nat) : Bool := i == 20 || i == 21 || i == 22 || decide (32 ≤ i)

def cellOf (cl m : Nat) (s : State) : Cell := Sparse.get {} s.cells (cl * 16 + m)

/-- The level of source `i` of cluster `cl` (R329: ring and log not empty in their cluster, ingress rings, alarm summary,
a stopped cell). -/
def levelOf (cl i : Nat) (s : State) : Bool :=
  if i = 6 then rf R.NZL_CFG 8 4 s == cl && rd R.NZL_SQ_WP s != rd R.NZL_SQ_RP s
  else if i = 7 then rf R.LST_CFG 8 4 s == cl && rd R.LST_LOG_WP s != rd R.LST_LOG_RP s
  else if i = 20 ∨ i = 21 then rd (R.ASP_IR_WP cl (i - 20)) s != rd (R.ASP_IR_RP cl (i - 20)) s
  else if i = 23 then
    (rd R.TIL_ASUML s &&& rd R.TIL_AMASKL s) != 0 || (rd R.TIL_ASUMH s &&& rd R.TIL_AMASKH s) != 0
  else if i = 24 then (List.range 16).any (fun m => (cellOf cl m s).stopped)
  else false

/-- PEND of source `i`: the stored bit (an edge, or the software pend bit of a level source) or the level (R330). -/
def pendOf (cl i : Nat) (s : State) : Bool :=
  bitN (rd64 (R.EVC_PENDSETL cl) (R.EVC_PENDSETH cl) s) i || (isLevel i && levelOf cl i s)

def maskOf (cl i : Nat) (s : State) : Bool := bitN (rd64 (R.EVC_MASKSETL cl) (R.EVC_MASKSETH cl) s) i

def actOf (cl i : Nat) (s : State) : Bool := bitN (rd64 (R.EVC_ACTL cl) (R.EVC_ACTH cl) s) i

/-- Is the clock of the controllers stopped (SLEEP, R460)? -/
def clockStopped (s : State) : Bool := s.mode == .sleep && !s.waking

/-- An edge latch catches source `i` (R330). -/
def latchEdge (cl i : Nat) (s : State) : State :=
  { s with evLatch := Sparse.set 0 s.evLatch cl (setBitN (Sparse.get 0 s.evLatch cl) i) }

/-! ### Writes and assertions of one core cycle (R331) -/

/-- Ranks of the writers of a core cycle: the cells in order, the fabric, hardware. -/
def cellRank (m : Nat) : Nat := m + 1
def fabricRank : Nat := 17
def hardwareRank : Nat := 18

/-- May a write of rank `rk` change bit `j` (0 to 63 PEND, 64 to 127 MASK) of cluster `cl`: has no later one of this core
cycle changed it? -/
def rankOk (cl j rk : Nat) (s : State) : Bool := decide (Sparse.get 0 s.cyc.ranks (128 * cl + j) ≤ rk)

def putRank (cl j rk : Nat) (s : State) : State :=
  { s with cyc := { s.cyc with ranks := Sparse.set 0 s.cyc.ranks (128 * cl + j) rk } }

/-- The sources of cluster `cl` with PEND, as a mask. -/
def pendingSet (cl : Nat) (s : State) : Nat := ((List.range 64).map (fun i => b2n (pendOf cl i s) * 2 ^ i)).sum

/-- Source `i`, in service, becomes pending: the sources pending before it are noted (R330). -/
def notePending (cl i : Nat) (s : State) : State :=
  if actOf cl i s then { s with evBefore := Sparse.set 0 s.evBefore (64 * cl + i) (pendingSet cl s) } else s

/-- The stored PEND bit of source `i` is set by a writer of rank `rk`. -/
def setPend (cl i rk : Nat) (s : State) : State :=
  let s := if pendOf cl i s then s else notePending cl i s
  putRank cl i rk (wb64 (R.EVC_PENDSETL cl) (R.EVC_PENDSETH cl) i true s)

/-- An edge of source `i`, brought by a writer of rank `rk`: it sets PEND, or is merged and counted (R330). -/
def pendEdge (cl i rk : Nat) (s : State) : State :=
  if bitN (rd64 (R.EVC_PENDSETL cl) (R.EVC_PENDSETH cl) s) i then putRank cl i rk (addSat (R.EVC_MERGE cl) 0 16 1 s)
  else setPend cl i rk s

/-- Source `i` of cluster `cl` is asserted (R330). While the controller's clock is stopped (SLEEP, R460) an edge is kept
only by a latch. -/
def assertSource (cl i : Nat) (s : State) : State :=
  if isLevel i then s
  else if clockStopped s then (if hasLatch i then latchEdge cl i s else s)
  else pendEdge cl i hardwareRank s

/-- The level of source 20 or 21 rises where it was not up: its latch catches it while the clock is stopped (R329, R330). -/
def levelRises (cl i : Nat) (was : Bool) (s : State) : State :=
  if !was && levelOf cl i s && clockStopped s then latchEdge cl i s else s

/-- A source that a chapter raises in every cluster. -/
def assertAll (i : Nat) (s : State) : State := (List.range 16).foldl (fun s cl => assertSource cl i s) s

/-- The latches set PEND in the first cycle after the clock runs (R330); that of a level source sets its stored bit. -/
def releaseLatches (s : State) : State :=
  let s' := (List.range 16).foldl (fun s cl =>
    (bitList (Sparse.get 0 s.evLatch cl) 64).foldl (fun s i => pendEdge cl i hardwareRank s) s) s
  { s' with evLatch := [] }

/-! ### Contexts -/

def ctxInit (c : Nat) : Ctx := { state := if c = 7 then .trapidle else .stopped }

def ctxOf (x : Cell) (c : Nat) : Ctx := Sparse.get (ctxInit c) x.ctxs c

def putCtx (c : Nat) (k : Ctx) (x : Cell) : Cell := { x with ctxs := Sparse.set (ctxInit c) x.ctxs c k }

/-- Is the context one that lets its cell sleep (R334)? -/
def ctxIdle (k : Ctx) : Bool :=
  match k.state with
  | .stopped => true
  | .trapidle => true
  | .waiting => !k.tmo
  | _ => false

def cellIdle (x : Cell) : Bool := (List.range 8).all (fun c => ctxIdle (ctxOf x c))

/-- A cell put back, with the core cycle since which it has been idle kept up (R334). -/
def putCell (cl m : Nat) (x : Cell) (s : State) : State :=
  let since := if cellIdle x then (match x.idleSince with
    | some t => some t
    | none => some (coreCycle s)) else none
  { s with cells := Sparse.set {} s.cells (cl * 16 + m) { x with idleSince := since } }

/-- A change of one cell. -/
def onCell (cl m : Nat) (f : Cell → Cell) (s : State) : State := putCell cl m (f (cellOf cl m s)) s

/-- A change of one context. -/
def onCtx (cl m c : Nat) (f : Ctx → Ctx) (s : State) : State :=
  onCell cl m (fun x => putCtx c (f (ctxOf x c)) x) s

def theCtx (cl m c : Nat) (s : State) : Ctx := ctxOf (cellOf cl m s) c

/-! ### Priorities (R315, R316) -/

def splitOf (cl : Nat) (s : State) : Nat := min 8 (rf (R.EVC_CFG cl) 0 4 s)

/-- PRI of a source. -/
def priOf (cl i : Nat) (s : State) : Nat := rf (R.EVC_SRC cl i) 0 8 s

/-- prio of context `c` (R316). -/
def prioOf (cl m c : Nat) (s : State) : Nat :=
  match (theCtx cl m c s).svc with
  | some i => priOf cl i s
  | none =>
    if c < 4 then rf (R.EVC_CELL_BPRIL cl m) (8 * c) 8 s
    else if c < 7 then rf (R.EVC_CELL_BPRIH cl m) (8 * (c - 4)) 8 s else 0

/-- Rank of the group: context 7 above every group. -/
def groupOf (cl m c : Nat) (s : State) : Nat :=
  if c = 7 then 0 else 1 + prioOf cl m c s / 2 ^ splitOf cl s

/-- The scheduling key (group, sub-priority, context number) as one number. -/
def keyOf (cl m c : Nat) (s : State) : Nat :=
  (groupOf cl m c s * 256 + (if c = 7 then 0 else prioOf cl m c s % 2 ^ splitOf cl s)) * 8 + c

/-- The least of a list by a key. -/
def leastBy (f : Nat → Nat) : List Nat → Option Nat
  | [] => none
  | c :: r =>
    match leastBy f r with
    | none => some c
    | some d => if f c ≤ f d then some c else some d

def readyCtxs (cl m : Nat) (s : State) : List Nat :=
  (List.range 8).filter (fun c => (theCtx cl m c s).state = .ready)

/-! ### The scheduler (R317) -/

/-- A switch decision: an instruction begun that has not reached its commit is abandoned and counted (R302, R310). -/
def abandon (x : Cell) : Cell :=
  if x.fetch.held then { x with fetch := { x.fetch with held := false, abort := min 0xFFFF (x.fetch.abort + 1) } } else x

/-- Context `c` gets the cell; the switch of R318 is in progress until CONTEXT_SWITCH. The fetch buffer is discarded. -/
def giveCell (cl m c : Nat) (s : State) : State :=
  s |> onCtx cl m c (fun k => { k with state := .running })
    |> onCell cl m (fun x =>
      { x with running := some c, switching := true, fetch := { x.fetch with buf := [], alone := none } })

/-- The running context goes back to READY. -/
def yieldCell (cl m : Nat) (s : State) : State :=
  match (cellOf cl m s).running with
  | none => s
  | some r => s |> onCtx cl m r (fun k => { k with state := .ready })
                |> onCell cl m (fun x => abandon { x with running := none, switching := false })

/-- Run the READY context with the smallest key, if the cell is free. -/
def runBest (cl m : Nat) (s : State) : State :=
  match (cellOf cl m s).running with
  | some _ => s
  | none =>
    match leastBy (fun c => keyOf cl m c s) (readyCtxs cl m s) with
    | none => s
    | some c => giveCell cl m c s

/-- After a context becomes READY or a priority changes: preempt when some READY context's group is more urgent, or
run it when the cell is free. -/
def reschedule (cl m : Nat) (s : State) : State :=
  match (cellOf cl m s).running with
  | none => runBest cl m s
  | some r =>
    if (readyCtxs cl m s).any (fun c => decide (groupOf cl m c s < groupOf cl m r s)) then
      runBest cl m (yieldCell cl m s)
    else s

/-! ### Service (R319, R335) -/

/-- Service of the context's source ends. -/
def endService (cl m c : Nat) (s : State) : State :=
  match (theCtx cl m c s).svc with
  | none => s
  | some i =>
    let s := wb64 (R.EVC_ACTL cl) (R.EVC_ACTH cl) i false s
    let s := if isLevel i && !levelOf cl i s then addSat (R.EVC_MERGE cl) 16 16 1 s else s
    let s := if pendOf cl i s then { s with evAhead := Sparse.set 0 s.evAhead cl (setBitN (Sparse.get 0 s.evAhead cl) i) }
      else s
    onCtx cl m c (fun k => { k with svc := none }) s

/-! ### Writers' stages and latches (R355) -/

def ctxWriter (cl m c : Nat) : Nat := (cl * 16 + m) * 8 + c

def Writer.key : Sys2Proof.Writer → Nat
  | .ctx cl m c => ctxWriter cl.val m.val c.val
  | .dma cl k => 2048 + cl.val * 4 + k.val
  | .host r => 2112 + r.val
  | .loader => 2128

/-! ### Starting and stopping (R312, R313) -/

/-- MR loses its owner `c` (R312, R321). -/
def dropMr (c : Nat) (x : Cell) : Cell :=
  if x.owner = some c then { x with owner := none, live := false } else x

/-- The cell leaves the context: it runs no longer. -/
def unrun (c : Nat) (x : Cell) : Cell :=
  if x.running = some c then abandon { x with running := none, switching := false } else x

/-- The source delivered in this core cycle to a context, `k` as it stood, is offered again where the context is stopped in
it (R333). -/
def offerAgain (cl : Nat) (k : Ctx) (s : State) : State :=
  match k.svc with
  | some i => if k.given = coreCycle s then wb64 (R.EVC_PENDSETL cl) (R.EVC_PENDSETH cl) i true s else s
  | none => s

/-- Context `c` (0 to 6) is stopped (R313). The caller reschedules. -/
def stopCtx (cl m c : Nat) (s : State) : State :=
  let s := offerAgain cl (theCtx cl m c s) (endService cl m c s)
  onCell cl m (fun x =>
    let x := unrun c (dropMr c x)
    let x := { x with trapq := x.trapq.filter (fun t => t.c != c)
                      handledStopped := x.handledStopped || x.handling == some c }
    putCtx c { ctxOf x c with state := .stopped, due := none } x) s

/-- Context `c` (0 to 6) is started (R312) and enters READY. The caller reschedules. -/
def startCtx (cl m c : Nat) (s : State) : State :=
  let s := if (theCtx cl m c s).state = .stopped then s else stopCtx cl m c s
  let pc := rf (R.EVC_CELL_PC cl m c) 0 15 s
  let s := onCell cl m (fun x =>
    let x := dropMr c x
    let x := { x with valid := clrBitN x.valid c }
    putCtx c
      { ctxInit c with
        pc := pc, state := .ready } x) s
  { s with stages := Sparse.set none s.stages (ctxWriter cl m c) none
           latches := Sparse.set [] s.latches (ctxWriter cl m c) [] }

/-- The contexts in START of a cell are started (R312, R328, R437). -/
def startSet (cl m : Nat) (s : State) : State :=
  let mask := rf (R.EVC_CELL_CFG cl m) 8 7 s
  runBest cl m ((bitList mask 7).foldl (fun s c => startCtx cl m c s) s)

/-! ### Traps (R324 to R327) -/

/-- A fault inside context 7 stops the cell (R327). -/
def faultIn7 (cl m code : Nat) (s : State) : State :=
  let s := (List.range 7).foldl (fun s c => stopCtx cl m c s) s
  let s := onCell cl m (fun x =>
    let x := dropMr 7 (putCtx 7 { ctxOf x 7 with state := .stopped, due := none } x)
    { x with trapcode := BitVec.ofNat 16 (0x8000 + 7 * 256 + code), trapq := [], running := none, switching := false
             stopped := true, handling := none, handledStopped := false }) s
  s |> wb (R.EVC_CELL cl m) 31 true
    |> alarmBit (R.EVC_STAT cl) 0 53 { cluster := cl, unit := m }

/-- A queued trap is taken: the record, context 7's entry state, the switch to it (R324 steps 2 and 3, R314). -/
def takeTrap (cl m : Nat) (t : TrapRec) (s : State) : State :=
  let s := yieldCell cl m s
  let tvec := rf (R.EVC_CELL_CFG cl m) 16 15 s
  let s := onCell cl m (fun x =>
    let x := { x with trapcode := BitVec.ofNat 16 (0x8000 + t.c * 256 + t.code), trappc := BitVec.ofNat 16 t.pc
                      trapsl := BitVec.ofNat 16 t.slot, trapadr := BitVec.ofNat 16 t.adr, trapst := t.st
                      trapact := 0, handling := some t.c, handledAt := t.at_, handledStopped := false }
    putCtx 7 { ctxInit 7 with
      winbase := (ctxOf x 7).winbase
      ds := [BitVec.ofNat 16 t.code, BitVec.ofNat 16 t.c, BitVec.ofNat 16 t.pc], pc := tvec, state := .ready } x) s
  giveCell cl m 7
    (if t.told then s else alarmBit (R.EVC_STAT cl) 1 54 { cluster := cl, unit := m, ctx := t.c, code := t.code } s)

/-- Does the cell run in Rising mode (R281)? The spec gives the image no place for the choice (log entry 64). -/
def risingOf (cl m : Nat) (s : State) : Bool := s.img != 0 && Config.imageRise s.img (cl * 16 + m)

/-- ST of a context as a read shows it (R247): flags, CTX, RISE. -/
def stWord (cl m c : Nat) (s : State) : Half :=
  BitVec.ofNat 16 ((theCtx cl m c s).st.toNat % 32 + c * 256 + b2n (risingOf cl m s) * 2048)

/-- A trap queues in order of arrival; traps of one core cycle in increasing context number (R324). -/
def queueTrap (t : TrapRec) : List TrapRec → List TrapRec
  | [] => [t]
  | u :: r => if u.at_ = t.at_ ∧ t.c < u.c then t :: u :: r else u :: queueTrap t r

/-- The trap under handling, as its record stands. -/
def trapInHand (x : Cell) (h : Nat) : TrapRec :=
  { c := h, code := x.trapcode.toNat % 256, pc := x.trappc.toNat, slot := x.trapsl.toNat, adr := x.trapadr.toNat
    st := x.trapst, at_ := x.handledAt, told := true }

/-- Has a trap of a later context, arrived in this core cycle, been taken with its handler yet to issue? -/
def givesWay (c : Nat) (x : Cell) (s : State) : Option TrapRec :=
  match x.handling with
  | some h =>
    if c < h ∧ x.handledAt = coreCycle s ∧ x.running = some 7 ∧ x.switching = true ∧ x.handledStopped = false then
      some (trapInHand x h)
    else none
  | none => none

/-- A trap of context `c` with its code, saved PC and slot, and word address (R324, R327). -/
def raiseTrap (cl m c code pc slot adr : Nat) (s : State) : State :=
  if c = 7 then faultIn7 cl m code s
  else
    let t : TrapRec :=
      { c := c, code := code, pc := pc, slot := slot, adr := adr, st := stWord cl m c s, at_ := coreCycle s }
    let s := onCell cl m (fun x => unrun c (putCtx c { ctxOf x c with state := .trapped } x)) s
    if (theCtx cl m 7 s).state = .trapidle then takeTrap cl m t s
    else
      match givesWay c (cellOf cl m s) s with
      | some u => takeTrap cl m t (onCell cl m (fun x => { x with trapq := u :: x.trapq }) s)
      | none => runBest cl m (onCell cl m (fun x => { x with trapq := queueTrap t x.trapq }) s)

/-! ### Delivery (R332, R333) -/

/-- Entry `i` of EVC_TGTs: EN and CTX. -/
def tgtOf (cl i e : Nat) (s : State) : Nat := bitsN (rd64 (R.EVC_TGT_L cl i) (R.EVC_TGT_H cl i) s) (4 * e) 4

/-- Word `j` of the event sets of a context (R338): the spec gives the image no place for these words, so an image value is
free (log entry 64). -/
def setWordOf (cl m c j : Nat) (s : State) : Half :=
  Sparse.get (if s.img = 0 then 0 else Config.imageSet s.img (((cl * 16 + m) * 8 + c) * 32 + j)) (theCtx cl m c s).sets j

/-- The 64-bit event set `e` of a context. -/
def setOf (cl m c e : Nat) (s : State) : Nat :=
  ((List.range 4).map (fun i => (setWordOf cl m c (4 * e + i) s).toNat * 2 ^ (16 * i))).sum

/-- The window base of a context as BASE holds it, address bits [35:12] (R352, R381). -/
def winBase (cl m c : Nat) (s : State) : Nat :=
  (theCtx cl m c s).winbase.getD (if s.img = 0 then 0 else (Config.imageBase s.img ((cl * 16 + m) * 8 + c)).toNat)

/-- Does target entry `e` of source `i` name a context that waits for it, its cell's wakefulness apart? -/
def waitsFor (cl i e : Nat) (s : State) : Bool :=
  let t := tgtOf cl i e s
  let k := theCtx cl e (t % 8) s
  k.state == .waiting && decide (8 ≤ t) && t % 8 != 7 && bitN (setOf cl e (t % 8) k.wset s) i

/-- May cell `e` receive source `i` now: awake, or its wake bit set (R334)? -/
def mayWake (cl i e : Nat) (s : State) : Bool :=
  !(cellOf cl e s).asleep || bitN (rd64 (R.EVC_WAKE_L cl e) (R.EVC_WAKE_H cl e) s) i

/-- The entries in scan order: RR + 1, … RR + 16, mod 16. -/
def scanOrder (cl i : Nat) (s : State) : List Nat :=
  (List.range 16).map (fun j => (rf (R.EVC_SRC cl i) 10 4 s + 1 + j) % 16)

/-- Source `i` is no longer one pending before others. -/
def forgetPending (cl i : Nat) (s : State) : State :=
  { s with
    evAhead := Sparse.set 0 s.evAhead cl (clrBitN (Sparse.get 0 s.evAhead cl) i)
    evBefore := (s.evBefore.map (fun e => if e.1 / 64 = cl then (e.1, clrBitN e.2 i) else e)).filter (fun e => e.2 != 0) }

/-- Source `i` is claimed for service: ACT set, PEND cleared as R330 lays down. A level source stays pending while its
level is asserted. -/
def claimSource (cl i : Nat) (s : State) : State :=
  let s := forgetPending cl i
    (wb64 (R.EVC_ACTL cl) (R.EVC_ACTH cl) i true (wb64 (R.EVC_PENDSETL cl) (R.EVC_PENDSETH cl) i false s))
  if pendOf cl i s then notePending cl i s else s

/-- Source `i` is delivered to the context of entry `e` (R332). A sleeping cell wakes (R334). -/
def deliver (cl i e : Nat) (s : State) : State :=
  let c := tgtOf cl i e s % 8
  s |> claimSource cl i
    |> wf (R.EVC_SRC cl i) 10 4 e
    |> addSat (R.EVC_DELIV cl) 0 16 1
    |> onCtx cl e c (fun k => { k with state := .ready, svc := some i, given := coreCycle s, due := some (BitVec.ofNat 16 i) })
    |> onCell cl e (fun x => { x with asleep := false })
    |> reschedule cl e

/-- Does source `i` go before source `j`: by PRI, then source number; a source offered again before those of its PRI that
became pending later than it (R330, R332)? -/
def goesBefore (cl i j : Nat) (s : State) : Bool :=
  let p := priOf cl i s
  let q := priOf cl j s
  decide (p < q) || (p == q && (decide (i < j)
    || (bitN (Sparse.get 0 s.evAhead cl) i && !bitN (Sparse.get 0 s.evBefore (64 * cl + i)) j)))

/-- Source `i` put into an ordered list. -/
def putOffer (cl i : Nat) (s : State) : List Nat → List Nat
  | [] => [i]
  | j :: r => if goesBefore cl i j s then i :: j :: r else j :: putOffer cl i s r

/-- The sources with PEND and MASK set and ACT clear, most urgent first: those offered again are put among the others. -/
def offered (cl : Nat) (s : State) : List Nat :=
  let l := (List.range 64).filter (fun i => pendOf cl i s && maskOf cl i s && !actOf cl i s)
  let again := fun i => bitN (Sparse.get 0 s.evAhead cl) i
  let rest := (l.filter (fun i => !again i)).foldr (fun i r => putOffer cl i s r) []
  (l.filter again).foldr (fun i r => putOffer cl i s r) rest

/-- Entries that wait for source `i`, in the order of the scan (R332). -/
def candidates (cl i : Nat) (s : State) : List Nat := (scanOrder cl i s).filter (fun e => waitsFor cl i e s)

/-- The entry that source `i` is delivered to: the first whose cell is awake or may wake (R332, R334). -/
def targetOf (cl i : Nat) (s : State) : Option Nat := (candidates cl i s).find? (fun e => mayWake cl i e s)

/-- An entry passed over because its cell sleeps counts as a withheld delivery (R334). -/
def countWithheld (cl i : Nat) (s : State) : State :=
  addSat (R.EVC_DELIV cl) 16 16 ((candidates cl i s).takeWhile (fun e => !mayWake cl i e s)).length s

/-- The controller tries the offered sources in order; the first with an eligible target is delivered. -/
def tryDeliver (cl : Nat) (l : List Nat) (s : State) : State :=
  let skipped := l.takeWhile (fun i => (targetOf cl i s).isNone)
  let t := skipped.foldl (fun t i => countWithheld cl i t) s
  match l.drop skipped.length with
  | i :: _ =>
    match targetOf cl i s with
    | some e => deliver cl i e (countWithheld cl i t)
    | none => t
  | [] => t

end Sys2Proof.Machine
end

