-- ==== Sys2Proof/Machine/Segments.lean ====
section
/-! DEFINITION. Segment blocks: the encodings of R148 to R150, decoded and encoded, and requantisation (R162, R163). -/

namespace Sys2Proof.Machine

/-- What a directory entry gives (R149). -/
inductive SegForm
  | codes (l : List Nat)
  | copy
  | bad
  deriving DecidableEq, Repr

/-- The codes of a body read as one little-endian value of `w` bits a position. -/
def unpack (w n v : Nat) : List Nat := (List.range n).map (fun k => bitsN v (w * k) w)

/-- The value whose `w`-bit fields are the codes, first lowest. -/
def pack (w : Nat) : List Nat → Nat
  | [] => 0
  | c :: r => c % 2 ^ w + 2 ^ w * pack w r

/-- Run words from byte offset `o` until position 255 is complete: the codes and the words used; none where malformed. -/
def decodeRuns (blk : List Byte) (w : Nat) : (fuel o need used : Nat) → Option (List Nat × Nat)
  | 0, _, _, _ => none
  | n + 1, o, need, used =>
    let v := getLE blk o 2
    let len := bitsN v 8 8 + 1
    let code := bitsN v 0 3
    if blk.length < o + 2 ∨ bitsN v 3 5 ≠ 0 ∨ 2 ^ w ≤ code ∨ need < len then none
    else if len = need then some (List.replicate len code, used + 1)
    else
      match decodeRuns blk w n (o + 2) (need - len) (used + 1) with
      | some (l, u) => some (List.replicate len code ++ l, u)
      | none => none

/-- A body of `n` bytes at `8 × d`, if it lies in the record. -/
def bodyAt (blk : List Byte) (d n : Nat) : Option Nat :=
  if 8 * d + n ≤ blk.length then some (getLE blk (8 * d) n) else none

/-- Segment `i`, of width `w`, of the block whose bytes run from its first directory entry to the end of its record. -/
def decodeSeg (blk : List Byte) (i w : Nat) : SegForm :=
  if blk.length < 2 * i + 2 then .bad
  else
    let e := getLE blk (2 * i) 2
    let d := e / 8
    match e % 8 with
    | 0 => if d = 0 then .codes (List.replicate 256 0) else .bad
    | 1 => if d < 8 ∧ d < 2 ^ w then .codes (List.replicate 256 d) else .bad
    | 2 =>
      match decodeRuns blk w 256 (8 * d) 256 0 with
      | some (l, u) => if 8 * d + ceilDiv (2 * u) 8 * 8 ≤ blk.length then .codes l else .bad
      | none => .bad
    | 3 => if d = 0 then .copy else .bad
    | 4 =>
      match bodyAt blk d (32 * w) with
      | some v => .codes (unpack w 256 v)
      | none => .bad
    | 5 =>
      match bodyAt blk d 64 with
      | some v => if w = 3 then .codes ((unpack 2 256 v).map (fun x => [0, 2, 4, 7].getD x 0)) else .bad
      | none => .bad
    | _ => .bad

/-- Bytes of segment `i`'s body in the block, for a read that must know which words it touches: offset and length. -/
def bodySpan (blk : List Byte) (i w : Nat) : Nat × Nat :=
  let e := getLE blk (2 * i) 2
  match e % 8 with
  | 2 =>
    match decodeRuns blk w 256 (8 * (e / 8)) 256 0 with
    | some (_, u) => (8 * (e / 8), ceilDiv (2 * u) 8 * 8)
    | none => (8 * (e / 8), 8)
  | 4 => (8 * (e / 8), 32 * w)
  | 5 => (8 * (e / 8), 64)
  | _ => (0, 0)

/-! ### Encoding (R150) -/

/-- An encoded segment: MODE, the FILL value, the body. -/
structure Form where
  mode : Nat
  fill : Nat := 0
  body : List Byte := []
  deriving DecidableEq, Repr

/-- Adjacent equal codes merged: (length, code). -/
def runsOf : List Nat → List (Nat × Nat)
  | [] => []
  | c :: r =>
    match runsOf r with
    | (n, d) :: t => if c = d then (n + 1, d) :: t else (1, c) :: (n, d) :: t
    | [] => [(1, c)]

/-- Bytes padded with zero to a multiple of `n`. -/
def padTo (n : Nat) (l : List Byte) : List Byte := l ++ List.replicate (ceilDiv l.length n * n - l.length) 0

/-- The padded RUN body. -/
def runBody (codes : List Nat) : List Byte :=
  padTo 8 ((runsOf codes).flatMap (fun e => [BitVec.ofNat 8 e.2, BitVec.ofNat 8 (e.1 - 1)]))

/-- The first form that applies (R150); `copy` where a COPY is permitted and equal; `reduced` with RAWR in place of RAW
(R162). -/
def formOf (w : Nat) (reduced copy : Bool) (codes : List Nat) : Form :=
  if codes.all (· == 0) then { mode := 0 }
  else if codes.all (· == codes.headD 0) then { mode := 1, fill := codes.headD 0 }
  else if copy then { mode := 3 }
  else
    let rb := runBody codes
    if rb.length < (if reduced then 64 else 32 * w) then { mode := 2, body := rb }
    else if reduced then
      { mode := 5, body := leBytes 64 (pack 2 (codes.map (fun c => if c = 7 then 3 else c / 2))) }
    else { mode := 4, body := leBytes (32 * w) (pack w codes) }

/-- Requantisation (R163). -/
def requant (c : Nat) : Nat := [0, 2, 2, 4, 4, 4, 7, 7].getD c 0

/-- A segment under budget `b` (R162): its stored codes and its form. -/
def encodeSeg (w b : Nat) (copyOf : Option (List Nat)) (codes : List Nat) : List Nat × Form :=
  let f := formOf w false (copyOf == some codes) codes
  if w = 3 ∧ 8 * b < f.body.length then
    let r := codes.map requant
    (r, formOf w true (copyOf == some r) r)
  else (codes, f)

/-- The block of the forms: directory padded to 8 bytes, then the bodies in order. -/
def blockOf (forms : List Form) : List Byte :=
  let dir0 := ceilDiv (2 * forms.length) 8 * 8
  let rec dir : Nat → List Form → List Byte
    | _, [] => []
    | o, f :: r =>
      let d := if f.mode = 1 then f.fill else if f.body = [] then 0 else o / 8
      leBytes 2 (f.mode + 8 * d) ++ dir (o + f.body.length) r
  padTo 8 (dir dir0 forms) ++ forms.flatMap (fun f => f.body)

end Sys2Proof.Machine
end

