-- ==== Sys2Proof/Machine/Composer.lean ====
section
/-! DEFINITION. What a composer slice composes (R81 to R97): planes, the stream plane and its ring, sprites, and the taking
of a proof set (R99, R101). -/

namespace Sys2Proof.Machine

def sliceOf (cl : Nat) (s : State) : Slice := Sparse.get {} s.cmp.slices cl

def putSlice (cl : Nat) (x : Slice) (s : State) : State :=
  { s with cmp := { s.cmp with slices := Sparse.set {} s.cmp.slices cl x } }

def onSlice (cl : Nat) (f : Slice → Slice) (s : State) : State := putSlice cl (f (sliceOf cl s)) s

/-- CMP_CTL.EN (R81). -/
def sliceEn (cl : Nat) (s : State) : Bool := rb (R.CLC_CTL cl) 0 s

/-- Enabled, with a working lane (R109). -/
def sliceWorks (cl : Nat) (s : State) : Bool := sliceEn cl s && rf (R.CLC_LANE cl) 0 2 s != 0

/-! ### Columns (R82) -/

/-- A stripe of 8,192 codes; a list that ends early reads 0 beyond. -/
def fullStripe (l : List Nat) : List Nat := l ++ List.replicate (8192 - l.length) 0

/-- Combine rule of R82: source `s` over stripe code `d`. -/
def combine (rule s d : Nat) : Nat :=
  match rule with
  | 0 => if s ≠ 0 then s else d
  | 1 => max d s
  | 2 => s
  | _ => if s ≠ 0 then 0 else d

/-- One layer: `src` gives the source code of the local columns it covers. -/
def overlay (rule : Nat) (src : Nat → Option Nat) (stripe : List Nat) : List Nat :=
  (fullStripe stripe).mapIdx (fun x d => match src x with
    | some c => combine rule c d
    | none => d)

/-! ### Tile-map planes (R83 to R86) -/

/-- Address of a tile-store offset, taken modulo 2^25. -/
def tsAddr (off : Nat) : Nat := tileStoreBase + off % 2 ^ 25

/-- `n` bytes of the tile store from offset `off` up, each offset modulo 2^25 (R83), as a little-endian number. -/
def tsRead (off n : Nat) (s : State) : Nat := leNat ((List.range n).map (fun k => mb (tsAddr (off + k)) s))

/-- The words among `l` that a read of `n` tile-store bytes from offset `off` meets. -/
def tsMeets (l : List Nat) (off n : Nat) : List Nat :=
  l.filter (fun w => (List.range n).any (fun k => decide (w ≤ tsAddr (off + k) ∧ tsAddr (off + k) < w + 8)))

/-- The uncorrectable words that it meets. -/
def tsUes (off n : Nat) (s : State) : List Nat := tsMeets s.ue off n

/-- MAPW and MAPH of a plane. -/
def mapW (cl n : Nat) (s : State) : Nat := rf (R.CLC_PL_CTL cl n) 4 12 s + 1
def mapH (cl n : Nat) (s : State) : Nat := rf (R.CLC_PL_CTL cl n) 16 12 s + 1

/-- y of R85 for image line `i`. -/
def planeY (cl n : Nat) (i : Int) (s : State) : Nat :=
  (imod (i - rdLine (R.CLC_PL_YORGL cl n) (R.CLC_PL_YORGH cl n) s) (64 * mapH cl n s)).toNat

/-- XSCROLL. -/
def planeX (cl n : Nat) (s : State) : Int := (rd (R.CLC_PL_XSCR cl n) s).toInt

/-- Offset of the map entry that the slice's tile column `j` (from its leftmost) uses in map row `my` (R84, R85). -/
def entryOff (cl n my j : Nat) (s : State) : Nat :=
  (rd (R.CLC_PL_MAP cl n) s).toNat
    + 4 * (my * mapW cl n s + (imod (fdiv (((cl * 8192 : Nat) : Int) + planeX cl n s) 64 + j) (mapW cl n s)).toNat)

/-- The map row segment of map row `my`: 129 entries (R86). -/
def fetchSeg (cl n my : Nat) (s : State) : MapSeg :=
  { row := my, xscr := planeX cl n s
    entries := (List.range 129).map (fun j =>
      let o := entryOff cl n my j s
      if tsUes o 4 s = [] then some (tsRead o 4 s) else none) }

/-- An uncorrectable tile-store word has been read: counted (R421), TSUE (R386, R470). -/
def tileUe (s : State) : State := tileAlarm 0x38 {} (addSat R.FAB_TSECC 16 16 1 s)

/-- A corrected read of the tile store is counted (R386, R421). -/
def tileCe (s : State) : State := addSat R.FAB_TSECC 0 16 1 s

/-- Tile-store words were read, `ues` uncorrectable and `ces` corrected ones among them. -/
def tileReads (ues ces : Nat) (s : State) : State :=
  (List.range ces).foldl (fun s _ => tileCe s) ((List.range ues).foldl (fun s _ => tileUe s) s)

/-- The segment held for plane `n`. -/
def segOf (cl n : Nat) (s : State) : Option MapSeg := Sparse.get none (sliceOf cl s).segs n

def putSeg (cl n : Nat) (m : Option MapSeg) (s : State) : State :=
  onSlice cl (fun x => { x with segs := Sparse.set none x.segs n m }) s

/-- The plane's map row segment as line `i` needs it: fetched where the map row or XSCROLL differs from the line composed
before (R86), dropped while the plane is disabled. -/
def refreshSeg (cl n : Nat) (i : Int) (s : State) : State :=
  if rb (R.CLC_PL_CTL cl n) 0 s then
    let my := planeY cl n i s / 64
    let held := match segOf cl n s with
      | some m => decide (m.row = my ∧ m.xscr = planeX cl n s)
      | none => false
    if held then s
    else
      let met := fun (l : List Nat) =>
        (l.filter (fun w => (List.range 129).any (fun j => tsMeets [w] (entryOff cl n my j s) 4 != []))).length
      putSeg cl n (some (fetchSeg cl n my s)) (tileReads (met s.ue) (met s.ce) s)
  else putSeg cl n none s

/-- Tile column (from the slice's leftmost) and place in its tile of local column `x` (R85). -/
def columnAt (cl n x : Nat) (s : State) : Nat × Nat :=
  let c0 : Int := ((cl * 8192 : Nat) : Int) + planeX cl n s
  ((fdiv (c0 + x) 64 - fdiv c0 64).toNat, (imod (c0 + x) 64).toNat)

/-- The tile row that map entry `e` names on line y: its offset and its length (R83 to R85). -/
def rowOf (e y : Nat) (s : State) : Nat × Nat :=
  let ty := if bitN e 17 then 63 - y % 64 else y % 64
  let t := (rd R.CMP_DICT s).toNat + 512 * bitsN e 0 16
  if bitN e 18 then (t + 8 * ty, 8) else (t + 24 * ty, 24)

/-- What plane `n` reads of its tiles on a line: the entry of each of the 129 tile columns, with its row read once (R86). -/
def planeRows (cl n : Nat) (i : Int) (s : State) : List (Option (Nat × Nat × Nat)) :=
  match segOf cl n s with
  | some m => m.entries.map (fun e => e.map (fun e =>
      let r := rowOf e (planeY cl n i s) s
      (e, r.1, if bitN e 22 then 0 else tsRead r.1 r.2 s)))
  | none => []

/-- Source code of local column place `px` of a tile row; none where an uncorrectable word feeds it. -/
def tileCode (e off row px : Nat) (s : State) : Option Nat :=
  if bitN e 22 then some 0
  else
    let tx := if bitN e 16 then 63 - px else px
    if bitN e 18 then
      if s.ue ≠ [] ∧ tsUes (off + tx / 8) 1 s ≠ [] then none
      else some (if bitN row tx then bitsN e 19 3 else 0)
    else if s.ue ≠ [] ∧ tsUes (off + 3 * tx / 8) (if 5 < 3 * tx % 8 then 2 else 1) s ≠ [] then none
    else some (bitsN row (3 * tx) 3)

/-- Source code of plane `n` of cluster `cl` at local column `x`; none where an uncorrectable word feeds it (R470). -/
def planeCode (cl n : Nat) (rows : List (Option (Nat × Nat × Nat))) (x : Nat) (s : State) : Option Nat :=
  let (j, px) := columnAt cl n x s
  match rows.getD j none with
  | some (e, off, row) => tileCode e off row px s
  | none => none

/-- Plane `n` laid over the stripe; the columns that an uncorrectable word feeds are collected (R470: they compose code 0). -/
def layPlane (cl n : Nat) (i : Int) (s : State) (acc : List Nat × List Nat) : List Nat × List Nat :=
  if rb (R.CLC_PL_CTL cl n) 0 s then
    let rows := planeRows cl n i s
    let src := fun x => planeCode cl n rows x s
    (overlay (rf (R.CLC_PL_CTL cl n) 1 2 s) (fun x => some ((src x).getD 0)) acc.1,
     if s.ue = [] then acc.2 else acc.2 ++ (List.range 8192).filter (fun x => (src x).isNone))
  else acc

/-- The words among `l` that the rows of plane `n` meet on line `i`, one per row that meets it. -/
def rowMeets (cl n : Nat) (i : Int) (l : List Nat) (s : State) : List Nat :=
  if l = [] ∨ rb (R.CLC_PL_CTL cl n) 0 s = false then []
  else
    let last := (columnAt cl n 8191 s).1
    ((planeRows cl n i s).take (last + 1)).flatMap (fun r => match r with
      | some (e, off, _) => if bitN e 22 then [] else tsMeets l off (rowOf e 0 s).2
      | none => [])

/-! ### Stream plane (R87 to R91) -/

/-- Ring base, size, write offset in bytes. -/
def strBase (s : State) : Nat := (rd R.CMP_STR_BASE s).toNat
def strSize (s : State) : Nat := (rd R.CMP_STR_SIZE s).toNat
def strWp (s : State) : Nat := (rd R.CMP_STR_WP s).toNat

/-- Offset in the ring. -/
def strWrap (o : Nat) (s : State) : Nat := if strSize s = 0 then 0 else o % strSize s

/-- Byte address of ring offset `o`. -/
def strAddr (o : Nat) (s : State) : Nat := tsAddr (strBase s + strWrap o s)

/-- `n` bytes of the ring from offset `o`. -/
def readRing (o n : Nat) (s : State) : List Byte := (List.range n).map (fun k => mb (strAddr (o + k) s) s)

/-- How far the read offset lies behind the write offset. -/
def strBehind (rp : Nat) (s : State) : Nat := strWrap (strWp s + strSize s - rp) s

/-- Is the record at `rp` malformed, its segment blocks apart? `full` includes the OFF entries (R90, R91). -/
def recBad (full : Bool) (rp : Nat) (s : State) : Bool :=
  let h := readRing rp 40 s
  let len := getLE h 0 3
  getLE h 3 1 != 0xC5 || decide (len < 5) || len % 8 != 0 || decide (strSize s < 8 * len) ||
    decide (strBehind rp s < 8 * len) ||
    (full && (List.range 16).any (fun k =>
      let o := getLE h (8 + 2 * k) 2
      o != 0xFFFF && (decide (o < 5) || decide (len ≤ o))))

/-- The words among `l` that a read of `n` ring bytes from offset `o` meets. -/
def ringMeets (l : List Nat) (o n : Nat) (s : State) : List Nat :=
  l.filter (fun w => (List.range n).any (fun k => decide (w ≤ strAddr (o + k) s ∧ strAddr (o + k) s < w + 8)))

/-- The segments of the block at offset `b` of the ring, as a record gives them to a slice, that an uncorrectable word feeds:
by the directory entry or by the body. -/
def badSegs (b : Nat) (blk : List Byte) (s : State) : List Nat :=
  if s.ue = [] then []
  else (List.range 32).filter (fun j =>
    let (o, n) := bodySpan blk j 3
    ringMeets s.ue (b + 2 * j) 2 s != [] || ringMeets s.ue (b + o) n s != [])

/-- The plane S a record gives cluster `cl`, with the segments an uncorrectable word feeds, which compose code 0 (R470):
none where its block is malformed. -/
def decodeRec (cl rp : Nat) (prev : List Nat) (s : State) : Option (List Nat × List Nat) :=
  let h := readRing rp 40 s
  let len := getLE h 0 3
  let off := getLE h (8 + 2 * cl) 2
  if off = 0xFFFF then some ([], [])
  else
    let blk := (readRing rp (8 * len) s).drop (8 * off)
    let p := fullStripe prev
    let bad := badSegs (rp + 8 * off) blk s
    ((List.range 32).foldr (fun j acc =>
      match acc, (if bad.contains j then .codes (List.replicate 256 0) else decodeSeg blk j 3) with
      | none, _ => none
      | some _, .bad => none
      | some l, .copy => some ((p.drop (256 * j)).take 256 ++ l)
      | some l, .codes c => some (c ++ l)) (some [])).map (fun l => (l, bad))

/-- How many of the words `l` slice `cl` meets in the record at `rp`: in its header, and in the segment block it decodes. -/
def recMeets (cl rp : Nat) (decodes : Bool) (l : List Nat) (s : State) : Nat :=
  if l = [] then 0
  else
    let h := readRing rp 40 s
    let off := getLE h (8 + 2 * cl) 2
    let blk := (readRing rp (8 * getLE h 0 3) s).drop (8 * off)
    (l.filter (fun w => ringMeets [w] rp 40 s != [] || (decodes && off != 0xFFFF &&
      (ringMeets [w] (rp + 8 * off) 64 s != [] || (List.range 32).any (fun j =>
        let (o, n) := bodySpan blk j 3
        ringMeets [w] (rp + 8 * off + o) n s != []))))).length

/-- How the walk of R89 ends. -/
inductive StreamTake
  | miss
  | error
  | record (codes bad : List Nat)
  deriving DecidableEq, Repr

/-- What a walk of the ring leaves: how it ends, the read offset, records skipped, uncorrectable and corrected words read. -/
structure Walk where
  take : StreamTake := .miss
  rp : Nat
  skips : Nat := 0
  ues : Nat := 0
  ces : Nat := 0
  deriving DecidableEq, Repr

/-- The walk of R89 (S enabled) or R91 (S disabled) from `rp`. A record whose header holds an uncorrectable word feeds every
column of the line that takes it (R470; what its fields say stands as read: log entry 110). -/
def streamWalk (cl : Nat) (en : Bool) (i : Int) (prev : List Nat) (s : State) : (fuel : Nat) → Walk → Walk
  | 0, k => k
  | n + 1, k =>
    if strBehind k.rp s = 0 then k
    else
      let h := readRing k.rp 40 s
      let d := wrapS 32 ((getLE h 4 4 : Int) - i)
      let decodes := en && decide (d = 0)
      let k := { k with ues := k.ues + recMeets cl k.rp decodes s.ue s, ces := k.ces + recMeets cl k.rp decodes s.ce s }
      if recBad en k.rp s then { k with take := .error }
      else
        let next := strWrap (k.rp + 8 * getLE h 0 3) s
        if en then
          if d < 0 then streamWalk cl en i prev s n { k with rp := next, skips := k.skips + 1 }
          else if d = 0 then
            match decodeRec cl k.rp prev s with
            | some (c, bad) =>
              { k with
                rp := next
                take := .record c (if ringMeets s.ue k.rp 40 s = [] then bad else List.range 32) }
            | none => { k with take := .error }
          else k
        else if d ≤ 0 then streamWalk cl en i prev s n { k with rp := next }
        else k

/-- The S `c` taken for line `i`; the S of lines whose deadline has passed is no longer kept (R89). -/
def keepS (i : Int) (c bad : List Nat) (s : State) (x : Slice) : Slice :=
  { x with sPrev := c, kept := (x.kept.filter (fun e => decide (s.pos.hwm < e.line))) ++ [{ line := i, codes := c, bad := bad }] }

/-- STREAM_SOURCE_TAKE (R89 to R91): plane S of line `i` in slice `cl`, first begun now. -/
def takeStream (cl : Nat) (i : Int) (s : State) : State :=
  let x := sliceOf cl s
  let en := rb (R.CLC_PL_CTL cl 4) 0 s
  let repeated := if en && rb R.CMP_CFG 12 s then x.sPrev else []
  if x.strErr then putSlice cl (keepS i repeated [] s x) s
  else
    let k := streamWalk cl en i x.sPrev s (strSize s / 64 + 1) { rp := x.rp }
    let s := tileReads k.ues k.ces (addSat (R.CLC_STRCNT cl) 0 16 k.skips s)
    let x := { x with rp := k.rp }
    match k.take with
    | .record c bad => putSlice cl (keepS i c bad s x) s
    | .error =>
      alarmBit (R.CLC_ASTAT cl) 2 10 { line := i, cluster := cl }
        (putSlice cl (keepS i repeated [] s { x with strErr := true }) s)
    | .miss =>
      let s := putSlice cl (keepS i repeated [] s x) s
      if en then alarmBit (R.CLC_ASTAT cl) 1 9 { line := i, cluster := cl } (addSat (R.CLC_STRCNT cl) 16 16 1 s) else s

/-- The S kept for line `i` by the slice. -/
def streamOf (cl : Nat) (i : Int) (s : State) : KeptS :=
  ((sliceOf cl s).kept.reverse.find? (fun e => e.line == i)).getD { line := i }

/-! ### Sprites (R92 to R97) -/

/-- A sprite descriptor (R92). -/
structure Sprite where
  y0 : Nat
  h : Nat
  x0 : Nat
  w : Nat
  bmp : Nat
  fmt : Nat
  rule : Nat
  ink : Nat
  pri : Nat
  stride : Nat
  sx : Nat
  deriving DecidableEq, Repr

def spriteWord (cl o : Nat) (s : State) : Nat := readN (bankWord cl 1 (o % 131072)) 2 s

/-- Descriptor at word offset `o` of bank 1; W = 8,192 for a field of 0. -/
def spriteAt (cl o : Nat) (s : State) : Sprite :=
  let w := fun k => spriteWord cl (o + k) s
  { y0 := w 0, h := w 1, x0 := bitsN (w 2) 0 13, w := (if bitsN (w 3) 0 13 = 0 then 8192 else bitsN (w 3) 0 13)
    bmp := w 4 + 65536 * bitsN (w 5) 0 1, fmt := bitsN (w 5) 1 2, rule := bitsN (w 5) 3 2, ink := bitsN (w 5) 5 3
    pri := bitsN (w 5) 8 8, stride := w 6, sx := bitsN (w 7) 0 13 }

/-- Descriptors in the list (R92). -/
def spriteCount (cl : Nat) (s : State) : Nat := min 4096 (rf (R.CLC_SPR_LEN cl) 0 13 s)

/-- Does the descriptor meet an uncorrectable word (R348)? -/
def spriteUe (cl o : Nat) (s : State) : Bool := ueIn (bankWord cl 1 (o % 131072)) 16 s

/-- Sprite-space line (R93). -/
def spriteLine (cl : Nat) (i : Int) (s : State) : Int := i - rdLine (R.CLC_SPR_YORGL cl) (R.CLC_SPR_YORGH cl) s

/-- Sprites inserted in draw order: rising PRI, then list position (R94). -/
def insertPri (x : Sprite) : List Sprite → List Sprite
  | [] => [x]
  | y :: r => if x.pri ≤ y.pri then x :: y :: r else y :: insertPri x r

/-- The active sprites of line `i` in draw order. -/
def activeSprites (cl : Nat) (i : Int) (s : State) : List Sprite :=
  let ys := spriteLine cl i s
  let base := (rd (R.CLC_SPR_BASE cl) s).toNat
  ((List.range (spriteCount cl s)).filterMap (fun k =>
    let d := spriteAt cl (base + 8 * k) s
    if d.h ≠ 0 ∧ d.fmt ≠ 3 ∧ (d.y0 : Int) ≤ ys ∧ ys ≤ d.y0 + d.h - 1 ∧ spriteUe cl (base + 8 * k) s = false
    then some d else none)).foldr insertPri []

/-- Cost of one drawn sprite: 2 + its aligned 64-column chunks (R97). -/
def spriteCost (d : Sprite) : Nat := 2 + (min (d.x0 + d.w - 1) 8191 / 64 - d.x0 / 64 + 1)

/-- Sprite phase cost C (R97). -/
def phaseCost (cl : Nat) (drawn : List Sprite) (s : State) : Nat :=
  16 + ceilDiv (rf (R.CLC_SPR_LEN cl) 0 13 s |> min 4096) 8 + (drawn.map spriteCost).sum

/-- Omission from the start of the draw order until both limits hold (R97). -/
def omitSprites (cl : Nat) (s : State) : List Sprite → List Sprite
  | [] => []
  | d :: r =>
    if 256 < (d :: r).length ∨ rf R.CMP_CFG 0 12 s < phaseCost cl (d :: r) s then omitSprites cl s r else d :: r

/-- Source code of a sprite's bitmap column `u`, row `r`; 0 where its word is uncorrectable (R348). -/
def spriteCode (cl : Nat) (d : Sprite) (r u : Nat) (s : State) : Nat :=
  let per := match d.fmt with
    | 0 => 16
    | 1 => 8
    | _ => 4
  let o := (d.bmp + r * d.stride + u / per) % 131072
  if ueIn (bankWord cl 1 o) 2 s then 0
  else
    let w := spriteWord cl o s
    match d.fmt with
    | 0 => if bitN w (u % 16) then d.ink else 0
    | 1 => rf (R.CLC_PAL cl d.ink) (4 * bitsN w (2 * (u % 8)) 2) 3 s
    | _ => bitsN w (4 * (u % 4)) 3

/-- A sprite drawn over the stripe. -/
def drawSprite (cl : Nat) (i : Int) (s : State) (d : Sprite) (stripe : List Nat) : List Nat :=
  let r := (spriteLine cl i s - d.y0).toNat
  overlay d.rule (fun x =>
    if d.x0 ≤ x ∧ x ≤ min (d.x0 + d.w - 1) 8191 then some (spriteCode cl d r (x - d.x0 + d.sx) s) else none) stripe

/-- The words among `l` that the sprites of the line read in bank 1. -/
def spriteReads (cl : Nat) (i : Int) (drawn : List Sprite) (l : List Nat) (s : State) : List Nat :=
  let base := (rd (R.CLC_SPR_BASE cl) s).toNat
  l.filter (fun w =>
    (List.range (spriteCount cl s)).any (fun k => bankWord cl 1 ((base + 8 * k) % 131072) / 8 * 8 == w
      || bankWord cl 1 ((base + 8 * k) % 131072) / 8 * 8 + 8 == w)
    || drawn.any (fun d =>
      let per := match d.fmt with
        | 0 => 16
        | 1 => 8
        | _ => 4
      let r := (spriteLine cl i s - d.y0).toNat
      (List.range ((min (d.x0 + d.w - 1) 8191 - d.x0 + d.sx) / per + 1)).any (fun k =>
        decide (d.sx / per ≤ k) && bankWord cl 1 ((d.bmp + r * d.stride + k) % 131072) / 8 * 8 == w)))

/-- A pantry read met the uncorrectable word at `w` (R348): PAN_STAT.UE, its address, its count, its alarm. -/
def pantryUe (cl w : Nat) (s : State) : State :=
  s |> wr (R.PAN_UEADDR cl) (BitVec.ofNat 32 (w % 0x100000 / 8 * 8))
    |> addSat (R.PAN_ECCCNT cl) 16 16 1
    |> alarmBit (R.PAN_STAT cl) 1 55 { cluster := cl, addr := w }

/-- A corrected read of the pantry: counted, CE (R348). -/
def pantryCe (cl : Nat) (s : State) : State := wb (R.PAN_STAT cl) 0 true (addSat (R.PAN_ECCCNT cl) 0 16 1 s)

/-! ### A line (R81, R95, R97) -/

/-- The stripe of line `i` in slice `cl` from the drawn sprites; the columns that an uncorrectable tile-store word feeds
compose code 0 (R470). -/
def composeLine (cl : Nat) (i : Int) (drawn : List Sprite) (s : State) : List Nat :=
  let (l, bad) := [0, 1, 2, 3].foldl (fun acc n => layPlane cl n i s acc) ([], [])
  let (l, bad) := if rb (R.CLC_PL_CTL cl 4) 0 s then
      let k := streamOf cl i s
      ((fullStripe l).zipWith (fun d v => combine (rf (R.CLC_PL_CTL cl 4) 1 2 s) v d) (fullStripe k.codes),
       bad ++ k.bad.flatMap (fun j => (List.range 256).map (fun x => 256 * j + x)))
    else (l, bad)
  let l := drawn.foldl (fun l d => drawSprite cl i s d l) l
  if bad = [] then l else l.mapIdx (fun x d => if bad.contains x then 0 else d)

/-- The slice composes line `i`: its map row segments, phase registers, OVERRUN (R97), uncorrectable words of the pantry
(R348) and the tile store (R470); the codes come to stand among the composed lines. Descriptors, bitmaps and tile rows are
read as they stand when the line is complete (R95; log entry 32). -/
def composeNow (cl : Nat) (i : Int) (s : State) : State :=
  let s := [0, 1, 2, 3].foldl (fun s n => refreshSeg cl n i s) s
  let act := activeSprites cl i s
  let drawn := omitSprites cl s act
  let omitted := act.length - drawn.length
  let pan := fun l => if l = [] then [] else spriteReads cl i drawn l s
  let (ues, ces) := (pan s.ue, pan s.ce)
  let met := fun (l : List Nat) => ([0, 1, 2, 3].flatMap (fun n => rowMeets cl n i l s)).length
  let (tues, tces) := (met s.ue, met s.ce)
  let l := composeLine cl i drawn s
  let s := wr (R.CLC_SPRSTAT cl) (BitVec.ofNat 32 (phaseCost cl drawn s % 4096 + drawn.length * 65536)) s
  let s := if omitted = 0 then s else
    alarmBit (R.CLC_ASTAT cl) 0 8 { line := i, cluster := cl } (addSat (R.CLC_OMIT cl) 0 16 omitted s)
  let s := ues.foldl (fun s w => pantryUe cl w s) s
  let s := tileReads tues tces (ces.foldl (fun s _ => pantryCe cl s) s)
  { s with cmp := { s.cmp with
    composed := s.cmp.composed.filter (fun e => !(e.1 == cl && e.2.1 == i)) ++ [(cl, i, l)] } }

/-! ### Proof sets (R99, R101) -/

/-- The PS registers of a cluster (R111), by fabric address. -/
def psAddrs (cl : Nat) : List Nat :=
  (rowsCL.filter (fun r => r.ps)).flatMap (fun r =>
    (List.range (max 1 r.c1)).map (fun k => R.cluster cl + r.off + r.s1 * k))

/-- The proof-bank copy of the PS register at `a`. -/
def proofOf (a : Nat) (s : State) : Word := Sparse.get (regReset a) s.proof a

def putProof (a : Nat) (v : Word) (s : State) : State := { s with proof := Sparse.set (regReset a) s.proof a v }

/-- The proof bank becomes the active bank; the new proof bank is a copy of it. The next line fetches its map row segments
anew (log entry 111). -/
def activateProof (cl : Nat) (s : State) : State :=
  onSlice cl (fun x => { x with segs := [] }) ((psAddrs cl).foldl (fun s a => wr a (proofOf a s) s) s)

/-- Is the commit a proof-set commit that has arrived in `cl` and waits there? -/
def PendCommit.waitsIn (cl : Nat) (p : PendCommit) : Bool := !p.nozzle && bitN p.mask cl && !bitN p.flying cl

/-- Line of the proof-set commit pending in the cluster. -/
def proofPend (cl : Nat) (s : State) : Option Int := (s.cmp.pend.find? (fun p => p.waitsIn cl)).map (fun p => p.line)

/-- Status register of a commit issuer (R100, R128). -/
def commitStat (nozzle : Bool) (issuer : Nat) : Nat :=
  if nozzle then (if issuer < 16 then R.CLN_CMTSTAT issuer else R.NZL_CMTSTAT)
  else (if issuer < 16 then R.CLC_CMTSTAT issuer else R.CMP_CMTSTAT)

/-- RESULT reported to the issuer with its event source (R100, R128: 3 proof-set, 4 nozzle-map). -/
def reportCommit (nozzle : Bool) (issuer result : Nat) (s : State) : State :=
  if issuer < 17 then
    let s := wf (commitStat nozzle issuer) 0 3 result s
    if issuer < 16 then assertSource issuer (if nozzle then 4 else 3) s else s
  else s

/-- Clusters `mask` have taken the commits that satisfy `p`; a commit that all have taken is TAKEN (R100). -/
def takeCommits (p : PendCommit → Bool) (mask : Nat) (s : State) : State :=
  let upd := s.cmp.pend.map (fun c => if p c then { c with mask := c.mask - Nat.land c.mask mask } else c)
  let done := upd.filter (fun c => c.mask == 0)
  let s := { s with cmp := { s.cmp with pend := upd.filter (fun c => c.mask != 0) } }
  done.foldl (fun s c => if c.reports ∧ c.issuer < 17 then wf (commitStat c.nozzle c.issuer) 0 3 2 s else s) s

/-- PROOF_SET_TAKE (R101) at the start of composing line `i`. -/
def takeProof (cl : Nat) (i : Int) (s : State) : State :=
  match proofPend cl s with
  | some l =>
    if l ≤ i then
      s |> activateProof cl |> takeCommits (fun p => p.waitsIn cl) (2 ^ cl) |> assertSource cl 2
    else s
  | none => s

/-! ### Lines that fall due (R26) -/

/-- Does the image line fall due in some span? -/
def isDue (i : Int) (s : State) : Bool := s.due.any (fun e => decide (e.1 ≤ i ∧ i ≤ e.2))

/-- The least due line above `a` (none: the least of all). -/
def nextDue (a : Option Int) (s : State) : Option Int :=
  s.due.foldl (fun best e =>
    let c := match a with
      | some x => max e.1 (x + 1)
      | none => e.1
    if e.2 < c then best
    else match best with
      | some b => some (min b c)
      | none => some c) none

/-- From PROOF onward (R42). -/
def Mode.fromProof (m : Mode) : Bool := m != .cold && m != .load

/-- Do the line units run (R460, R462)? -/
def unitsRun (s : State) : Bool := s.mode.fromProof && s.mode != .sleep && s.mode != .safe && !s.waking

/-- Line `i` begins in the slice: its stream source is taken where it is begun for the first time (R89). -/
def startLine (cl : Nat) (i : Int) (s : State) : State :=
  let x := sliceOf cl s
  let fresh := match x.top with
    | some t => decide (t < i)
    | none => true
  let s := if fresh then takeStream cl i s else s
  onSlice cl (fun y => { y with
    cur := some i, last := some i, beganAt := coreCycle s, before := (x.rp, x.strErr, x.sPrev)
    mis := 0, third := false, redo := false
    top := some (match x.top with
      | some t => max t i
      | none => i) }) s

/-- A slice that is free begins its next line, if one has fallen due (R26, R102). -/
def beginNext (cl : Nat) (s : State) : State :=
  let x := sliceOf cl s
  if unitsRun s && sliceWorks cl s && x.cur.isNone && !x.testing then
    match nextDue x.last s with
    | none => s
    | some i => startLine cl i (takeProof cl i s)
  else s

/-- Every slice that is free begins its next line (R26). -/
def beginAll (s : State) : State := (List.range 16).foldl (fun s cl => beginNext cl s) s

end Sys2Proof.Machine
end

