-- ==== Sys2Proof/Machine/PosBase.lean ====
section
/-! DEFINITION. What other units read of the position unit: p, the driving input, velocity, interpolation, the row
groups' offsets and placements (R21, R52, R56, R66, R68, R69). -/

namespace Sys2Proof.Machine

/-- The web position p (R21): that of the decoder in use. -/
def pOf (s : State) : Int := if s.pos.use = 0 then s.pos.d0.p else s.pos.d1.p

/-- The decoder in use. -/
def useDec (s : State) : Dec := if s.pos.use = 0 then s.pos.d0 else s.pos.d1

/-- The quadrature input that drives p: PRI, or SEC after a failover (R45, R52). -/
def driveInput (s : State) : Nat := if s.pos.onSec then rf R.POS_SRC 2 2 s else rf R.POS_SRC 0 2 s

/-- Net ticks × DEN and elapsed 250 ps units over the window (R56); none with fewer than two counts or at a stop, where v
is 0. -/
def velocity (s : State) : Option (Int × Int) :=
  if rb R.POS_STAT 6 s then none
  else
    match s.pos.win.head?, s.pos.win.getLast? with
    | some (t1, x1), some (t0, x0) => if t0 < t1 then some (x1 - x0, ((t1 - t0 : Nat) : Int)) else none
    | _, _ => none

/-- num ÷ den rounded to the nearest whole number; an exact tie, which the spec leaves open, goes up or down as the free
value says. -/
def roundFree (num den : Int) (s : State) : Int :=
  let q := fdiv (2 * num + den) (2 * den)
  if imod (2 * num + den) (2 * den) = 0 ∧ Config.freeBool s.fresh = false then q - 1 else q

/-- p at time `t`, interpolated from the last count with v, to the nearest tick (R66). -/
def pAt (t : Nat) (s : State) : Int :=
  match s.pos.win.head?, velocity s with
  | some (t0, x0), some (n, d) =>
    let den : Int := (rd (R.POS_ENC_DEN (driveInput s)) s).toNat
    if den = 0 then pOf s else roundFree (x0 * d + n * ((t : Int) - t0)) (d * den) s
  | _, _ => pOf s

/-! ### Indexed hidden state -/

def rgOf (g : Nat) (s : State) : Rg := Sparse.get {} s.pos.rg g
def putRg (g : Nat) (x : Rg) (s : State) : State := { s with pos := { s.pos with rg := Sparse.set {} s.pos.rg g x } }
def evOf (e : Nat) (s : State) : EvIn := Sparse.get {} s.pos.ev e
def putEv (e : Nat) (x : EvIn) (s : State) : State := { s with pos := { s.pos with ev := Sparse.set {} s.pos.ev e x } }
def regOf (k : Nat) (s : State) : RegCh := Sparse.get {} s.pos.reg k
def putReg (k : Nat) (x : RegCh) (s : State) : State := { s with pos := { s.pos with reg := Sparse.set {} s.pos.reg k x } }
def ssiOf (n : Nat) (s : State) : Ssi := Sparse.get {} s.pos.ssi n
def putSsi (n : Nat) (x : Ssi) (s : State) : State := { s with pos := { s.pos with ssi := Sparse.set {} s.pos.ssi n x } }

/-- A 48-bit signed value held in a couple of registers. -/
def rd48 (aL aH : Nat) (s : State) : Int := sext 48 ((rd aL s).toNat + 2 ^ 32 * rf aH 0 16 s)
def wr48 (aL aH : Nat) (i : Int) (s : State) : State :=
  wf aH 0 16 (low 48 i / 2 ^ 32) (wr aL (BitVec.ofNat 32 (low 48 i)) s)

def cmpValue (j : Nat) (s : State) : Int := rd48 (R.POS_CMP_VL j) (R.POS_CMP_VH j) s
def putCmp (j : Nat) (v : Int) (s : State) : State := wr48 (R.POS_CMP_VL j) (R.POS_CMP_VH j) v s
def regNext (k : Nat) (s : State) : Int := rd48 (R.POS_REG_NEXTL k) (R.POS_REG_NEXTH k) s
def putRegNext (k : Nat) (v : Int) (s : State) : State := wr48 (R.POS_REG_NEXTL k) (R.POS_REG_NEXTH k) v s

/-! ### Row groups -/

/-- The row groups in use: those with nozzles (R141: N_g ≠ 0), rising. -/
def usedGroups (s : State) : List Nat :=
  (s.regs.filterMap (fun e => ixOf (R.NZL_RG_N 0) 4 64 e.1)).filter (fun g => rf (R.NZL_RG_N g) 0 18 s != 0)

/-- D_g and lead_g (R24, R220). -/
def delayOf (g : Nat) (s : State) : Nat := rf (R.PEEL_RG g) 0 14 s
def leadOf (g : Nat) (s : State) : Nat := rf (R.PEEL_RG g) 16 3 s

/-- c_g (R68, R75): the offset of the registration channel that serves g. -/
def offsetOf (g : Nat) (s : State) : Int :=
  if rb (R.POS_PHASE g) 11 s then (regOf (rf (R.POS_PHASE g) 8 3 s) s).c else 0

/-- (n_g, f_g) with φ_g + c_g = 256 n_g + f_g (R68). -/
def splitOffset (g : Nat) (s : State) : Int × Nat :=
  let o := (rf (R.POS_PHASE g) 24 8 s : Int) + offsetOf g s
  (fdiv o 256, (imod o 256).toNat)

/-- The values that apply to print line Q: those taken at the boundary of Q − lead, else those in force (R68). -/
def takenFor (g : Nat) (q : Int) (s : State) : Int × Nat :=
  match (rgOf g s).taken.find? (fun e => e.1 == q) with
  | some (_, n, f) => (n, f)
  | none => splitOffset g s

/-- RANGE in lines of the channel that serves g, 0 without one (R145). -/
def rangeOf (g : Nat) (s : State) : Nat :=
  if rb (R.POS_PHASE g) 11 s then rf (R.POS_REG_CTL (rf (R.POS_PHASE g) 8 3 s)) 6 6 s else 0

/-- Does a mode fire the print line whose boundary it governs (R36, R38)? -/
def firesIn (m : Mode) : Bool := m == .print || m == .calibrate || m == .drain

/-- The next fire of row group g: the pending one, or that of the next print line under the mode in force. -/
def nextFire (g : Nat) (s : State) : Fire :=
  match (rgOf g s).pend with
  | some f => f
  | none =>
    let q := s.pos.hwm + 1
    let (n, f) := takenFor g q s
    { q := q, n := n, f := f, fires := firesIn s.mode }

/-- Has row group g a line yet to fire? Print line 2^39 − 1 is the last (R61). -/
def firesOn (g : Nat) (s : State) : Bool := (rgOf g s).fired != some (nextFire g s).q && decide ((nextFire g s).q < 2 ^ 39)

/-- Was the last count a reverse one? A fire not yet made then stays pending until θ is crossed forward (R72). -/
def lastReverse (s : State) : Bool :=
  match s.pos.win with
  | (_, x1) :: (_, x0) :: _ => decide (x1 < x0)
  | _ => false

/-- The time at which p reaches `x`, in ticks × DEN, predicted from the last count and v, and the distance from that count
(R57); none unless v is positive. -/
def reachTime (x : Int) (s : State) : Option (Int × Int) :=
  match s.pos.win.head?, velocity s with
  | some (t0, x0), some (n, d) =>
    if n ≤ 0 ∨ lastReverse s then none else some ((t0 : Int) + roundFree ((x - x0) * d) n s, x - x0)
  | _, _ => none

/-- θ of row group g's next fire, in ticks × DEN (R68). -/
def thetaOf (g : Nat) (s : State) : Int :=
  (256 * (nextFire g s).q + (nextFire g s).f) * ((rd (R.POS_ENC_DEN (driveInput s)) s).toNat : Int)

/-- The prediction made at the last count (R57, R69): the instant of g's next fire, where its threshold lies ahead by less
than one count's ticks. -/
def predict (g : Nat) (s : State) : Option Nat :=
  match reachTime (thetaOf g s) s with
  | some (t, dist) =>
    if 0 ≤ dist ∧ dist < ((rd (R.POS_ENC_NUM (driveInput s)) s).toNat : Int) ∧ firesOn g s then some t.toNat else none
  | none => none

/-- Predicted placement (R69) of g's next fire: the prediction that stands (R57), else the last count's. -/
def placement (g : Nat) (s : State) : Option (Fire × Nat) :=
  if rb (R.POS_PHASE g) 0 s ∨ (rgOf g s).cancelled then none
  else
    match (rgOf g s).kept with
    | some (q, t) =>
      if q = (nextFire g s).q ∧ firesOn g s then some (nextFire g s, t) else (predict g s).map (fun t => (nextFire g s, t))
    | none => (predict g s).map (fun t => (nextFire g s, t))

/-- Does the instant lie more than twice the last count interval after the last count? -/
def tooLate (t : Nat) (s : State) : Bool :=
  match s.pos.lastCount with
  | some c => decide (c + 2 * s.pos.lastGap < t)
  | none => true

def armedPlacement (g : Nat) (s : State) : Option (Fire × Nat) :=
  match placement g s with
  | some (f, t) => if tooLate t s then none else some (f, t)
  | none => none

/-- The placement `old` that stood before a count at `now` (R57): it stays where its instant is less than 8 position cycles
away, or where the new prediction comes less than 8 position cycles before its own instant or, short of a reversal, there is
none; else the new one takes its place (DEDUCED, log entry 100). -/
def keepPlacement (g now : Nat) (old : Option (Fire × Nat)) (s : State) : State :=
  let stands := match old with
    | some (_, t) => decide (t < now + 16) || (!lastReverse s && (match predict g s with
      | some t' => decide (t' < now + 16)
      | none => true))
    | none => false
  putRg g { rgOf g s with kept := if stands then old.map (fun e => (e.1.q, e.2)) else none, cancelled := false } s

/-- The instant of a fire locked to an edge (R70), once p has reached θ. -/
def lockedAt (g : Nat) (s : State) : Option Nat :=
  if rb (R.POS_PHASE g) 0 s then (rgOf g s).elk.map (fun t => t + 16 + rf (R.POS_PHASE g) 12 12 s) else none

/-- POS_REVDEPTH follows p and the high-water mark (R58); reaching 4,096 sets REVOVF. -/
def trackReversal (s : State) : State :=
  let d := s.pos.hwm - fdiv (pOf s) 256
  let old := rf R.POS_REVDEPTH 0 13 s
  let new := if pOf s < 256 * (s.pos.hwm + 1) then (clampI 0 4096 d).toNat else 0
  let s := wf R.POS_REVDEPTH 0 13 new s
  if new = 4096 ∧ old < 4096 then alarmBit R.POS_STAT 5 3 { idx := driveInput s } s else s

/-- Binary value of a Gray code of `w` bits. -/
def fromGray (w g : Nat) : Nat := ((List.range w).map (fun i => g / 2 ^ i)).foldl Nat.xor 0

end Sys2Proof.Machine
end

