-- ==== Sys2Proof/Machine/Nozzle.lean ====
section
/-! DEFINITION. Nozzle geometry, the nozzle map and what conditioning computes (R113 to R128). -/

namespace Sys2Proof.Machine

/-! ### Row groups (R113, R114) -/

/-- N_g, w_g, P_g. -/
def nozzlesOf (g : Nat) (s : State) : Nat := rf (R.NZL_RG_N g) 0 18 s
def widthG (g : Nat) (s : State) : Nat := rf (R.NZL_RG g) 0 2 s
def paddedOf (g : Nat) (s : State) : Nat := 256 * ceilDiv (nozzlesOf g s) 256

/-- The image line's segments before row group g's first: s_g (R182). -/
def segsBefore (g : Nat) (s : State) : Nat :=
  (((usedGroups s).filter (fun h => decide (h < g))).map (fun h => paddedOf h s / 256)).sum

/-! ### Geometry (R116 to R118) -/

/-- A run: first column, step, row group, nozzles, link slot. -/
structure Run where
  col0 : Nat
  step : Int
  g : Nat
  count : Nat
  slot : Nat
  deriving DecidableEq, Repr

def runAt (r : Nat) (s : State) : Run :=
  { col0 := rf (R.NZL_GEO_A r) 0 17 s
    step := ([1, 2, -1, -2] : List Int).getD (rf (R.NZL_GEO_A r) 17 2 s) 1
    g := rf (R.NZL_GEO_A r) 19 6 s
    count := rf (R.NZL_GEO_B r) 0 17 s + 1
    slot := rf (R.NZL_GEO_B r) 17 4 s }

/-- The geometry table, with each run's number and the nozzle index n₀ of its first nozzle in its row group. -/
def runTable (s : State) : List (Nat × Nat × Run) :=
  ((List.range (rf R.NZL_CFG 16 11 s)).foldl (fun (acc : List (Nat × Nat × Run) × Tab Nat) r =>
    let x := runAt r s
    let n0 := Sparse.get 0 acc.2 x.g
    (acc.1 ++ [(r, n0, x)], Sparse.set 0 acc.2 x.g (n0 + x.count))) ([], [])).1

/-- The nozzles that column `c` feeds: (row group, nozzle, run), in table order. -/
def feeds (tab : List (Nat × Nat × Run)) (c : Nat) : List (Nat × Nat × Nat) :=
  tab.filterMap (fun (r, n0, x) =>
    let d : Int := (c : Int) - x.col0
    let k := d / x.step
    if k * x.step = d ∧ 0 ≤ k ∧ k < x.count then some (x.g, n0 + k.toNat, r) else none)

/-- The nozzles of row group g in nozzle order: (column, run). -/
def nozzleCols (tab : List (Nat × Nat × Run)) (g : Nat) : List (Nat × Nat) :=
  (tab.filter (fun e => e.2.2.g == g)).flatMap (fun (r, _, x) =>
    (List.range x.count).map (fun (k : Nat) => (((x.col0 : Int) + k * x.step).toNat, r)))

/-- Slot `l` of row group g: index of its first nozzle and its nozzle count N_s (R118). -/
def slotOf (g l : Nat) (s : State) : Nat × Nat :=
  let rs := (runTable s).filter (fun e => e.2.2.g == g && e.2.2.slot == l)
  ((rs.head?.map (fun e => e.2.1)).getD 0, (rs.map (fun e => e.2.2.count)).sum)

/-! ### Nozzle map (R120) -/

/-- Fields of a nozzle in a map bank. -/
structure Noz where
  tab : Nat := 0
  miss : Bool := false
  rule : Nat := 0
  tsel : Bool := false
  deriving DecidableEq, Repr

def mapByte (bank : Tab Nat) (i : Nat) : Nat := Sparse.get 0 bank i

def nozAt (bank : Tab Nat) (g n : Nat) (s : State) : Noz :=
  let base := rf (R.NZL_RG_MAP g) 0 17 s
  let j := n / 3
  let i := n % 3
  match widthG g s with
  | 3 =>
    let e := mapByte bank (base + n)
    { tab := bitsN e 4 4, miss := bitN e 3, rule := bitsN e 1 2 }
  | 2 =>
    let v := mapByte bank (base + 2 * j) + 256 * mapByte bank (base + 2 * j + 1)
    { tab := bitsN v (5 * i) 4, miss := bitN v (5 * i + 4) }
  | 1 =>
    let e := mapByte bank (base + j)
    { tab := rf (R.NZL_RG g) (if bitN e (2 * i) then 10 else 6) 4 s, miss := bitN e (2 * i + 1), tsel := bitN e (2 * i) }
  | _ => {}

/-- `w` bits at `lo` of a number set to `x`. -/
def putN (v lo w x : Nat) : Nat := v - bitsN v lo w * 2 ^ lo + x % 2 ^ w * 2 ^ lo

def putByte (bank : Tab Nat) (i v : Nat) : Tab Nat := Sparse.set 0 bank i (v % 256)

/-- An NZL_UPD operation on the bank (R126); the caller has checked that it is not rejected. -/
def updNoz (op val : Nat) (g n : Nat) (bank : Tab Nat) (s : State) : Tab Nat :=
  let base := rf (R.NZL_RG_MAP g) 0 17 s
  let j := n / 3
  let i := n % 3
  match widthG g s with
  | 3 =>
    let e := mapByte bank (base + n)
    putByte bank (base + n) (match op with
      | 0 => putN e 3 1 1
      | 1 => putN e 3 1 0
      | 2 => putN e 4 4 val
      | _ => putN e 1 2 val)
  | 2 =>
    let v := mapByte bank (base + 2 * j) + 256 * mapByte bank (base + 2 * j + 1)
    let v := match op with
      | 0 => putN v (5 * i + 4) 1 1
      | 1 => putN v (5 * i + 4) 1 0
      | _ => putN v (5 * i) 4 val
    putByte (putByte bank (base + 2 * j) v) (base + 2 * j + 1) (v / 256)
  | _ =>
    let e := mapByte bank (base + j)
    putByte bank (base + j) (match op with
      | 0 => putN e (2 * i + 1) 1 1
      | 1 => putN e (2 * i + 1) 1 0
      | _ => putN e (2 * i) 1 val)

/-! ### Compensation (R121 to R123) -/

/-- CALRAW in force (R121). -/
def calRaw (s : State) : Bool := s.mode == .calibrate && rb R.NZL_CFG 1 s

/-- Composed code of column c from the codes by cluster; a cluster that gave none composed 0 (R81, R109). -/
def codeAt (input : List (Nat × List Nat)) (c : Nat) : Nat :=
  match input.find? (fun e => e.1 == c / 8192) with
  | some (_, l) => l.getD (c % 8192) 0
  | none => 0

/-- Is column c lost (R122)? -/
def lost (tab : List (Nat × Nat × Run)) (c : Nat) (s : State) : Bool :=
  let f := feeds tab c
  f != [] && f.all (fun (g, n, _) => (nozAt s.lst.mapA g n s).miss)

/-- The ink of column c (R117). -/
def inkOf (tab : List (Nat × Nat × Run)) (c : Nat) (s : State) : Option Nat :=
  (feeds tab c).head?.map (fun (g, _, _) => rf (R.NZL_RG g) 2 4 s)

/-- The rule q that a lost column applies (R123): from the fed nozzle of lowest row group, then lowest index. -/
def ruleOf (tab : List (Nat × Nat × Run)) (c : Nat) (s : State) : Nat :=
  let best := (feeds tab c).foldl (fun (b : Option (Nat × Nat)) (g, n, _) => match b with
    | some (g', n') => if g < g' ∨ (g = g' ∧ n < n') then some (g, n) else b
    | none => some (g, n)) none
  match best with
  | some (g, n) => if widthG g s = 3 then (nozAt s.lst.mapA g n s).rule else rf (R.NZL_RG g) 14 2 s
  | none => 0

/-- What column `c` receives from column `l`, if `l` is lost (R123). -/
def addition (tab : List (Nat × Nat × Run)) (input : List (Nat × List Nat)) (c l : Nat) (s : State) : Nat :=
  if lost tab l s then
    let q := R.NZL_CRULE (ruleOf tab l s)
    let d := rf q 0 3 s
    if 1 ≤ d ∧ d ≤ 4 ∧ ((rb q 3 s ∧ c + d = l) ∨ (rb q 4 s ∧ l + d = c)) ∧ inkOf tab c s = inkOf tab l s then
      (codeAt input l * rf q 8 4 s + 8) / 16
    else 0
  else 0

/-- d′ of column c (R119 step 2). -/
def compensated (tab : List (Nat × Nat × Run)) (input : List (Nat × List Nat)) (c : Nat) (s : State) : Nat :=
  if calRaw s || lost tab c s then min 7 (codeAt input c)
  else
    min 7 (codeAt input c
      + (([1, 2, 3, 4].map (fun d => addition tab input c (c + d) s
          + (if d ≤ c then addition tab input c (c - d) s else 0))).sum))

/-! ### Stitch overlaps (R124, R125) -/

/-- Threshold T[y][x] of mask m (R141). -/
def threshold (m y x : Nat) (s : State) : Nat := rf (R.NZL_MASK (1024 * m + 16 * y + x / 4)) (8 * (x % 4)) 6 s

/-- Does R125 give the column of this nozzle (of run r) to its partner, in image line i? -/
def partnerTakes (tab : List (Nat × Nat × Run)) (i : Int) (c r : Nat) (s : State) : Bool :=
  (List.range (rf R.NZL_NOVL 0 9 s)).any (fun k =>
    let c0 := rf (R.NZL_OV_A k) 0 17 s
    let w := rf (R.NZL_OV_A k) 17 12 s + 1
    let ra := rf (R.NZL_OV_B k) 0 10 s
    let rbn := rf (R.NZL_OV_B k) 10 10 s
    if c0 ≤ c ∧ c < c0 + w ∧ (r = ra ∨ r = rbn) then
      let j := c - c0
      let a := 64 * (2 * j + 1) / (2 * w)
      let y := (imod (i + (rf (R.NZL_OV_B k) 23 6 s : Nat)) 64).toNat
      let bTakes := decide (threshold (rf (R.NZL_OV_B k) 20 3 s) y (j % 64) s < a)
      let missOf := fun run => ((feeds tab c).find? (fun e => e.2.2 == run)).elim false
        (fun (g, n, _) => (nozAt s.lst.mapA g n s).miss)
      let missA := missOf ra
      let missB := missOf rbn
      let b := if bTakes && missB && !missA then false else if !bTakes && missA && !missB then true else bTakes
      if r = ra then b else !b
    else false)

/-! ### A conditioned line (R119) -/

/-- RTAB entry (R120). -/
def remap (t d : Nat) (s : State) : Nat := if d = 0 then 0 else rf (R.NZL_RTAB t) (3 * d) 3 s

/-- Step 3 of R119 for nozzle n of row group g with source column c of run r. -/
def nozzleCode (tab : List (Nat × Nat × Run)) (input : List (Nat × List Nat)) (i : Int) (g n c r : Nat) (s : State) : Nat :=
  let z := nozAt s.lst.mapA g n s
  if z.miss || partnerTakes tab i c r s then 0
  else
    let d := compensated tab input c s
    min (if calRaw s then d else remap z.tab d s) (2 ^ widthG g s - 1)

/-- Working pipelines (R137). -/
def pipesWork (s : State) : Bool := rf R.NZL_PIPE 0 2 s != 0

/-- The conditioned line: each used row group with its width and the codes of its nozzles. After NOPIPE every nozzle fires
0 (R139). -/
def condition (i : Int) (input : List (Nat × List Nat)) (s : State) : List (Nat × Nat × List Nat) :=
  let tab := runTable s
  (usedGroups s).map (fun g =>
    (g, widthG g s,
      if pipesWork s then
        ((nozzleCols tab g).take (nozzlesOf g s)).mapIdx (fun n e => nozzleCode tab input i g n e.1 e.2 s)
      else []))

/-- The segments of a row group's codes: P_g positions, padding 0 (R114). -/
def segmentsOf (p : Nat) (codes : List Nat) : List (List Nat) :=
  (List.range (p / 256)).map (fun j =>
    let l := (codes.drop (256 * j)).take 256
    l ++ List.replicate (256 - l.length) 0)

/-- Columns lost under the active bank (NZL_LOST). -/
def lostCount (s : State) : Nat :=
  let tab := runTable s
  ((List.range 131072).filter (fun c => lost tab c s)).length

/-! ### Two copies (R140) -/

/-- The word is read: where one copy has an uncorrectable error it is read from the other and rewritten, TABFIX. -/
def readWord (w : TabWord) (s : State) : State :=
  if s.lst.tabErr.any (fun e => e.1 == w) then
    alarmBit R.NZL_STAT 3 18 {} { s with lst := { s.lst with tabErr := s.lst.tabErr.filter (fun e => e.1 != w) } }
  else s

/-- Does the conditioning of a line read the word: every table and the active bank? -/
def TabWord.conditions : TabWord → Bool
  | .table _ => true
  | .bank staged _ => !staged

/-- The words that satisfy `p` are read. -/
def readWords (p : TabWord → Bool) (s : State) : State :=
  (s.lst.tabErr.filter (fun e => p e.1)).foldl (fun s e => readWord e.1 s) s

/-- The bytes of the bank that hold nozzle `n` of row group g (R120). -/
def nozBytes (g n : Nat) (s : State) : List Nat :=
  let base := rf (R.NZL_RG_MAP g) 0 17 s
  match widthG g s with
  | 3 => [base + n]
  | 2 => [base + 2 * (n / 3), base + 2 * (n / 3) + 1]
  | _ => [base + n / 3]

/-- The nozzle's bytes of a bank are read. -/
def readNoz (staged : Bool) (g n : Nat) (s : State) : State :=
  (nozBytes g n s).foldl (fun s i => readWord (.bank staged i) s) s

/-! ### Nozzle-map commits (R128) -/

/-- Is a nozzle-map commit pending, and for which line? -/
def nozzlePend (s : State) : Option Int := (s.cmp.pend.find? (fun p => p.nozzle)).map (fun p => p.line)

/-- The line of a nozzle-map commit that has arrived (R129). -/
def nozzleArrived (s : State) : Option Int :=
  (s.cmp.pend.find? (fun p => p.nozzle && p.flying == 0)).map (fun p => p.line)

/-- NZL_CMTSTAT.AOUT of the tile-level block (R134): from the first issue for a record until its commit is taken. -/
def autoOut (s : State) : Bool :=
  (rb R.NZL_CFG 0 s && s.lst.auto.any (fun e => e.tried)) || s.cmp.issued.any (fun c => c.issuer == 17)
    || s.cmp.pend.any (fun p => p.issuer == 17)

/-- NOZZLE_MAP_TAKE at the start of conditioning line `i`. -/
def takeMap (i : Int) (s : State) : State :=
  match nozzleArrived s with
  | some l =>
    if l ≤ i then
      let s := readWords (fun w => !w.conditions) s
      let s := { s with lst := { s.lst with
        mapA := s.lst.mapS
        tabErr := s.lst.tabErr.filter (fun e => match e.1 with
          | .bank _ _ => false
          | .table _ => true) } }
      let auto := s.cmp.pend.any (fun p => p.nozzle && p.issuer == 17)
      let s := takeCommits (fun p => p.nozzle) 0xFFFF s
      if auto then wb R.NZL_CMTSTAT 4 (autoOut s) s else s
    else s
  | none => s

end Sys2Proof.Machine
end

