-- ==== Sys2Proof/Machine/Codec.lean ====
section
/-! DEFINITION. The line codec and the line store (R144 to R171): encoding a conditioned line, the ring and the line table,
release, rewind, and the start of conditioning (R135). -/

namespace Sys2Proof.Machine

def compressed (s : State) : Bool := rb R.LST_CFG 0 s
def reductionOn (s : State) : Bool := compressed s && rb R.LST_CFG 2 s

/-- Blocks of the ring (R152). -/
def ringBlocks : Nat := 1570816
def blockAddr (b : Nat) : Nat := 0x20000 + 64 * (b % ringBlocks)

def dRel (s : State) : Nat := rf R.LST_DREL 0 14 s
def occupancy (s : State) : Nat := rf R.LST_OCC 0 21 s

/-! ### Budget (R160, R161) -/

/-- The controller's budget at occupancy `o`. -/
def budgetFor (o red top : Nat) : Nat :=
  if o < red then 12
  else if top ≤ o then 0
  else 12 - ceilDiv (12 * (o - red)) (top - red)

/-- COD_BUD as it counts for a line whose encoding starts now: a write of this core cycle applies from the next line
(R161). -/
def budWord (s : State) : Word := if s.lst.bud.1 = coreCycle s + 1 then s.lst.bud.2 else rd R.COD_BUD s

/-- B of the line whose encoding starts now. -/
def budget (s : State) : Nat :=
  let o := occupancy s
  let red := rf R.LST_WM_RED 0 21 s
  let top := rf R.LST_WM_TOP 0 21 s
  if reductionOn s = false ∨ o < red then 12
  else if top ≤ o then 0
  else if bit (budWord s) 8 then min 12 (fld (budWord s) 0 4) else budgetFor o red top

/-- W, the largest record the line can need under budget `b` (R157, R166). -/
def largestRecord (b : Nat) (s : State) : Nat :=
  let m := if b = 12 ∨ reductionOn s = false then 96 else max (8 * b) 64
  let n := ((usedGroups s).map (fun g => paddedOf g s / 256)).sum
  let body := ((usedGroups s).map (fun g => paddedOf g s / 256 * (if widthG g s = 3 then m else 32 * widthG g s))).sum
  1 + ceilDiv (8 * ceilDiv n 4 + body) 64

/-! ### The reduction log (R164, R165) -/

/-- Ring sizes from 16 to 8,192 (R133, R164). -/
def ringSize (a : Nat) (s : State) : Nat := max 16 (min 8192 (rf a 0 14 s))

/-- A reduction log entry for segment `j` of row group g. -/
def logSegment (i : Int) (g j ver mode : Nat) (codes : List Nat) (s : State) : State :=
  let s := addSat R.LST_REDSEG 0 32 1 s
  let size := ringSize R.LST_LOG_SIZE s
  let wp := rf R.LST_LOG_WP 0 13 s
  if (wp + 1) % size = rf R.LST_LOG_RP 0 13 s % size then
    alarmBit R.LST_STAT 3 24 {} (addSat R.LST_LOG_DROP 0 16 1 s)
  else
    let n := fun c => codes.count c
    let v := h40 i + g * 2 ^ 40 + ver * 2 ^ 46 + j * 2 ^ 48 + mode * 2 ^ 59 + n 1 * 2 ^ 64 + n 3 * 2 ^ 80
      + n 5 * 2 ^ 96 + n 6 * 2 ^ 112
    let s := writeN (bankWord (rf R.LST_CFG 8 4 s) 2 (8 * rf R.LST_LOG_BASE 0 14 s + 8 * wp)) 16 v s
    wf R.LST_LOG_WP 0 13 ((wp + 1) % size) s

/-! ### Encoding a line -/

/-- The reference whose COPY line `i` may use (R151). -/
def copyRef (i : Int) (s : State) : Option (List (List Nat)) :=
  match s.lst.ref with
  | some (l, false, codes) => if l + 1 = i then some codes else none
  | _ => none

/-- VER of the version now written (R156). -/
def versionOf (i : Int) (s : State) : Nat :=
  match s.lst.vers.find? (fun e => e.1 == i) with
  | some (_, v) => (v + 1) % 4
  | none => 0

/-- Record header (R152). -/
def recordHeader (i : Int) (len nseg b ver : Nat) (red noCopy : Bool) : List Byte :=
  leBytes 4 (len % 1024 + 0xB7 * 2 ^ 24) ++ leBytes 4 (h40 i) ++
  leBytes 4 (h40 i / 2 ^ 32 + nseg * 2 ^ 8 + b * 2 ^ 20 + b2n red * 2 ^ 24 + b2n noCopy * 2 ^ 25 + ver * 2 ^ 26) ++
  List.replicate 52 0

/-- A line in the fixed organisation (R147): RAW bodies in order. -/
def encodeFixed (i : Int) (cond : List (Nat × Nat × List Nat)) (s : State) : Coded :=
  let segs := cond.flatMap (fun (g, w, l) => (segmentsOf (paddedOf g s) l).map (fun c => (w, c)))
  { line := i, fate := .stored, bytes := segs.flatMap (fun (w, c) => leBytes (32 * w) (pack w c))
    counts := [0, 0, 0, 0, segs.length, 0], ref := segs.map (fun e => e.2) }

/-- A line in the compressed organisation (R150 to R152, R162): the coded line and its reduced segments (row group, segment,
MODE, codes before). -/
def encodeRecord (i : Int) (b : Nat) (cond : List (Nat × Nat × List Nat)) (s : State) :
    Coded × List (Nat × Nat × Nat × List Nat) :=
  let segs := cond.flatMap (fun (g, w, l) => (segmentsOf (paddedOf g s) l).map (fun c => (g, w, c)))
  let cr := copyRef i s
  let done := segs.mapIdx (fun j (g, w, c) =>
    let (st, f) := encodeSeg w b (match cr with
      | some r => r[j]?
      | none => none) c
    (g, j, c, st, f))
  let red := done.filter (fun (_, _, c, st, _) => c != st)
  let blk := blockOf (done.map (fun (_, _, _, _, f) => f))
  let len := ceilDiv (64 + blk.length) 64
  let ver := versionOf i s
  let cnt := fun m => (done.filter (fun (_, _, _, _, f) => f.mode == m)).length
  ({ line := i, fate := .stored
     bytes := padTo 64 (recordHeader i len segs.length b ver (red != []) cr.isNone ++ blk)
     ver := ver, red := red.length
     counts := [cnt 0, cnt 1, cnt 2, cnt 3, cnt 4, cnt 5]
     ref := done.map (fun (_, _, _, st, _) => st) },
   red.map (fun (g, j, c, _, f) => (g, j, f.mode, c)))

/-! ### Entries (R153, R180) -/

/-- A line table entry. -/
def entryWord (i : Int) (blk len : Nat) (drop red late : Bool) : Nat :=
  blk + len * 2 ^ 21 + h40 i % 65536 * 2 ^ 32 + 2 ^ 48 + b2n drop * 2 ^ 49 + b2n red * 2 ^ 50 + b2n late * 2 ^ 51

/-- Index of line `i`'s entry. -/
def entryIx (i : Int) (s : State) : Nat := (imod i (if compressed s then 16384 else 2048)).toNat

/-- The entry of line `i` as it stands. -/
def readEntry (i : Int) (s : State) : Nat :=
  if compressed s then readN (lineStoreBase + 8 * entryIx i s) 8 s else Sparse.get 0 s.lst.slots (entryIx i s)

def writeEntry (i : Int) (v : Nat) (s : State) : State :=
  if compressed s then writeN (lineStoreBase + 8 * entryIx i s) 8 v s
  else { s with lst := { s.lst with slots := Sparse.set 0 s.lst.slots (entryIx i s) v } }

def clearValid (i : Int) (s : State) : State := writeEntry i (clrBitN (readEntry i s) 48) s

/-! ### Occupancy -/

/-- O set to `o` (R154): OCCMAX, and HIGHOCC on an upward crossing of LST_WM_NOTE (R177, R418). -/
def setOcc (o : Nat) (s : State) : State :=
  let old := occupancy s
  let note := rf R.LST_WM_NOTE 0 21 s
  let s := wf R.LST_OCC 0 21 o s
  let s := keepMax R.LST_OCCMAX 0 21 o s
  if old < note ∧ note ≤ o then
    s |> wb R.LST_STAT 0 true |> assertAll 5 |> postEvent 3 0 0 0 o
  else s

/-- WP and RP follow the stored lines: block numbers, or slot numbers in the fixed organisation (R154, R177). -/
def setPointers (wp : Nat) (s : State) : State :=
  let s := wf R.LST_WP 0 21 wp s
  let rp := match s.lst.stored.find? (fun x => x.hasRec) with
    | some x => if compressed s then x.blk else entryIx x.line s
    | none => wp
  wf R.LST_RP 0 21 rp s

def blocksHeld (l : List Stored) : Nat := ((l.filter (fun x => x.hasRec)).map (fun x => x.len)).sum

/-- LINE_RELEASE (R145): every stored line at or below `i`, in the order of writing. -/
def releaseUpTo (i : Int) (s : State) : State :=
  let out := s.lst.stored.filter (fun x => decide (x.line ≤ i))
  if out = [] then s
  else
    let s := out.foldl (fun s x => clearValid x.line s) s
    let s := { s with lst := { s.lst with stored := s.lst.stored.filter (fun x => !decide (x.line ≤ i)) } }
    let wp := rf R.LST_WP 0 21 s
    setPointers wp (setOcc (occupancy s - blocksHeld out) s)

/-- RECOMPOSE_REWIND (R156): every stored line at or above `i` is removed. Where none is stored nothing is rewound and the
reference stays (log entry 109: DESIGN CHOICE). -/
def rewind (i : Int) (s : State) : State :=
  let out := s.lst.stored.filter (fun x => decide (i ≤ x.line))
  if out = [] then s
  else
    let s := out.foldl (fun s x => clearValid x.line s) s
    let wp := match out.find? (fun x => x.hasRec) with
      | some x => if compressed s then x.blk else entryIx x.line s
      | none => rf R.LST_WP 0 21 s
    let s := { s with lst := { s.lst with
      stored := s.lst.stored.filter (fun x => !decide (i ≤ x.line))
      vers := (s.lst.vers.filter (fun e => !out.any (fun x => x.line == e.1))) ++ out.map (fun x => (x.line, x.ver))
      ref := none } }
    setPointers wp (setOcc (occupancy s - blocksHeld out) s)

/-! ### Conditioning begins (R135) -/

/-- Late: the boundary of print line I has occurred (R98). -/
def isLate (i : Int) (s : State) : Bool := decide (i ≤ s.pos.hwm)

/-- LATE of each slice in `cls`, those that composed the line (R98). -/
def raiseLate (cls : List Nat) (i : Int) (s : State) : State :=
  cls.foldl (fun s cl => alarmBit (R.CLC_ASTAT cl) 6 14 { line := i, cluster := cl } s) s

/-- The codes of line `i` by the clusters that composed it. -/
def inputOf (i : Int) (s : State) : List (Nat × List Nat) :=
  (s.cmp.composed.filter (fun e => e.2.1 == i)).map (fun e => (e.1, e.2.2))

/-- Has every enabled slice composed the line? A slice without a lane composes nothing (R109). -/
def allComposed (i : Int) (s : State) : Bool :=
  (List.range 16).all (fun cl => !sliceWorks cl s || s.cmp.composed.any (fun e => e.1 == cl && e.2.1 == i))

/-- Working encoders (R169). -/
def codecWorks (s : State) : Bool := rf R.COD_PIPE 0 2 s != 0

/-- The line conditioned and encoded (R119, R150, R160 to R166). Every stored line at or above it is removed first, also
one of an earlier numbering that a renumbering left (log entry 114: DESIGN CHOICE). -/
def encodeLine (i : Int) (input : List (Nat × List Nat)) (s : State) : State :=
  let s := rewind i s
  if codecWorks s then
    let b := budget s
    let s := wf R.COD_BUD 16 4 b s
    if compressed s ∧ ringBlocks < occupancy s + largestRecord b s then
      let s := addSat R.LST_DROPCNT 0 16 1 s
      let s := alarmBit R.LST_STAT 2 23 { line := i } s
      let forces := s.mode == .print || s.mode == .calibrate || s.mode == .drain
      { s with
        blankDue := if forces then s.blankDue ++ [5] else s.blankDue
        lst := { s.lst with ref := none, busy := some { line := i, fate := .dropped, ver := versionOf i s, input := input } } }
    else
      let s := if pipesWork s then readWords TabWord.conditions s else s
      let cond := condition i input s
      if compressed s then
        let (c, red) := encodeRecord i b cond s
        let s := red.foldl (fun s (g, j, m, codes) => logSegment i g j c.ver m codes s) s
        { s with lst := { s.lst with busy := some { c with input := input } } }
      else { s with lst := { s.lst with busy := some { encodeFixed i cond s with input := input } } }
  else { s with lst := { s.lst with ref := none, busy := some { line := i, fate := .dropped, ver := versionOf i s, input := input } } }

/-- CONDITIONING_START (R135): the next due line that every enabled slice has composed, one line at a time. A line whose
release boundary has passed is discarded unstored (R98). -/
def startConditioning : (fuel : Nat) → State → State
  | 0, s => s
  | n + 1, s =>
    match s.lst.busy, nextDue s.lst.lastCond s with
    | none, some i =>
      if allComposed i s then
        let s := { s with lst := { s.lst with lastCond := some i } }
        let s := takeMap i s
        if i + dRel s + 1 ≤ s.pos.hwm then
          startConditioning n (raiseLate ((inputOf i s).map (fun e => e.1)) i { s with lst := { s.lst with ref := none } })
        else encodeLine i (inputOf i s) s
      else s
    | _, _ => s

/-- Conditioning is tried for as many lines as can wait. -/
def conditionNext (s : State) : State := startConditioning (s.cmp.composed.length + 65) s

/-! ### The line is ready (R155, R168) -/

/-- Bytes written from ring block `b` on, across the end of the ring. -/
def writeRing (b : Nat) (l : List Byte) (s : State) : State :=
  let room := 64 * (ringBlocks - b % ringBlocks)
  let s := writeBytes (blockAddr b) (l.take room) s
  if room < l.length then writeBytes (blockAddr 0) (l.drop room) s else s

/-- Registers of the last line stored (R178). -/
def codecReport (c : Coded) (blocks : Nat) (s : State) : State :=
  let n := fun k => c.counts.getD k 0
  s |> wrLine R.COD_LASTL R.COD_LASTH c.line
    |> wr R.COD_LSIZE (BitVec.ofNat 32 (blocks % 1024 + c.red * 65536))
    |> wr R.COD_MODES0 (BitVec.ofNat 32 (n 0 + n 1 * 65536))
    |> wr R.COD_MODES1 (BitVec.ofNat 32 (n 2 + n 3 * 65536))
    |> wr R.COD_MODES2 (BitVec.ofNat 32 (n 4 + n 5 * 65536))

/-- The coded line reaches the store with its entry (R147, R153 to R155); REDUCED (R162). -/
def storeLine (c : Coded) (s : State) : State :=
  let i := c.line
  let late := isLate i s
  let s := { s with lst := { s.lst with busy := none, vers := s.lst.vers.filter (fun e => e.1 != i) } }
  let s := if late then raiseLate (c.input.map (fun e => e.1)) i s else s
  match c.fate with
  | .discarded => s
  | .dropped =>
    let s := writeEntry i (entryWord i 0 0 true false late) s
    { s with lst := { s.lst with stored := s.lst.stored ++ [{ line := i, hasRec := false, ver := c.ver }] } }
  | .stored =>
    let red := decide (c.red ≠ 0)
    let wp := rf R.LST_WP 0 21 s
    let blocks := c.bytes.length / 64
    let s := if compressed s then writeRing wp c.bytes s
      else writeBytes (lineStoreBase + 0xC000 * entryIx i s) c.bytes s
    let s := writeEntry i (if compressed s then entryWord i wp blocks false red late
      else entryWord i 0 0 false false late) s
    let len := if compressed s then blocks else 1
    let s := { s with lst := { s.lst with
      stored := s.lst.stored ++ [{ line := i, blk := wp, len := len, ver := c.ver }]
      ref := some (i, late, c.ref) } }
    let s := setPointers (if compressed s then (wp + blocks) % ringBlocks else entryIx (i + 1) s)
      (setOcc (occupancy s + len) s)
    let s := codecReport c (if compressed s then blocks else 0) s
    if red then alarmBit R.LST_STAT 1 22 { line := i } (addSat R.LST_REDLINE 0 16 1 s) else s

/-- The line is ready; a line past its release boundary is released at once (R98). -/
def lineDone (c : Coded) (s : State) : State :=
  let s := storeLine c s
  if c.line + dRel s + 1 ≤ s.pos.hwm then releaseUpTo c.line s else s

end Sys2Proof.Machine
end

