-- ==== Sys2Proof/Machine/LineCode.lean ====
section
/-! DEFINITION. Line codes (R20): 8b/10b of the Gen-2 pairs, the clause 49 blocks of the Gen-3 lanes, and the octets of the
JESD204B lanes with their scrambler and ILAS. PRESUMED from the standards that the spec names (log entry 120). -/

namespace Sys2Proof.Machine

/-! ### 8b/10b -/

/-- 5b/6b code of x at running disparity −, bit a (first sent) the least significant. -/
def code6 : List Nat :=
  [0b111001, 0b101110, 0b101101, 0b100011, 0b101011, 0b100101, 0b100110, 0b000111,
   0b100111, 0b101001, 0b101010, 0b001011, 0b101100, 0b001101, 0b001110, 0b111010,
   0b110110, 0b110001, 0b110010, 0b010011, 0b110100, 0b010101, 0b010110, 0b010111,
   0b110011, 0b011001, 0b011010, 0b011011, 0b011100, 0b011101, 0b011110, 0b110101]

/-- 3b/4b code of y for data at running disparity −, bit f the least significant; D.x.P7. -/
def code4 : List Nat := [0b1101, 0b1001, 0b1010, 0b0011, 0b1011, 0b0101, 0b0110, 0b0111]

/-- 3b/4b code of y for control characters at running disparity −. -/
def code4K : List Nat := [0b1101, 0b0110, 0b0101, 0b0011, 0b1011, 0b1010, 0b1001, 0b1110]

/-- Set bits among the low `n`. -/
def ones (n v : Nat) : Nat := (bitList v n).length

/-- The code at running disparity `rd` (true: +) of the entry given for −: complemented where it is unbalanced or, in the
couples of balanced codes, `twin`. -/
def atRd (n v : Nat) (twin rd : Bool) : Nat := if rd && (2 * ones n v != n || twin) then 2 ^ n - 1 - v else v

/-- Running disparity after a code of `n` bits. -/
def nextRd (n v : Nat) (rd : Bool) : Bool := if 2 * ones n v = n then rd else !rd

/-- A character (control, octet) in its 10-bit code, first bit sent least significant, and the running disparity after it. -/
def encode10 (rd : Bool) (k : Bool) (b : Byte) : Nat × Bool :=
  let x := b.toNat % 32
  let y := b.toNat / 32
  let six := if k && x == 28 then atRd 6 0b111100 false rd else atRd 6 (code6.getD x 0) (x == 7) rd
  let r := nextRd 6 six rd
  let alt := y == 7 && (if r then x == 11 || x == 13 || x == 14 else x == 17 || x == 18 || x == 20)
  let four := if k then atRd 4 (code4K.getD y 0) true r
    else if alt then atRd 4 0b1110 false r
    else atRd 4 (code4.getD y 0) (y == 3) r
  (six + 64 * four, nextRd 4 four r)

/-- A run of characters. -/
def encodeChars : Bool → List (Bool × Byte) → List Nat × Bool
  | rd, [] => ([], rd)
  | rd, (k, b) :: r =>
    let (c, rd') := encode10 rd k b
    let (l, rd'') := encodeChars rd' r
    (c :: l, rd'')

/-- SOF K27.7, EOF K29.7, ABORT K30.7, the idle set K28.5, D16.2 (R194, R195). -/
def sofChar : Bool × Byte := (true, 0xFB)
def eofChar : Bool × Byte := (true, 0xFD)
def abortChar : Bool × Byte := (true, 0xFE)
def idleSet : List (Bool × Byte) := [(true, 0xBC), (false, 0x50)]

/-- The characters of a Gen-2 frame with the idle set that follows it (R194). -/
def gen2Chars (bytes : List Byte) (abort : Bool) : List (Bool × Byte) :=
  sofChar :: bytes.map (fun b => (false, b)) ++ (if abort then abortChar else eofChar) :: idleSet

/-! ### 64b/66b (R197) -/

/-- The blocks of a frame of 8 n octets before scrambling: sync header and 64 bits. The start block carries seven octets after
its type 0x78, the terminate block of type 0x99 the last one. -/
def blocks66 (l : List Byte) : List (Nat × Nat) :=
  let mid := (List.range (l.length / 8 - 1)).map (fun j => (2, getLE l (7 + 8 * j) 8))
  (1, 0x78 + 256 * getLE l 0 7) :: mid ++ [(1, 0x99 + 256 * getLE l (l.length - 1) 1)]

/-- The blocks dealt to the TX lanes of LMASK, round-robin from the lowest: lane, sync header, 64 bits. -/
def dealt (lanes : List Nat) (blocks : List (Nat × Nat)) : List (Nat × Nat × Nat) :=
  blocks.mapIdx (fun i b => (lanes.getD (i % max 1 lanes.length) 0, b))

/-- `n` bits through the scrambler 1 + x^39 + x^58, least significant first: the bits sent and the register, whose bit 0 is the
bit sent last. -/
def scramble66 : (n : Nat) → (reg v : Nat) → Nat × Nat
  | 0, reg, _ => (0, reg)
  | n + 1, reg, v =>
    let b := (v % 2 + b2n (bitN reg 38) + b2n (bitN reg 57)) % 2
    let (r, reg') := scramble66 n ((reg * 2 + b) % 2 ^ 58) (v / 2)
    (b + 2 * r, reg')

/-- Dealt blocks as they leave, each lane's scrambler from what `reg` gives it; the sync header is not scrambled. -/
def scrambleBlocks : (reg : Nat → Nat) → List (Nat × Nat × Nat) → List (Nat × Nat × Nat)
  | _, [] => []
  | reg, (lane, h, v) :: r =>
    let (c, x) := scramble66 64 (reg lane) v
    (lane, h, c) :: scrambleBlocks (fun l => if l = lane then x else reg l) r

/-! ### JESD204B (R241) -/

/-- One octet through the scrambler 1 + x^14 + x^15, most significant bit first: the octet sent and the register, whose bit 0
is the bit sent last. -/
def scramble : (n : Nat) → (reg v : Nat) → Nat × Nat
  | 0, reg, _ => (0, reg)
  | n + 1, reg, v =>
    let b := (b2n (bitN v n) + b2n (bitN reg 13) + b2n (bitN reg 14)) % 2
    let (r, reg') := scramble n (reg * 2 % 2 ^ 15 + b) v
    (b * 2 ^ n + r, reg')

/-- Octets of a lane through the scrambler. -/
def scrambleAll : Nat → List Byte → List Byte × Nat
  | reg, [] => ([], reg)
  | reg, b :: r =>
    let (v, reg') := scramble 8 reg b.toNat
    let (l, reg'') := scrambleAll reg' r
    (BitVec.ofNat 8 v :: l, reg'')

/-- The octets of converter samples, most significant octet first. -/
def sampleOctets (l : List Int) : List Byte := l.flatMap (fun y => [BitVec.ofNat 8 (low 16 y / 256), BitVec.ofNat 8 (low 16 y)])

/-- L, M, F of a configuration. -/
def jesdShape (mode : Nat) : Nat × Nat × Nat :=
  match mode with
  | 1 => (4, 32, 16)
  | 2 => (2, 16, 16)
  | 3 => (4, 16, 8)
  | _ => (0, 0, 0)

/-- The 14 configuration octets that the ILAS carries for logical lane `lid`: DID, BID, LID, SCR, L, F, K, M, CS, N, subclass
1, N′, version B, S, HD, CF and the checksum of the fields. -/
def ilasConfig (mode did bid lid : Nat) (scr : Bool) : List Byte :=
  let (l, m, f) := jesdShape mode
  let sum := did + bid + lid + b2n scr + (l - 1) + (f - 1) + 31 + (m - 1) + 0 + 15 + 1 + 15 + 1 + 0 + 0 + 0
  [did, bid, lid, b2n scr * 128 + (l - 1), f - 1, 31, m - 1, 15, 32 + 15, 32, 0, 0, 0, sum].map (BitVec.ofNat 8)

/-- The last octet of a frame as it leaves: with scrambling the octets 0x7C at the end of a multiframe and 0xFC at the end of
another frame go as the control characters K28.3 and K28.7; without, an octet that repeats the last one of the frame before,
unless that one was replaced. -/
def lastChar (scr endMulti : Bool) (before : Option Byte) (b : Byte) : Bool × Byte :=
  let k : Byte := if endMulti then 0x7C else 0xFC
  if scr then (b == k, b) else if before = some b then (true, k) else (false, b)

end Sys2Proof.Machine
end

