-- ==== Sys2Proof/Machine/Wave.lean ====
section
/-! DEFINITION. The waveform block's triggers, sensors and levels, as other units reach them (R225, R226, R235 to R240). -/

namespace Sys2Proof.Machine

def voiceOf (v : Nat) (s : State) : Voice := Sparse.get {} s.wav.voices v
def putVoice (v : Nat) (x : Voice) (s : State) : State :=
  { s with wav := { s.wav with voices := Sparse.set {} s.wav.voices v x } }
def outOf (c : Nat) (s : State) : WOut := Sparse.get {} s.wav.outs c
def putOut (c : Nat) (x : WOut) (s : State) : State :=
  { s with wav := { s.wav with outs := Sparse.set {} s.wav.outs c x } }

/-- Does the mode process triggers (R239)? -/
def triggersLive (s : State) : Bool :=
  match s.mode with
  | .idle => true
  | .armed => true
  | .blank => true
  | .print => true
  | .calibrate => true
  | .drain => true
  | .spit => true
  | _ => false

/-- VOICE_TRIGGER (R226): trigger time `t` arrives at voice `v`. -/
def trigger (v t : Nat) (s : State) : State :=
  let x := voiceOf v s
  if 8 ≤ x.q.length then alarmBit R.WAV_STAT 1 45 { line := s.pos.hwm, idx := v } s
  else putVoice v { x with q := x.q ++ [t + rf (R.WAV_VO_DLY v) 0 16 s] } s

/-- The enabled voices with trigger source `src` (R225). -/
def voicesOn (src : Nat) (s : State) : List Nat :=
  (List.range 64).filter (fun v => rb (R.WAV_VO_CFG v) 8 s && rf (R.WAV_VO_CFG v) 0 8 s == src)

/-- A row-group trigger at fire instant `t`: of a fired line, or of an unfired one for BLANKPLAY voices. -/
def rowTrigger (g t : Nat) (fired : Bool) (s : State) : State :=
  if triggersLive s then
    ((voicesOn g s).filter (fun v => fired || rb (R.WAV_VO_CFG v) 9 s)).foldl (fun s v => trigger v t s) s
  else s

/-- A timer trigger: the start of the event's core cycle `c` plus 40 ns (48 core cycles), rounded up to whole 250 ps units
(R225). -/
def timerTrigger (cl t c : Nat) (s : State) : State :=
  let at_ := ceilDiv (10 * (c + 48)) 3
  if triggersLive s then (voicesOn (0x80 + 8 * cl + t) s).foldl (fun s v => trigger v at_ s) s else s

/-! ### Sensors (R235 to R237) -/

/-- k from reading `t` (Q8.8) by the temperature law (R236), in Q2.14. The worked example of R237 takes 15,532 for the exact
15,532.5: rounded down (DEDUCED, log entry 15). -/
def lawK (x : Nat) (t : Int) (s : State) : Int :=
  let alpha := sext 16 (rf (R.WAV_TS_LAW x) 16 16 s)
  let tref := sext 16 (rf (R.WAV_TS_LAW x) 0 16 s)
  16384 + fdiv (alpha * (t - tref)) 512

/-- k held to KMIN and KMAX. -/
def clampK (x : Nat) (k : Int) (s : State) : Nat :=
  (clampI (rf (R.WAV_TS_KLIM x) 0 16 s) (rf (R.WAV_TS_KLIM x) 16 16 s) k).toNat

/-- TEMPERATURE_READING (R236): sensor `x` reads `t`. -/
def reading (x : Nat) (t : Int) (s : State) : State :=
  let s := wf (R.WAV_TS_T x) 0 16 (low 16 t) s
  let s := { s with wav := { s.wav with sens := Sparse.set 0 s.wav.sens x s.time } }
  let s := wb (R.WAV_TS_K x) 17 false s
  if rb (R.WAV_TS_K x) 16 s then s else wf (R.WAV_TS_K x) 0 16 (clampK x (lawK x t s) s) s

/-- A complete PWM period of event input `e` at its rising edge (R235). The quotient's rounding is free. -/
def pwmEdge (e : Nat) (rising : Bool) (t : Nat) (s : State) : State :=
  let x := evOf e s
  match rising, x.lastRise, x.fall with
  | true, some r, some f =>
    if r ≤ f ∧ f ≤ t ∧ r < t ∧ rf (R.POS_EV_CTL e) 0 2 s = 3 then
      ((List.range 16).filter (fun n => rb (R.WAV_TS_SRC n) 0 s && rf (R.WAV_TS_SRC n) 8 4 s == e)).foldl (fun s n =>
        let gain := sext 16 (rf (R.WAV_TS_PWM n) 16 16 s)
        let off := sext 16 (rf (R.WAV_TS_PWM n) 0 16 s)
        let num := gain * ((f - r : Nat) : Int)
        let den : Int := ((t - r : Nat) : Int)
        let q := fdiv num den
        let up := if imod num den = 0 then 0 else if Config.freeBool s.fresh then 1 else 0
        reading n (off + q + up) (drawn s)) s
    else s
  | _, _, _ => s

/-- The JESD204B link starts with code group synchronisation, or its lanes go idle (R239, R241). -/
def jesdStart (s : State) : State :=
  if rf R.WAV_CFG 0 2 s = 0 then s else emit (.jesd 1) (wf R.WAV_JSTAT 1 2 1 s)
def jesdIdle (s : State) : State := wf R.WAV_JSTAT 1 2 0 s

/-- Entry to SAFE or SLEEP (R240). -/
def waveSafe (s : State) : State :=
  { s with wav := { s.wav with
    voices := s.wav.voices.filterMap (fun (v, x) =>
      let y : Voice := { ({} : Voice) with k := x.k }
      if y = {} then none else some (v, y))
    outs := s.wav.outs.filterMap (fun (c, x) =>
      let y : WOut := { x with num := 1, exp := 0 }
      if y = {} then none else some (c, y)) } }

end Sys2Proof.Machine
end

