-- ==== Sys2Proof/Machine/Links.lean ====
section
/-! DEFINITION. Routes, Gen-3 frames, strobes, fires and the Peel's reads (R180 to R206, R215). -/

namespace Sys2Proof.Machine

/-! ### Routes (R187 to R190) -/

/-- The table (false A, true B) that print line q uses (R190). -/
def tableFor (q : Int) (s : State) : Bool :=
  match s.links.routes.find? (fun e => decide (e.1 ≤ q)) with
  | some (_, t) => t
  | none => false

/-- A routed slot: slot number, first nozzle, N_s, GEN, PORT, HLANE, ORDER. -/
structure Route where
  slot : Nat
  first : Nat
  n : Nat
  gen : Nat
  port : Nat
  hlane : Nat
  order : Nat
  deriving DecidableEq, Repr

def routeReg (t : Bool) (e : Nat) : Nat := if t then R.HLK_RTB e else R.HLK_RTA e

/-- The routed slots of row group g under a table. -/
def routesUnder (t : Bool) (g : Nat) (s : State) : List Route :=
  (List.range 16).filterMap (fun l =>
    let a := routeReg t (16 * g + l)
    let (first, n) := slotOf g l s
    if rb a 0 s && n != 0 && rf a 1 2 s != 0 then
      some { slot := l, first := first, n := n, gen := rf a 1 2 s, port := rf a 3 5 s, hlane := rf a 8 4 s
             order := rf a 12 4 s }
    else none)

def routesOf (g : Nat) (q : Int) (s : State) : List Route := routesUnder (tableFor q s) g s

/-- The Gen-3 ports that carry a slot of g at print line q. -/
def g3Ports (g : Nat) (q : Int) (s : State) : List Nat :=
  (((routesOf g q s).filter (fun r => r.gen == 3)).map (fun r => r.port)).eraseDups

/-! ### Gen-3 ports (R196 to R204) -/

def g3Of (k : Nat) (s : State) : G3 := Sparse.get {} s.links.g3 k
def putG3 (k : Nat) (x : G3) (s : State) : State :=
  let s := { s with links := { s.links with g3 := Sparse.set {} s.links.g3 k x } }
  wf (R.HLK_G3P_REPLAY k) 0 14 ((x.replay.map (fun f => f.payload.length / 8 + 3)).sum) s

/-- Lanes of a port by its WIDTH (R196): TX lanes 0 to 3, RX lanes 4 and 5. -/
def portLanes (k : Nat) (s : State) : List Nat :=
  match rf (R.HLK_G3P_CFG k) 0 2 s with
  | 1 => [0, 4]
  | 2 => [0, 1, 4]
  | 3 => if k % 2 = 0 then [0, 1, 2, 3, 4, 5] else []
  | _ => []

/-- Is position k in use: a width of its own, and no four-lane port below it? -/
def portUsed (k : Nat) (s : State) : Bool :=
  portLanes k s != [] && !(k % 2 == 1 && rf (R.HLK_G3P_CFG (k - 1)) 0 2 s == 3)

def lmask (k : Nat) (s : State) : Nat := rf (R.HLK_G3P_STAT k) 0 4 s
def portUp (k : Nat) (s : State) : Bool := rb (R.HLK_G3P_STAT k) 6 s
def portDown (k : Nat) (s : State) : Bool := rb (R.HLK_G3P_STAT k) 7 s

/-- The bytes of a frame with its CRC (R197). -/
def frameBytes (k : Nat) (f : Frame3) (s : State) : List Byte :=
  let h := leBytes 1 (f.typ + 16 * lmask k s) ++ leBytes 1 f.flags ++ leBytes 2 f.seq ++ leBytes 5 (h40 f.q) ++
    leBytes 1 (f.g + 64 * f.w) ++ leBytes 1 f.hlane ++ leBytes 3 f.n ++ leBytes 2 (f.payload.length / 8)
  let b := h ++ f.payload
  b ++ leBytes 4 (crc32c b) ++ leBytes 4 0

/-- Time a frame of m payload words takes on the port, in 250 ps units (6.4 ns a block, R197, R209). -/
def frameTime (k m : Nat) (s : State) : Nat :=
  ceilDiv (ceilDiv (m + 4) (max 1 (bitList (lmask k s) 4).length) * 256) 10

/-- Do Gen-3 lanes carry frames in this mode (R186, R462)? -/
def g3Live (s : State) : Bool := s.mode.fromProof && s.mode != .sleep

/-- Working Peel engines (R217). -/
def peelWorks (s : State) : Bool := rf R.PEEL_PIPE 0 2 s != 0

/-- The blocks of frame bytes `b` on the TX lanes of port k's LMASK, scrambled (R197). -/
def blocksOf (k : Nat) (b : List Byte) (s : State) : List (Nat × Nat × Nat) :=
  scrambleBlocks (fun l => (Config.scrambler66 s.time k l).toNat) (dealt (bitList (lmask k s) 4) (blocks66 b))

/-- Frame `f` leaves port k now: its bytes, and its blocks on the lanes of LMASK (R197). -/
def emitFrame (k : Nat) (f : Frame3) (s : State) : State :=
  let b := frameBytes k f s
  emit (.gen3 k b (blocksOf k b s)) s

/-- A frame leaves port k for the first time, with the port's next SEQ, and is kept until acknowledged (R199). -/
def sendFrame (k : Nat) (f : Frame3) (s : State) : State :=
  let x := g3Of k s
  let e := s.time + frameTime k (f.payload.length / 8) s
  let f := { f with seq := x.seq, sends := 1, sent := e }
  putG3 k { x with seq := (x.seq + 1) % 65536, replay := x.replay ++ [f], freeAt := e } (emitFrame k f s)

/-- The FIRE time last sent for (q, g). -/
def fireTime (g : Nat) (q : Int) (s : State) : Option Nat := ((rgOf g s).fires.find? (fun e => e.1 == q)).map (fun e => e.2)

/-- May a frame of m payload words for (q, g) start to leave port k now (R199)? -/
def beforeCutoff (k g m : Nat) (q : Int) (s : State) : Bool :=
  match fireTime g q s with
  | some t => decide (s.time + frameTime k m s + rf (R.HLK_G3P_RTT k) 0 24 s + 400 ≤ t)
  | none => true

/-- PORT of an alarm (R413). -/
def portCode (gen p : Nat) : Nat :=
  match gen with
  | 1 => p
  | 2 => 16 + p
  | _ => 48 + p

/-- The payload of a TIME frame that starts to leave now (R202). -/
def timePayload (k : Nat) (s : State) : List Byte :=
  leBytes 8 (s.time % 2 ^ 56) ++ leBytes 8 (rf (R.HLK_G3P_RTT k) 0 24 s)

/-- A frame is abandoned (R199, R213, R214). -/
def abandonFrame (k : Nat) (f : Frame3) (s : State) : State :=
  let s := putG3 k { g3Of k s with replay := (g3Of k s).replay.filter (fun y => y.seq != f.seq) } s
  alarmBit R.PEEL_STAT 3 34 { line := f.q, idx := f.g, port := portCode 3 k } s

/-- GEN3_RETRANSMIT (R199, R213): the frame goes out again with RETX and its own SEQ, or is abandoned at a limit. A TIME
frame carries the time at which this copy leaves (R197). -/
def retransmit (k : Nat) (f : Frame3) (s : State) : State :=
  let timed := f.typ == 3
  if rf R.HLK_CFG 8 4 s + 1 ≤ f.sends ∨ (timed = false ∧ beforeCutoff k f.g (f.payload.length / 8) f.q s = false) then
    abandonFrame k f s
  else
    let e := s.time + frameTime k (f.payload.length / 8) s
    let f' := { f with
      sends := f.sends + 1, flags := f.flags ||| 2, sent := e
      payload := if timed then timePayload k s else f.payload }
    let s := addSat (R.HLK_G3P_RETX k) 0 16 1 s
    let x := g3Of k s
    emitFrame k f' (putG3 k { x with
      replay := x.replay.map (fun y => if y.seq = f.seq then f' else y)
      freeAt := e } s)

/-! ### Whose turn it is on a port (R200) -/

/-- Is a TIME frame owed on the port (R202)? -/
def timeOwed (k : Nat) (s : State) : Bool :=
  match (g3Of k s).lastTime with
  | some t => decide (t + 2 ^ 21 ≤ s.time)
  | none => true

/-- Do the links carry what was begun? A transfer follows the mode at its own boundary (R186); lanes and pins are off
before PROOF and in SLEEP. -/
def linksSend (s : State) : Bool := s.mode.fromProof && s.mode != .sleep

/-- No FIRE or HOLD frame leaves within 96 ns before the time last sent (R201); once a fire that was not withdrawn is past,
none leaves for it at all. -/
def frozen (g : Nat) (q : Int) (s : State) : Bool :=
  match (rgOf g s).sent with
  | some (q', t, hold) => q' == q && decide (t ≤ s.time + 384) && (!hold || decide (s.time < t))
  | none => false

/-- Does the instant lie within FIREWIN of the present (R201)? -/
def inFireWin (t : Nat) (s : State) : Bool := decide (t ≤ s.time + 40 * rf R.HLK_CFG 16 8 s)

/-- The fire instant of g's next fire extrapolated from v beyond the next count (R201). -/
def extrapolated (g : Nat) (s : State) : Option (Fire × Nat) :=
  if firesOn g s then (reachTime (thetaOf g s) s).map (fun e => (nextFire g s, e.1.toNat)) else none

/-- Does a Gen-3 port that carries a slot of g stand down (R204)? -/
def groupDown (g : Nat) (q : Int) (s : State) : Bool := (g3Ports g q s).any (fun k => portDown k s)

/-- Does row group g fire this line: by the mode of its boundary (R36), and no port of its own down (R204)? -/
def lineFires (g : Nat) (f : Fire) (s : State) : Bool := f.fires && !groupDown g f.q s

/-- The fire whose first FIRE frame is due now, with its instant (R201). -/
def fireReady (g : Nat) (s : State) : Option (Fire × Nat) :=
  match extrapolated g s with
  | some (f, t) =>
    let sentNow := match (rgOf g s).sent with
      | some (q, _, hold) => q == f.q && !(hold && !frozen g q s)
      | none => false
    if lineFires g f s && linksSend s && peelWorks s && !sentNow && g3Ports g f.q s != [] && !(rgOf g s).cancelled
        && decide (s.time ≤ t) && inFireWin t s then some (f, t) else none
  | none => none

/-- Is a first FIRE frame due on the port? -/
def fireOwed (k : Nat) (s : State) : Bool :=
  (usedGroups s).any (fun g => match fireReady g s with
    | some (f, _) => (g3Ports g f.q s).contains k
    | none => false)

/-- Frames that wait leave while the port is free: FIRE frames, then retransmissions in increasing SEQ, which stand behind a
FIRE or TIME frame that is due (R200). After NOPEEL none leaves (R219). -/
def portTurn (k : Nat) : (fuel : Nat) → State → State
  | 0, s => s
  | n + 1, s =>
    let x := g3Of k s
    if g3Live s && portUp k s && peelWorks s && decide (x.freeAt ≤ s.time) then
      match x.fires with
      | f :: r => portTurn k n (sendFrame k f (putG3 k { x with fires := r } s))
      | [] =>
        if x.again = [] then s
        else if timeOwed k s || fireOwed k s then s
        else
          match x.replay.find? (fun f => x.again.contains f.seq) with
          | some f => portTurn k n (retransmit k f (putG3 k { x with again := x.again.filter (fun q => q != f.seq) } s))
          | none => putG3 k { x with again := [] } s
    else s

def portServe (k : Nat) (s : State) : State := portTurn k ((g3Of k s).fires.length + (g3Of k s).again.length + 1) s

/-- The frame of SEQ `q` is to go out again (R199). -/
def sendAgain (k q : Nat) (s : State) : State :=
  let x := g3Of k s
  portServe k (putG3 k { x with again := x.again.filter (fun y => y != q) ++ [q] } s)

/-- Every port sends what waits for its turn. -/
def servePorts (s : State) : State := (List.range 8).foldl (fun s k => portServe k s) s

/-! ### FIRE frames (R201) -/

/-- A FIRE frame (HOLD set or not) for (q, g) on the ports `ps`; after NOPEEL none is sent (R219). -/
def sendFireOn (ps : List Nat) (g : Nat) (q : Int) (t : Nat) (hold : Bool) (s : State) : State :=
  if peelWorks s then
    let x := rgOf g s
    let s := putRg g { x with
      sent := some (q, t, hold)
      fires := ((q, t) :: x.fires.filter (fun e => e.1 != q)).take 16 } s
    ps.foldl (fun s k => if portUp k s then
      portServe k (putG3 k { g3Of k s with
        fires := (g3Of k s).fires ++ [{ seq := 0, typ := 2, q := q, g := g, w := widthG g s
                                        flags := if hold then 32 else 0
                                        payload := leBytes 7 (t % 2 ^ 56) ++ [0] }] } s) else s) s
  else s

/-- A FIRE frame for (q, g) on every Gen-3 port that carries a slot of g. -/
def sendFire (g : Nat) (q : Int) (t : Nat) (hold : Bool) (s : State) : State := sendFireOn (g3Ports g q s) g q t hold s

/-- A HOLD frame follows a FIRE frame already sent for (q, g). -/
def holdFrame (g : Nat) (q : Int) (s : State) : State :=
  match (rgOf g s).sent with
  | some (q', t, false) => if q' = q ∧ frozen g q s = false then sendFire g q t true s else s
  | _ => s

/-- A FIRE frame sent for a line that is not to fire after all is withdrawn with HOLD (R36, R201, R204; DEDUCED, log
entry 65). -/
def withdrawFires (s : State) : State :=
  (usedGroups s).foldl (fun s g =>
    match (rgOf g s).sent with
    | some (q, _, false) =>
      let f := nextFire g s
      if f.q = q ∧ lineFires g f s = false ∧ (rgOf g s).fired ≠ some q then holdFrame g q s else s
    | _ => s) s

/-- FIRE_FRAME_UPDATE (R201) after a count: a prediction moved by 1 ns or more, a placement that returns after HOLD, or a
reversal before θ. -/
def fireUpdates (s : State) : State :=
  (usedGroups s).foldl (fun s g =>
    match (rgOf g s).sent with
    | some (q, t, hold) =>
      if (rgOf g s).fired = some q ∨ frozen g q s then s
      else
        match extrapolated g s with
        | some (f, t') =>
          if f.q = q ∧ lineFires g f s ∧ (rgOf g s).cancelled = false ∧
            (if hold then inFireWin t' s else 4 ≤ ((t' : Int) - t).natAbs) then sendFire g q t' false s else s
        | none => holdFrame g q s
    | none => s) (withdrawFires s)

/-! ### Strobes (R205, R206) -/

/-- While EXTEST holds the scanned pins, the tile's own signals do not reach them (R483). -/
def emitPin (o : Out) (s : State) : State := if s.jtag.ir = 0 then s else emit o s

/-- A strobe output falls at `t`. -/
def strobeFall (o t : Nat) (s : State) : State :=
  emitPin (.strobe o false t) { s with links := { s.links with high := Sparse.set none s.links.high o none } }

/-- The end of the pulse of output `o` that rose at `r` (R205); the spec gives PSTB no width. -/
def pulseEnd (o r : Nat) (s : State) : Nat := r + rf (R.HLK_STB o) 16 16 s

/-- The pulse of output `o` is cut short 2.0 ns before the fire at `t` of print line q (R205). -/
def cutPulse (o t : Nat) (q : Int) (g : Nat) (s : State) : State :=
  alarmBit R.PEEL_STAT 7 38 { line := q, idx := g } (strobeFall o (t - 8) s)

/-- The instant at which row group g's next fire is placed or locked, if it fires (R69, R70). -/
def nextInstant (g : Nat) (s : State) : Option Nat :=
  if lineFires g (nextFire g s) s then (lockedAt g s).orElse (fun _ => (armedPlacement g s).map (fun e => e.2)) else none

/-- A strobe output rises at `t`; a pulse still high 2.0 ns before falls then (STBSHORT). -/
def strobeRise (o t : Nat) (q : Int) (g : Nat) (s : State) : State :=
  let s := match Sparse.get none s.links.high o with
    | some r =>
      if o < 32 ∧ pulseEnd o r s + 8 ≤ t then strobeFall o (pulseEnd o r s) s else cutPulse o t q g s
    | none => s
  emitPin (.strobe o true t) { s with links := { s.links with high := Sparse.set none s.links.high o (some t) } }

/-- Is a word or frame of q unsent on this port? -/
def unsentOn (gen port : Nat) (q : Int) (s : State) : Bool :=
  s.links.xfers.any (fun x => x.gen == gen && x.port == port && x.q == q)

/-- Is strobe output `o` suppressed for print line q (R206)? -/
def suppressed (o g : Nat) (q : Int) (s : State) : Bool :=
  let sel := rf (R.HLK_STB o) 6 6 s
  let ports := (routesOf g q s).map (fun r => (r.gen, r.port))
  !peelWorks s ||
    (!(rgOf g s).began.contains q && (if sel < 4 then ports.contains (1, sel)
      else if 16 ≤ sel ∧ sel < 40 then ports.contains (2, sel - 16)
      else sel = 63 && ports.any (fun e => e.1 != 3))) ||
    (if sel < 4 then unsentOn 1 sel q s
     else if 16 ≤ sel ∧ sel < 40 then unsentOn 2 (sel - 16) q s
     else if sel = 63 then ports.any (fun e => e.1 != 3 && unsentOn e.1 e.2 q s)
     else false)

/-- The strobes of row group g at `t` for print line q, PSTB of its Gen-1 ports among them (R193). -/
def pulse (g t : Nat) (q : Int) (late : List (Nat × Nat)) (sup : List Nat) (s : State) : State :=
  let outs := (List.range 32).filter (fun o => rb (R.HLK_STB o) 12 s && rf (R.HLK_STB o) 0 6 s == g && !sup.contains o)
  let ps := if peelWorks s then
      (((routesOf g q s).filter (fun r => r.gen == 1)).map (fun r => r.port)).eraseDups.filter
        (fun p => !late.contains (1, p))
    else []
  let s := outs.foldl (fun s o => strobeRise o t q g s) s
  ps.foldl (fun s p => strobeRise (32 + p) t q g s) s

/-- Order of transfers on a port: print line, ORDER, row group (R188). -/
def before (x y : Xfer) : Bool :=
  decide (x.q < y.q) || (x.q == y.q && (decide (x.order < y.order) || (x.order == y.order && decide (x.g ≤ y.g))))

/-- The first of a list of transfers. -/
def firstXfer : List Xfer → Option Xfer
  | [] => none
  | x :: r =>
    match firstXfer r with
    | none => some x
    | some y => if before x y then some x else some y

def onPort (gen p : Nat) (s : State) : List Xfer := s.links.xfers.filter (fun x => x.gen == gen && x.port == p)

/-- A slot's code stream as one number (R192). -/
def streamNat (x : Xfer) : Nat := pack x.w (x.codes.map (fun c => c % 2 ^ x.w))

/-- Header and payload of a Gen-2 frame (R194). -/
def gen2Bytes (x : Xfer) : List Byte :=
  let n := x.codes.length
  leBytes 2 (h40 x.q % 65536) ++ leBytes 1 (x.g + 64 * x.w) ++
    leBytes 1 (x.hlane + 16 * b2n x.pois + 32 * b2n x.noFire) ++ leBytes 2 (n % 65536) ++ leBytes 1 (n / 65536 % 2) ++ [0] ++
    leBytes (ceilDiv (n * x.w) 8) (streamNat x)

/-- A Gen-2 frame leaves its pair, with the idle set after it, in the 10-bit codes that follow from the pair's running
disparity (R194). -/
def emitGen2 (k : Nat) (body : List Byte) (abort : Bool) (s : State) : State :=
  let chars := gen2Chars body abort
  let (code, rd) := encodeChars (Sparse.get 0 s.links.rd2 k != 0) chars
  emitPin (.gen2 k chars code) { s with links := { s.links with rd2 := Sparse.set 0 s.links.rd2 k (b2n rd) } }

/-- The frame in progress on pair k, where it is one of print line q, ends in ABORT (R215). Whether the pair's first unsent
frame has begun, and how many of its bytes have left, is open (log entry 44): free. -/
def abortGen2 (k : Nat) (q : Int) (s : State) : State :=
  match firstXfer (onPort 2 k s) with
  | some x =>
    if x.q = q ∧ Config.freeBool s.fresh then
      let b := gen2Bytes x
      emitGen2 k (b.take (Config.freeNat (s.fresh + 1) % (b.length + 1))) true (drawn (drawn s))
    else drawn (drawn s)
  | none => s

/-- SAFE entry on pair k (R462): the frame in progress ends in ABORT; whether the first unsent frame has begun is free (log
entry 44). -/
def cutGen2 (k : Nat) (s : State) : State :=
  match firstXfer (onPort 2 k s) with
  | some x => abortGen2 k x.q s
  | none => s

/-- The ports of row group g that have a word or frame of q unsent. A line that fires although its transfer boundary lay in a
mode that does not send is unsent on every port (DEDUCED, log entry 17). -/
def latePorts (g : Nat) (q : Int) (fires : Bool) (s : State) : List (Nat × Nat) :=
  let ports := ((routesOf g q s).map (fun r => (r.gen, r.port))).eraseDups
  if fires && peelWorks s && !(rgOf g s).began.contains q then ports
  else ports.filter (fun e => s.links.xfers.any (fun x => x.gen == e.1 && x.port == e.2 && x.q == q && !x.spit))

/-- TRANSFER_INCOMPLETE (R215): the unsent words and frames of q on those ports are abandoned with LINKLATE, port by port, a
Gen-2 frame in progress with ABORT; answers the state and the (generation, port) pairs. -/
def dropUnsent (g : Nat) (q : Int) (fires : Bool) (s : State) : State × List (Nat × Nat) :=
  let late := latePorts g q fires s
  let s := late.foldl (fun s e => if e.1 = 2 then abortGen2 e.2 q s else s) s
  let s := { s with links := { s.links with
    xfers := s.links.xfers.filter (fun x => !(x.q == q && !x.spit && late.contains (x.gen, x.port))) } }
  (late.foldl (fun s e =>
    addSat R.PEEL_LATECNT 16 16 1 (alarmBit R.PEEL_STAT 2 33 { line := q, idx := g, port := portCode e.1 e.2 } s)) s, late)

/-- Row group g fires print line f.q at `t` (R22, R36, R69 to R73, R205, R206, R215, R225): a line withdrawn by HOLD triggers
no voice, and in SPIT only the spit fires do. -/
def fireNow (g : Nat) (f : Fire) (t : Nat) (s : State) : State :=
  let sup := (List.range 32).filter (fun o => suppressed o g f.q s)
  let (s, late) := dropUnsent g f.q f.fires s
  let x := rgOf g s
  let s := putRg g { x with pend := none, elk := none, kept := none, fired := some f.q } s
  let ports := g3Ports g f.q s
  let live := lineFires g f s && s.mode != .safe
  let s := if live then pulse g t f.q late sup s else s
  if s.mode = .spit then s
  else if ports = [] then rowTrigger g t live s
  else
    match x.sent with
    | some (q, t', hold) =>
      if q = f.q then (if hold then s else rowTrigger g t' live s) else rowTrigger g t false s
    | none => rowTrigger g t false s

/-! ### The Peel's read (R180 to R184) -/

/-- What a read of an image line finds for a row group. -/
inductive PeelRead
  | zero
  | late
  | data (segs : List (List Nat)) (poison : List Bool) (red : Bool)
  deriving DecidableEq, Repr

/-- Address of byte `o` of the record that starts at block `b`. -/
def recAddr (b o : Nat) : Nat := blockAddr (b + o / 64) + o % 64

/-- `n` bytes of the record from offset `o`. -/
def readRec (b o n : Nat) (s : State) : List Byte := (List.range n).map (fun k => mb (recAddr b (o + k)) s)

/-- The uncorrectable words that a read of the `n` bytes at the addresses `a 0`, `a 1`, … meets, in order. -/
def wordsMet (a : Nat → Nat) (n : Nat) (s : State) : List Nat :=
  if s.ue = [] then []
  else (((List.range n).map (fun k => a k / 8 * 8)).eraseDups).filter (fun w => s.ue.contains w)

/-- The uncorrectable words among `n` bytes of the record from `o`. -/
def recUes (b o n : Nat) (s : State) : List Nat := wordsMet (fun k => recAddr b (o + k)) n s

/-- An uncorrectable line-store word was read (R175). -/
def lineStoreUe (a : Nat) (s : State) : State :=
  s |> wr R.LST_UEADDR (BitVec.ofNat 32 (a % 2 ^ 27 / 64 * 64)) |> addSat R.LST_ECCCNT 16 16 1
    |> alarmBit R.LST_STAT 4 25 { addr := a / 64 * 64 }

/-- Segment `j` of the line (directory entry sg + j) of row group g: codes, poison mark, the poisoned words met. What a
malformed segment of the store gives is open: free codes (log entry 119: DESIGN CHOICE). -/
def readSegment (b len sg j w : Nat) (blk : List Byte) (buf : Option CopyBuf) (i : Int) (s : State) :
    List Nat × Bool × List Nat :=
  let z := List.replicate 256 0
  let (o, n) := bodySpan blk (sg + j) w
  let dir := recUes b (64 + 2 * (sg + j)) 2 s
  let body := if dir = [] then recUes b (64 + o) (min n (64 * len)) s else []
  if dir ++ body ≠ [] then (z, true, dir ++ body)
  else
    match decodeSeg blk (sg + j) w with
    | .codes c => (c, false, [])
    | .copy =>
      match buf with
      | some c => if c.line + 1 = i ∧ c.poison.getD j true = false then (c.segs.getD j z, false, [])
          else (z, true, [])
      | none => (z, true, [])
    | .bad => ((List.range 256).map (fun k => Config.freeNat (s.fresh + k) % 2 ^ w), false, [])

/-- The read of line `i` for row group g, with the poisoned words met (R181, R184); `entryBad` where the
entry or the header was poisoned. -/
def peelLine (g : Nat) (i : Int) (s : State) : PeelRead × List Nat × Bool :=
  let w := widthG g s
  let n := paddedOf g s / 256
  let sg := segsBefore g s
  let known := isDue i s && (match s.first with
    | some e => decide (e ≤ i)
    | none => false)
  if known = false then (.zero, [], false)
  else
    let ea := lineStoreBase + 8 * entryIx i s
    if compressed s && ueIn ea 8 s then (.late, [ea], true)
    else
      let e := readEntry i s
      if bitN e 48 = false then (.late, [], false)
      else if bitN e 49 then (.zero, [], false)
      else if bitsN e 32 16 ≠ h40 i % 65536 then (.late, [], false)
      else if compressed s then
        let b := bitsN e 0 21
        let len := bitsN e 21 10
        if recUes b 0 64 s ≠ [] then (.late, recUes b 0 64 s, true)
        else
          let h := readRec b 0 64 s
          if getLE h 3 1 ≠ 0xB7 ∨ getLE h 4 5 ≠ h40 i then (.late, [], false)
          else
            let blk := readRec b 64 (64 * len - 64) s
            let buf := Sparse.get none s.links.copy g
            let segs := (List.range n).map (fun j => readSegment b len sg j w blk buf i s)
            (.data (segs.map (fun x => x.1)) (segs.map (fun x => x.2.1)) (bitN (getLE h 8 4) 24),
             (segs.flatMap (fun x => x.2.2)).eraseDups, false)
      else
        let base := lineStoreBase + 0xC000 * entryIx i s
          + (((usedGroups s).filter (fun h => decide (h < g))).map (fun h => paddedOf h s * widthG h s / 8)).sum
        let segs := (List.range n).map (fun j =>
          let a := base + 32 * w * j
          let met := wordsMet (fun k => a + k) (32 * w) s
          if met ≠ [] then (List.replicate 256 0, true, met)
          else (unpack w 256 (readN a (32 * w) s), false, ([] : List Nat)))
        (.data (segs.map (fun x => x.1)) (segs.map (fun x => x.2.1)) false, segs.flatMap (fun x => x.2.2), false)

def putCopy (g : Nat) (c : Option CopyBuf) (s : State) : State :=
  { s with links := { s.links with copy := Sparse.set none s.links.copy g c } }

/-- A read with its effects on the copy buffer and its alarms; `quiet` for the read of R183 that only refills the buffer.
Answers the codes to send (none: 0 at every nozzle), poison marks by segment, RED. -/
def peelDo (g : Nat) (q i : Int) (quiet : Bool) (s : State) : State × Option (List (List Nat)) × List Bool × Bool :=
  let (r, bad, entryBad) := peelLine g i s
  let s := { s with fresh := s.fresh + 256 }
  let s := bad.foldl (fun s a => lineStoreUe a s) s
  let marked : Bool := match r with
    | .data _ poison _ => poison.any id
    | _ => false
  let s := if (bad ≠ [] ∨ marked) ∧ quiet = false then
    alarmBit R.PEEL_STAT 1 32 { line := q, idx := g, addr := bad.headD 0 / 64 * 64 } s else s
  match r with
  | .data segs poison red =>
    let s := putCopy g (some { line := i, segs := segs, poison := poison, red := red }) s
    let s := if quiet then s else addSat R.PEEL_UECNT 0 16 ((poison.filter id).length) s
    (s, some segs, poison, red)
  | .zero => (if quiet then putCopy g none s else s, none, [], false)
  | .late =>
    let s := if quiet ∨ entryBad then putCopy g none s else s
    let s := if quiet then s else
      addSat R.PEEL_LATECNT 0 16 1 (alarmBit R.PEEL_STAT 0 31 { line := q, idx := g, addr := h40 i } s)
    (s, none, [], false)

/-- Does the Peel read in this mode, and does it send (R38, R186)? -/
def peelReads (s : State) : Bool :=
  s.mode == .armed || s.mode == .print || s.mode == .blank || s.mode == .calibrate || s.mode == .drain
def peelSends (s : State) : Bool := peelReads s && s.mode != .armed

/-- The transfers of (q, g) queued to their ports under the table of print line `tq` (R185, R188, R190). -/
def queueXfers (g : Nat) (q tq : Int) (codes : List Nat) (poison : List Bool) (red noFire spit zero : Bool) (s : State) : State :=
  let new := (routesOf g tq s).map (fun r =>
    { q := q, g := g, gen := r.gen, port := r.port, hlane := r.hlane, order := r.order, w := widthG g s
      codes := (let l := (codes.drop r.first).take r.n; l ++ List.replicate (r.n - l.length) 0)
      pois := (List.range poison.length).any (fun j =>
        poison.getD j false && decide (256 * j < r.first + r.n ∧ r.first < 256 * j + 256))
      red := red, noFire := noFire, spit := spit, zero := zero : Xfer })
  { s with links := { s.links with xfers := s.links.xfers ++ new } }

/-- The image line i for row group g at delay n (R181 to R184): the copy buffer where it holds the line and n rose by one;
else a read, twice where n fell by one. State, codes, poison marks, REDUCED. -/
def peelTake (g : Nat) (q i n : Int) (s : State) : State × Option (List (List Nat)) × List Bool × Bool :=
  let prev := Sparse.get none s.links.prevN g
  let s := { s with links := { s.links with prevN := Sparse.set none s.links.prevN g (some n) } }
  match Sparse.get none s.links.copy g with
  | some c =>
    if prev = some (n - 1) ∧ c.line = i then (s, some c.segs, c.poison, c.red)
    else peelDo g q i false (if prev = some (n + 1) then (peelDo g q (i - 1) true s).1 else s)
  | none => peelDo g q i false (if prev = some (n + 1) then (peelDo g q (i - 1) true s).1 else s)

/-- PEEL_READ (R180 to R186) for row group g at the boundary of `b`: Q = b + lead_g. -/
def peelRead (b : Int) (g : Nat) (s : State) : State :=
  let q := b + leadOf g s
  let (n, f) := splitOffset g s
  let x := rgOf g s
  let s := putRg g { x with taken := ((q, n, f) :: x.taken).take 8 } s
  if peelReads s && peelWorks s then
    let r := peelTake g q (q - delayOf g s - n) n s
    if peelSends r.1 then
      let s := putRg g { rgOf g r.1 with began := (q :: (rgOf g r.1).began).take 8 } r.1
      queueXfers g q q ((r.2.1.getD []).flatten.take (nozzlesOf g s)) r.2.2.1 r.2.2.2 (s.mode == .blank) false r.2.1.isNone s
    else r.1
  else s

end Sys2Proof.Machine
end

