-- ==== Sys2Proof/Machine/Route.lean ====
section
/-! DEFINITION. The nodes of the tile fabric and the ways over them (R384, R385, R388, R400): where units attach, the route
from one node to another, and which accesses a dead node stops. -/

namespace Sys2Proof.Machine

/-- Nodes of the clusters and of the store slices (R384). -/
def clusterNode (n : Nat) : Nat := 5 * (n / 4) + (if n % 4 < 2 then n % 4 else n % 4 + 1)
def sliceNode (j : Nat) : Nat := 5 * j + 2

/-- Nodes of the tile-level blocks in the order of R391. The table of R384 does not place the line store's registers: the
model puts them beside the codec (log entry 125: DESIGN CHOICE). -/
def tileNodes : List Nat := [17, 17, 7, 7, 7, 7, 12, 12, 12, 17, 2, 2, 2, 2]

/-- The next node on the way from `a` to `b`: along the row to its column first (R388). -/
def nextNode (a b : Nat) : Nat :=
  if a % 5 < b % 5 then a + 1 else if b % 5 < a % 5 then a - 1 else if a < b then a + 5 else a - 5

/-- The nodes from `a` on to `b`. -/
def routeNodes : (fuel : Nat) → (a b : Nat) → List Nat
  | 0, a, _ => [a]
  | n + 1, a, b => if a = b then [a] else a :: routeNodes n (nextNode a b) b

/-- Does node `n` forward nothing any more (R400)? -/
def deadNode (n : Nat) (s : State) : Bool := Sparse.get 2 s.fab.copies n == 0

/-- Does the fabric carry an access from node `a` to node `b` and its answer back (R400)? One that stays at its node crosses
nothing (log entry 125: DEDUCED). -/
def carries (a b : Nat) (s : State) : Bool :=
  a == b || (s.fab.copies == []) || (routeNodes 8 a b ++ routeNodes 8 b a).all (fun n => !deadNode n s)

/-- The clusters that index `i` of the cluster register blocks addresses (R8, R392); none: reserved, or an empty group. -/
def addressed (i : Nat) (s : State) : List Nat :=
  if i < 16 then [i]
  else if 0x18 ≤ i ∧ i < 0x1C then bitList (rf (R.FAB_GROUP (i - 0x18)) 0 16 s) 16
  else if i = 0x1F then List.range 16
  else []

/-- The nodes that hold the place at `a`: several for an alias, none where nothing lies there. -/
def nodesOf (a : Nat) (s : State) : List Nat :=
  match placeOf a with
  | .lineStore => [sliceNode (a / 64 % 4)]
  | .tileStore => [sliceNode (a / 64 % 4)]
  | .pantry cl => [clusterNode cl]
  | .localRam cl _ => [clusterNode cl]
  | .tileReg => (tileNodes[(a - 0x300000000) / 0x10000]?).toList
  | .clusterReg i => (addressed i s).map clusterNode
  | .nowhere => []

/-- The node from which `w` accesses the fabric. -/
def writerNode (w : Writer) : Nat :=
  match w with
  | .ctx cl _ _ => clusterNode cl
  | .dma cl _ => clusterNode cl
  | _ => 2

/-- Does the fabric carry an access by `w` to the place at `a`? -/
def carried (w : Writer) (a : Nat) (s : State) : Bool := (nodesOf a s).all (fun n => carries (writerNode w) n s)

end Sys2Proof.Machine
end

