-- ==== Sys2Proof/Machine/Modes.lean ====
section
/-! DEFINITION. Modes (R36 to R43, R451 to R462): how a mode is entered, what forces one, how a request is decided,
renumbering (R493), SLEEP and wake. -/

namespace Sys2Proof.Machine

/-- The number of a mode (R39). -/
def Mode.num : Mode → Nat
  | .cold => 0
  | .load => 1
  | .proof => 2
  | .idle => 3
  | .armed => 4
  | .print => 5
  | .blank => 6
  | .spit => 7
  | .calibrate => 8
  | .drain => 9
  | .sleep => 10
  | .safe => 11

/-- Does the mode compose new image lines (R38)? -/
def composes (m : Mode) : Bool := m == .armed || m == .print || m == .blank || m == .calibrate

/-- PREP (R25). -/
def prepOf (s : State) : Nat := rf R.TIL_PREP 0 7 s

/-! ### Standing forced conditions (R456, R472) -/

/-- TIL_FORCE.ENC: encoder loss without failover, until POS_STAT.ENCLOSS is cleared. -/
def encStands (s : State) : Bool := s.pos.lossForces && rb R.POS_STAT 3 s

/-- TIL_FORCE as a read shows it. -/
def forceBits (s : State) : Word := putBit (rd R.TIL_FORCE s) 7 (encStands s)

/-- Does a condition stand that forces SAFE? NOPEEL, NOWAV, NOXB, NOCTL, encoder loss. -/
def safeStands (s : State) : Bool := fld (forceBits s) 3 5 != 0

/-- Does NOLANE, NOPIPE or NOCODEC stand? -/
def blankStands (s : State) : Bool := fld (forceBits s) 0 3 != 0

/-- Is the print gate open now (R457)? -/
def gateOpen (s : State) : Bool :=
  !rb R.TIL_CFG 5 s || (evOf (rf R.TIL_CFG 0 4 s) s).level == rb R.TIL_CFG 6 s

/-! ### Entering a mode -/

/-- The greatest image line that has fallen due. -/
def maxDue (s : State) : Option Int :=
  s.due.foldl (fun m e => match m with
    | some x => some (max x e.2)
    | none => some e.2) none

def atMost (e : Int) (l : Option Int) : Option Int :=
  match l with
  | some x => if e ≤ x then some (e - 1) else some x
  | none => none

/-- Every slice changed. -/
def mapSlices (f : Slice → Slice) (s : State) : State :=
  (List.range 16).foldl (fun s cl => onSlice cl f s) s

/-- A composing mode is entered from one that does not compose (R37): E = P_e + PREP, and the lines from E on whose
boundaries have occurred fall due (R26: none where the boundary of P_e lies ahead). Work on lines at or above E from an
earlier run is dropped. P_e is the line at this entry, after SLEEP too, where R41 names the line at the entry to IDLE (log
entry 108: DESIGN CHOICE). -/
def enterComposing (s : State) : State :=
  let e := fdiv (pOf s) 256 + prepOf s
  let top := s.pos.hwm + prepOf s
  let old := (s.due.map (fun x => (x.1, min x.2 (e - 1)))).filter (fun x => decide (x.1 ≤ x.2))
  let s := { s with
    first := some e, due := if e ≤ top then (e, top) :: old else old
    cmp := { s.cmp with composed := s.cmp.composed.filter (fun x => decide (x.2.1 < e)) }
    lst := { s.lst with
      lastCond := atMost e s.lst.lastCond
      busy := match s.lst.busy with
        | some c => if c.line < e then some c else none
        | none => none } }
  mapSlices (fun x => { x with
    last := atMost e x.last
    again := atMost e x.again
    cur := match x.cur with
      | some i => if i < e then some i else none
      | none => none
    testing := x.testing && (match x.cur with
      | some i => decide (i < e)
      | none => false) }) s

/-- Every slice that is free begins its next line; conditioning goes on (R26, R135). -/
def settle (s : State) : State := conditionNext (beginAll s)

/-- The prediction that row group g's port still holds is withdrawn by a HOLD frame (R201, R462). -/
def withdrawSent (g : Nat) (s : State) : State :=
  match (rgOf g s).sent with
  | some (q, _, false) => if (rgOf g s).fired = some q then s else holdFrame g q s
  | _ => s

/-- SAFE entry (R462, R240): the line units stop, outputs go low, HOLD follows every FIRE frame of a pending fire; what
was not yet stored is abandoned, a Gen-2 frame in progress with ABORT. Fires pending at the entry do not fire (DESIGN
CHOICE, log entry 16). -/
def safeEntry (s : State) : State :=
  let s := (usedGroups s).foldl (fun s g =>
    let s := withdrawSent g s
    putRg g { rgOf g s with pend := (rgOf g s).pend.map (fun f => { f with fires := false }) } s) s
  let last := maxDue s
  let s := mapSlices (fun x => { x with cur := none, testing := false, again := none, last := match last with
    | some _ => last
    | none => x.last }) s
  let s := (List.range 24).foldl (fun s k => cutGen2 k s) s
  waveSafe { s with
    cmp := { s.cmp with composed := [] }
    lst := { s.lst with busy := none, lastCond := match last with
      | some _ => last
      | none => s.lst.lastCond }
    links := { s.links with xfers := [], spit := [] } }

/-- What the registers and the mode show of a change of mode (R453, R472): TIL_MODE, TIL_MCHG, TIL_MCHGCNT; a forced
change raises MODEFORCE (R470) and marks its core cycle (R451); I_last is taken at the entry to DRAIN (R40). -/
def noteMode (m : Mode) (cause : Nat) (forced : Bool) (s : State) : State :=
  let from_ := s.mode
  let s := addSat R.TIL_MCHGCNT 0 16 1 (wrLine R.TIL_MCHGL R.TIL_MCHGH s.pos.hwm s)
  let s := if forced then
    tileAlarm 0x30 { idx := cause } (addSat R.TIL_MCHGCNT 16 16 1 s) else s
  { s with mode := m, prev := from_, cause := cause, gateBlank := false
           forcedAt := if forced then some (coreCycle s) else s.forcedAt
           iLast := if m = .drain then maxDue s else none }

/-- Strobe outputs are low in a mode that does not fire (R205). -/
def lowerOutputs (m : Mode) (s : State) : State :=
  if firesIn m || m == .spit then s else s.links.high.foldl (fun s e => strobeFall e.1 s.time s) s

/-- The spit line ends with SPIT (R207). -/
def leaveSpit (from_ : Mode) (s : State) : State :=
  if from_ = .spit then
    { s with links := { s.links with spit := [], xfers := s.links.xfers.filter (fun x => !x.spit) } }
  else s

/-- SAFE stops the line units and an entry to SLEEP (R462). -/
def intoSafe (m : Mode) (s : State) : State := if m = .safe then safeEntry { s with sleepEntry := false } else s

/-- The line schedule starts where a composing mode follows one that does not compose (R37). -/
def intoComposing (m from_ : Mode) (s : State) : State :=
  if composes m && !composes from_ then settle (enterComposing s) else s

/-- A change of mode (R453): what it shows, and what leaving and entering the modes brings. -/
def setMode (m : Mode) (cause : Nat) (forced : Bool) (s : State) : State :=
  intoComposing m s.mode (withdrawFires (intoSafe m (lowerOutputs m (leaveSpit s.mode (noteMode m cause forced s)))))

/-! ### Forced transitions (R456) -/

/-- A condition forces SAFE from every mode of PROOF onward; in SLEEP it acts at wake. -/
def forceSafe (cause : Nat) (s : State) : State :=
  if s.mode.fromProof && s.mode != .safe && s.mode != .sleep then setMode .safe cause true s else s

/-- Forced BLANK at the boundary of the modes it applies in. -/
def forceBlank (cause : Nat) (s : State) : State := setMode .blank cause true s

/-- Does NOLANE, NOPIPE or NOCODEC, or a line dropped at ring full, force BLANK from this mode? -/
def blankable (m : Mode) : Bool := m == .print || m == .calibrate || m == .drain

/-- The forced BLANK of R452, at the start of the boundary: ring full (cause 5) or mismatch policy (cause 6). -/
def boundaryStartBlank (s : State) : State :=
  let due := s.blankDue
  let s := { s with blankDue := [] }
  match due.find? (fun c => if c = 5 then blankable s.mode else s.mode == .print) with
  | some c => forceBlank c (if c = 6 then wb R.SYN_ALM 6 true s else s)
  | none => s

/-- The gate sample and the forced BLANKs that R36 puts after the boundary; the gate's return to PRINT (R456, R457). -/
def boundaryEndForce (s : State) : State :=
  let closed := !gateOpen s
  let s := wb R.TIL_FORCE 8 closed s
  if blankStands s && blankable s.mode then
    forceBlank (if rb R.TIL_FORCE 0 s then 8 else if rb R.TIL_FORCE 1 s then 9 else 10) s
  else if closed && s.mode == .print then { forceBlank 3 s with gateBlank := true }
  else if !closed && s.gateBlank && s.mode == .blank && rb R.TIL_CFG 7 s && rb R.SYN_STAT 0 s && !(forceBits s != 0) then
    setMode .print 4 true s
  else s

/-! ### Requests (R451, R453, R455) -/

/-- Does the transition table allow the change by request? -/
def requestAllowed (from_ to_ : Mode) : Bool :=
  match from_, to_ with
  | .idle, .armed => true
  | .idle, .spit => true
  | .idle, .calibrate => true
  | .idle, .sleep => true
  | .idle, .safe => true
  | .armed, .print => true
  | .armed, .blank => true
  | .armed, .calibrate => true
  | .armed, .idle => true
  | .armed, .safe => true
  | .print, .armed => true
  | .print, .blank => true
  | .print, .drain => true
  | .print, .safe => true
  | .blank, .print => true
  | .blank, .armed => true
  | .blank, .drain => true
  | .blank, .idle => true
  | .blank, .safe => true
  | .spit, .idle => true
  | .spit, .safe => true
  | .calibrate, .idle => true
  | .calibrate, .safe => true
  | .drain, .blank => true
  | .drain, .idle => true
  | .drain, .safe => true
  | .sleep, .idle => true
  | .safe, .idle => true
  | _, _ => false

/-- Does a standing condition, or a closed gate, forbid the target (R455, R456)? -/
def heldTarget (t : Mode) (s : State) : Bool :=
  (t != .safe && safeStands s) ||
    (match t with
     | .print => forceBits s != 0 || !gateOpen s
     | .calibrate => forceBits s != 0 || !gateOpen s
     | .drain => blankStands s
     | _ => false)

/-- RESULT of a request for mode `t` (R451). Where CONS and HELD both apply the spec names no order: a free choice. -/
def decideRequest (t : Mode) (s : State) : Nat :=
  if s.forcedAt = some (coreCycle s) then 6
  else if s.sleepEntry ∨ s.waking then 5
  else if t = s.mode then 7
  else if requestAllowed s.mode t = false then 2
  else
    let cons := t == .print && !rb R.SYN_STAT 0 s
    let held := heldTarget t s
    if cons && held then (if Config.freeBool s.fresh then 3 else 4)
    else if cons then 3
    else if held then 4
    else 1

/-- TIL_MSTAT after a request naming mode number `n` (R472). -/
def answerRequest (result n : Nat) (s : State) : State :=
  s |> wf R.TIL_MSTAT 0 3 result |> wf R.TIL_MSTAT 4 4 n |> wf R.TIL_MSTAT 8 8 (rf R.TIL_MSTAT 8 8 s + 1)

/-- A read of the place at `a` by `w` is served: where the fabric carries it (R400); not in COLD, where nothing is in service; contexts and DMA channels not in SLEEP, where the
core clocks stand still (R460); the loader in LOAD alone (R426). -/
def hears (w : Writer) (a : Nat) (s : State) : Bool :=
  carried w a s && match w with
  | .loader => s.mode == .load
  | .host _ => s.mode != .cold
  | _ => s.mode.fromProof && s.mode != .sleep

/-- A write by `w` reaches its register: as a read, but for the host not in LOAD (R402). -/
def reaches (w : Writer) (a : Nat) (s : State) : Bool :=
  match w with
  | .host _ => carried w a s && s.mode.fromProof
  | _ => hears w a s

/-- A write that does not reach its register: in LOAD the host's is answered ERR (R402). -/
def turnedAway (w : Writer) (s : State) : State :=
  match w with
  | .host _ => if s.mode = .load then respond 0 1 s else s
  | _ => s

/-- A request for a mode whose entry is a plain change. -/
def plainRequest (t : Mode) (s : State) : State :=
  let r := decideRequest t s
  let s := drawn (answerRequest r t.num s)
  let s := respond 0 0 s
  if r = 1 then setMode t 1 false s else s

/-! ### Renumbering (R493) -/

/-- The values of (n, f) of the print lines whose transfer boundary the renumbering skips (R68). -/
def retakeOffsets (g : Nat) (s : State) : List (Int × Int × Nat) :=
  let (n, f) := splitOffset g s
  (List.range (leadOf g s)).map (fun (k : Nat) => (s.pos.hwm + 1 + k, n, f))

/-- A renumbering, the new p and high-water mark already in force. -/
def renumber (s : State) : State :=
  let s := (usedGroups s).foldl (fun s g =>
    let s := withdrawSent g s
    putRg g { taken := retakeOffsets g s } s) s
  let s := mapSlices (fun x => { x with cur := none, testing := false, last := none, top := none, again := none, kept := [] }) s
  { s with
    first := none, due := []
    pos := { s.pos with issued := pOf s }
    cmp := { s.cmp with composed := [] }
    lst := { s.lst with busy := none, lastCond := none, ref := none }
    links := { s.links with copy := [], prevN := [], xfers := [] } }

/-! ### SLEEP (R460, R461) -/

/-- A wake cause: the clocks run, and the clear of the line store begins. -/
def wake (s : State) : State :=
  if s.mode = .sleep ∧ s.waking = false then releaseLatches { s with waking := true } else s

/-- Motion of WDIST lines since the entry (R461). -/
def motionWake (s : State) : State :=
  if s.mode = .sleep ∧ rb R.TIL_WAKE 2 s ∧ rf R.TIL_WAKE 4 12 s * 256 ≤ (pOf s - s.pos.sleepP).natAbs then wake s else s

/-- The line store empty and switched off, or just cleared (R176, R460). A march, a repair copy and the repairs that wait are
abandoned with it (log entry 115: DESIGN CHOICE). -/
def emptyLineStore (s : State) : State :=
  let s := { s with
    mem := s.mem.filter (fun e => decide (0x6000000 ≤ e.1))
    ue := s.ue.filter (fun w => decide (0x6000000 ≤ w))
    ce := s.ce.filter (fun w => decide (0x6000000 ≤ w))
    lst := { s.lst with stored := [], slots := [], vers := [], ref := none, busy := none, job := .idle, repair := none, repairQ := [] } }
  s |> wf R.LST_WP 0 21 0 |> wf R.LST_RP 0 21 0 |> wf R.LST_OCC 0 21 0 |> wb R.LST_SLICE 7 false

/-- A request for IDLE: a plain change, or in SLEEP a wake by the die link (R451, R461). -/
def requestIdle (s : State) : State :=
  if s.mode = .sleep ∧ s.waking = false then
    let r := if rb R.TIL_WAKE 0 s then 1 else 2
    let s := respond 0 0 (answerRequest r 3 s)
    if r = 1 then wake s else s
  else plainRequest .idle s

/-- A request for SLEEP: accepted, the entry begins and MODE stays IDLE (R451, R460). -/
def requestSleep (s : State) : State :=
  let r := decideRequest .sleep s
  let s := respond 0 0 (drawn (answerRequest r 10 s))
  if r = 1 then { s with sleepEntry := true, cells := s.cells.map (fun e => (e.1, abandon e.2)) } else s

/-- A request naming COLD, LOAD, PROOF or a number 12 to 15 (R39, R451). A forced change in the core cycle, and an entry
or exit in progress, answer first as for every request. -/
def requestIllegal (n : Nat) (s : State) : State :=
  let r := if s.forcedAt = some (coreCycle s) then 6 else if s.sleepEntry ∨ s.waking then 5
    else if n = s.mode.num then 7 else 2
  respond 0 0 (answerRequest r n s)

/-- A write of TIL_MREQ naming mode number `n` (R451). -/
def requestMode (n : Nat) (s : State) : State :=
  match n with
  | 3 => requestIdle s
  | 4 => plainRequest .armed s
  | 5 => plainRequest .print s
  | 6 => plainRequest .blank s
  | 7 => plainRequest .spit s
  | 8 => plainRequest .calibrate s
  | 9 => plainRequest .drain s
  | 10 => requestSleep s
  | 11 => plainRequest .safe s
  | _ => requestIllegal n s

/-- REQUEST_IDLE (R451, R453, R461). -/
def execRequestIdle (w : Writer) (s : State) : Host.Outcome State Fault Refusal :=
  if reaches w R.TIL_MODE s then .next (requestIdle s) else .next (turnedAway w s)

/-- REQUEST_ARMED (R453, R459, R37). -/
def execRequestArmed (w : Writer) (s : State) : Host.Outcome State Fault Refusal :=
  if reaches w R.TIL_MODE s then .next (plainRequest .armed s) else .next (turnedAway w s)

/-- REQUEST_PRINT (R455). -/
def execRequestPrint (w : Writer) (s : State) : Host.Outcome State Fault Refusal :=
  if reaches w R.TIL_MODE s then .next (plainRequest .print s) else .next (turnedAway w s)

/-- REQUEST_BLANK (R453; from DRAIN R458). -/
def execRequestBlank (w : Writer) (s : State) : Host.Outcome State Fault Refusal :=
  if reaches w R.TIL_MODE s then .next (plainRequest .blank s) else .next (turnedAway w s)

/-- REQUEST_SPIT (R453). -/
def execRequestSpit (w : Writer) (s : State) : Host.Outcome State Fault Refusal :=
  if reaches w R.TIL_MODE s then .next (plainRequest .spit s) else .next (turnedAway w s)

/-- REQUEST_CALIBRATE (R455). -/
def execRequestCalibrate (w : Writer) (s : State) : Host.Outcome State Fault Refusal :=
  if reaches w R.TIL_MODE s then .next (plainRequest .calibrate s) else .next (turnedAway w s)

/-- REQUEST_DRAIN (R40, R458). -/
def execRequestDrain (w : Writer) (s : State) : Host.Outcome State Fault Refusal :=
  if reaches w R.TIL_MODE s then .next (plainRequest .drain s) else .next (turnedAway w s)

/-- REQUEST_SLEEP (R451, R460). -/
def execRequestSleep (w : Writer) (s : State) : Host.Outcome State Fault Refusal :=
  if reaches w R.TIL_MODE s then .next (requestSleep s) else .next (turnedAway w s)

/-- REQUEST_SAFE (R462). -/
def execRequestSafe (w : Writer) (s : State) : Host.Outcome State Fault Refusal :=
  if reaches w R.TIL_MODE s then .next (plainRequest .safe s) else .next (turnedAway w s)

/-- REQUEST_ILLEGAL_MODE (R39, R451). -/
def execRequestIllegalMode (w : Writer) (n : BitVec 4) (s : State) : Host.Outcome State Fault Refusal :=
  if decide (3 ≤ n.toNat) && decide (n.toNat < 12) then .next s
  else if reaches w R.TIL_MODE s then .next (requestIllegal n.toNat s) else .next (turnedAway w s)

end Sys2Proof.Machine
end

