-- ==== Sys2Proof/Machine/Pairs.lean ====
section
/-! DEFINITION. Stages and latches of paired registers (R355 to R357). A stage holds the key of the pair's high register
and the staged low value; a latch holds high values by the key of their register. -/

namespace Sys2Proof.Machine

/-- Key of the high word, in an I/O page, of the 32-bit register at fabric address `a` (R13, R355). -/
def ioHigh (a : Nat) : Nat := 0x1000000000 + a

/-- A write of L stages (pair, value), in place of an earlier stage (R356). -/
def stagePut (w : Writer) (h v : Nat) (s : State) : State :=
  { s with stages := Sparse.set none s.stages (Writer.key w) (some (h, v)) }

/-- The staged low value of the pair whose high register is `h`, if the stage holds it; the stage is then emptied. -/
def stageTake (w : Writer) (h : Nat) (s : State) : Option Nat × State :=
  match Sparse.get none s.stages (Writer.key w) with
  | some (k, v) => if k = h then (some v, { s with stages := Sparse.set none s.stages (Writer.key w) none }) else (none, s)
  | none => (none, s)

/-- A read of L latches the high values `l` for the reader, in place of an earlier latch (R357). -/
def latchPut (w : Writer) (l : List (Nat × Nat)) (s : State) : State :=
  { s with latches := Sparse.set [] s.latches (Writer.key w) l }

/-- The value latched for `h`, freed by this read. -/
def latchTake (w : Writer) (h : Nat) (s : State) : Option Nat × State :=
  let l := Sparse.get [] s.latches (Writer.key w)
  match l.find? (fun e => e.1 == h) with
  | some (_, v) => (some v, latchPut w (l.filter (fun e => e.1 != h)) s)
  | none => (none, s)

end Sys2Proof.Machine
end

