-- ==== Sys2Proof/Machine/Timers.lean ====
section
/-! DEFINITION. The timers of a cluster (R358 to R371), the start of a spit transfer at a match (R207), the ends of SLEEP
entry and exit (R460, R461, R176). -/

namespace Sys2Proof.Machine

def tmrOf (cl n : Nat) (s : State) : Tmr := Sparse.get {} s.tmr (cl * 8 + n)
def putTmr (cl n : Nat) (x : Tmr) (s : State) : State := { s with tmr := Sparse.set {} s.tmr (cl * 8 + n) x }

/-! ### Registers of a timer -/

def tEn (cl n : Nat) (s : State) : Bool := rb (R.TMR_CTL cl n) 0 s
def tCnt (cl n : Nat) (s : State) : Nat := (rd (R.TMR_CNT cl n) s).toNat
def tPer (cl n : Nat) (s : State) : Nat := (rd (R.TMR_PER cl n) s).toNat
def tCmp (cl n : Nat) (s : State) : Nat := (rd (R.TMR_CMP cl n) s).toNat
def tPre (cl n : Nat) (s : State) : Nat := rf (R.TMR_PRE cl n) 0 16 s
def tClk (cl n : Nat) (s : State) : Nat := rf (R.TMR_CTL cl n) 3 3 s
def tMstr (cl n : Nat) (s : State) : Nat := rf (R.TMR_CTL cl n) 10 3 s
def tSlv (cl n : Nat) (s : State) : Nat := rf (R.TMR_CTL cl n) 13 2 s
def tCsrc (cl n : Nat) (s : State) : Nat := rf (R.TMR_CTL cl n) 16 5 s

def setCnt (cl n v : Nat) (s : State) : State := wr (R.TMR_CNT cl n) (BitVec.ofNat 32 v) s

/-- Do timers count in this mode (R366, R368)? -/
def timersRun (s : State) : Bool := s.mode.fromProof && !s.tmrStopped

/-- What stands for timer n in this core cycle, changed. -/
def onNow (cl n : Nat) (f : TmrNow → TmrNow) (s : State) : State :=
  let x := tmrOf cl n s
  putTmr cl n { x with now := f x.now } s

/-- OUT (R362). -/
def tOut (cl n : Nat) (s : State) : Bool := decide (tCmp cl n s ≤ tCnt cl n s)

/-- Is the gate open (R360)? The level of an event input is that of two core cycles ago. -/
def gateTmr (cl n : Nat) (s : State) : Bool :=
  if rb (R.TMR_PRE cl n) 22 s then
    let src := rf (R.TMR_PRE cl n) 16 5 s
    let lvl := rb (R.TMR_PRE cl n) 21 s
    if src < 16 then (evOf src s).sync2 == lvl
    else if src < 24 then tOut cl (src - 16) s == lvl
    else false
  else true

/-! ### Spit transfers (R207) -/

/-- A spit transfer starts on every routed slot, or the match is skipped. The print line in its frames is free: the spec
gives spitting none. -/
def spitStart (s : State) : State :=
  if s.links.spit ≠ [] then addSat R.PEEL_SPITSKIP 0 16 1 s
  else
    let base := tileStoreBase + 64 * rf R.PEEL_SPIT 0 19 s
    let q := sext 40 (Config.freeNat s.fresh)
    let s := drawn s
    if peelWorks s then
      (usedGroups s).foldl (fun s g =>
        let w := widthG g s
        let o := base + (((usedGroups s).filter (fun h => decide (h < g))).map (fun h => paddedOf h s * widthG h s / 8)).sum
        let codes := (List.range (paddedOf g s / 256)).flatMap (fun j => unpack w 256 (readN (o + 32 * w * j) (32 * w) s))
        let s := queueXfers g q s.pos.hwm (codes.take (nozzlesOf g s)) [] false false true false s
        if routesOf g s.pos.hwm s = [] then s else { s with links := { s.links with spit := s.links.spit ++ [(g, q)] } }) s
    else s

/-! ### Outputs of an event (R362, R370) -/

/-- A timer request reaches the channels whose REQSRC selects timer n (R376). -/
def dmaRequest (cl n : Nat) (s : State) : State :=
  (List.range 4).foldl (fun s k =>
    if rf (R.DMA_CTL cl k) 3 5 s = n + 1 then
      (if rb (R.DMA_STAT cl k) 2 s then wb (R.DMA_STAT cl k) 9 true s else wb (R.DMA_STAT cl k) 2 true s)
    else s) s

/-- Does a two-bit enable of [overflow, match] ask for the event? -/
def wants (e : Nat) (ovf mat : Bool) : Bool := (bitN e 0 && ovf) || (bitN e 1 && mat)

/-- The outputs of an event cycle `c` with an overflow, a match, or both, in the core cycle after it. -/
def timerOutputs (cl n c : Nat) (ovf mat : Bool) (s : State) : State :=
  if !ovf && !mat then s
  else
    let s := if wants (rf (R.TMR_CTL cl n) 21 2 s) ovf mat then assertSource cl (8 + n) s else s
    let s := if wants (rf (R.TMR_CTL cl n) 26 2 s) ovf mat then dmaRequest cl n s else s
    let s := if wants (rf (R.TMR_CTL cl n) 28 2 s) ovf mat then timerTrigger cl n c s else s
    if mat && s.mode == .spit && rf R.PEEL_SPIT 19 4 s == cl && rf R.PEEL_SPIT 23 3 s == n then spitStart s else s

/-! ### Captures (R365) -/

/-- A capture of CNT: into CAP with CAPF, or into the shadow while the read window is open; with the shadow occupied it is
discarded with COVR. Its event source follows in the next core cycle. -/
def capture (cl n : Nat) (s : State) : State :=
  let x := tmrOf cl n s
  let made := fun s => wb (R.TMR_STAT cl n) 2 true (onNow cl n (fun y => { y with capd := true }) s)
  if x.window then
    match x.shadow with
    | some _ => wb (R.TMR_STAT cl n) 3 true s
    | none => made (putTmr cl n { x with shadow := some (rd (R.TMR_CNT cl n) s) } s)
  else made (wr (R.TMR_CAP cl n) (rd (R.TMR_CNT cl n) s) s)

/-! ### Ticks (R358, R359, R364) -/

/-- An overflow or a match in this core cycle: the status bits, and what follows from it in the next. -/
def timerEvent (cl n : Nat) (ovf mat : Bool) (s : State) : State :=
  let s := if ovf then wb (R.TMR_STAT cl n) 0 true s else s
  let s := if mat then wb (R.TMR_STAT cl n) 1 true s else s
  onNow cl n (fun y => { y with ovf := y.ovf || ovf, mat := y.mat || mat }) s

/-- One tick of CNT: the new state, overflow, match. -/
def tickCnt (cl n : Nat) (s : State) : State × Bool × Bool :=
  if tCnt cl n s < tPer cl n s then
    let v := tCnt cl n s + 1
    (setCnt cl n v s, false, v == tCmp cl n s)
  else
    let x := tmrOf cl n s
    let s := match x.pbuf with
      | some p => putTmr cl n { x with pbuf := none } (wr (R.TMR_PER cl n) (BitVec.ofNat 32 p) s)
      | none => s
    let s := if rb (R.TMR_CTL cl n) 1 s then wb (R.TMR_CTL cl n) 0 false s else s
    (setCnt cl n 0 s, true, tCmp cl n s == 0)

/-- A tick of timer n with its event; no other tick counts in this core cycle. -/
def tickTimer (cl n : Nat) (s : State) : State :=
  let r := tickCnt cl n (onNow cl n (fun y => { y with spent := true }) s)
  timerEvent cl n r.2.1 r.2.2 r.1

/-- Does a source of ticks act on timer n in this core cycle, its gate open or not: the prescaler wraps, or a line tick, a
captured edge or its master stands (R359)? -/
def sourceActs (cl n : Nat) (s : State) : Bool :=
  match tClk cl n s with
  | 0 => decide (tPre cl n s ≤ (tmrOf cl n s).rho)
  | 1 => (tmrOf cl n s).now.due
  | 2 => (tmrOf cl n s).now.due
  | 3 => (tmrOf cl n s).now.due
  | 4 => (tmrOf cl n s).now.due
  | _ => false

/-- Is a tick of timer n due in this core cycle (R358 to R361, R363, R364)? -/
def tickDue (cl n : Nat) (gate : Bool) (s : State) : Bool :=
  let y := (tmrOf cl n s).now
  tEn cl n s && gate && sourceActs cl n s && !y.spent && !y.zero && !y.above

/-- A reload where a shortened period left CNT above it (R364): an overflow in place of the tick. -/
def reload (cl n : Nat) (s : State) : State :=
  let y := (tmrOf cl n s).now
  let s := if y.spent then s else setCnt cl n 0 s
  let s := if rb (R.TMR_CTL cl n) 1 s then wb (R.TMR_CTL cl n) 0 false s else s
  timerEvent cl n true (tCmp cl n s == 0) s

/-- The end of a core cycle for timer n: its tick, a period that takes effect after it, a reset or start by its master, a
capture. -/
def timerEnd (cl n : Nat) (gate : Bool) (s : State) : State :=
  let due := tickDue cl n gate s
  let y := (tmrOf cl n s).now
  let s := if (tEn cl n s || (y.ovf && !y.made)) && gate && tClk cl n s == 0 then
      let x := tmrOf cl n s
      putTmr cl n { x with rho := if tPre cl n s ≤ x.rho then 0 else x.rho + 1 } s
    else s
  let s := if y.above && !y.zero then reload cl n s else if due then tickTimer cl n s else s
  let s := if y.zero then setCnt cl n 0 (putTmr cl n { tmrOf cl n s with rho := 0 } s) else s
  let s := match y.per with
    | some p => putTmr cl n { tmrOf cl n s with pbuf := none } (wr (R.TMR_PER cl n) (BitVec.ofNat 32 p) s)
    | none => s
  let s := if y.start then wb (R.TMR_CTL cl n) 0 true s else s
  if y.cap then capture cl n s else s

/-! ### What an event brings in the next core cycle (R361, R362, R365) -/

/-- What the event of timer m brings to timer n. -/
def linkOf (cl m n : Nat) (y : TmrNow) (s : State) : TmrNow → TmrNow :=
  let own := tMstr cl n s == m
  let slv := tSlv cl n s
  fun z =>
    { z with
      due := z.due || (own && !y.made && ((tClk cl n s == 3 && y.ovf) || (tClk cl n s == 4 && y.mat)))
      zero := z.zero || (own && ((slv == 1 && y.ovf) || (slv == 3 && y.mat)))
      start := z.start || (own && ((slv == 2 && y.ovf) || (slv == 3 && y.mat)))
      cap := z.cap || (y.ovf && tCsrc cl n s == 17 + m) }

/-- The links and the outputs of what timer m did in the core cycle `c`, in the core cycle after it. -/
def timerAfter (cl m c : Nat) (y : TmrNow) (s : State) : State :=
  let s := if y.ovf || y.mat then
      (List.range 8).foldl (fun s n => onNow cl n (linkOf cl m n y s) s) s
    else s
  let s := if y.capd && rb (R.TMR_CTL cl m) 23 s then assertSource cl (8 + m) s else s
  timerOutputs cl m c y.ovf y.mat s

/-- What a core cycle leaves standing for the next: CNT above a period that took effect in it. -/
def leftOver (k : Nat) (y : TmrNow) (s : State) : TmrNow :=
  match y.per with
  | some p => { above := decide (p < tCnt (k / 8) (k % 8) s) && tEn (k / 8) (k % 8) s }
  | none => {}

/-- The timers whose CTL differs from its Reset value, as (cluster, timer). -/
def listedTimers (s : State) : List (Nat × Nat) :=
  (List.range 16).flatMap (fun cl =>
    (s.regs.filterMap (fun e => ixOf (R.TMR_CTL cl 0) 0x20 8 e.1)).map (fun n => (cl, n)))

/-- The end of a core cycle for every timer, and the beginning of the next. -/
def timersCore (s : State) : State :=
  if timersRun s then
    let l := listedTimers s
    let t := l.foldl (fun t e => timerEnd e.1 e.2 (gateTmr e.1 e.2 s) t) s
    let acts := t.tmr.filter (fun e => e.2.now.ovf || e.2.now.mat || e.2.now.capd)
    let u := t.tmr.foldl (fun u e =>
      putTmr (e.1 / 8) (e.1 % 8) { e.2 with now := leftOver e.1 e.2.now t } u) t
    acts.foldl (fun u e => timerAfter (e.1 / 8) (e.1 % 8) (coreCycle s - 1) e.2.now u) u
  else s

/-- The event inputs' levels step on towards the gates (R360). -/
def gatesCore (s : State) : State :=
  if timersRun s then
    { s with pos := { s.pos with
      ev := (List.range 16).foldl (fun t e =>
        let x := evOf e s
        Sparse.set {} t e { x with sync1 := x.level, sync2 := x.sync1 }) s.pos.ev } }
  else s

/-- The line tick (R62): CLK 1 and capture source 25. -/
def timersLine (s : State) : State :=
  if timersRun s then
    (listedTimers s).foldl (fun s e =>
      onNow e.1 e.2 (fun y =>
        { y with due := y.due || tClk e.1 e.2 s == 1, cap := y.cap || tCsrc e.1 e.2 s == 25 }) s) s
  else s

/-- A captured edge of event input `e`: CLK 2, and capture source e + 1 where the input's source asserts (R359, R365). -/
def timerEvIn (e : Nat) (s : State) : State :=
  if timersRun s then
    (listedTimers s).foldl (fun s x =>
      onNow x.1 x.2 (fun y =>
        { y with
          due := y.due || (tClk x.1 x.2 s == 2 && rf (R.TMR_CTL x.1 x.2) 6 4 s == e)
          cap := y.cap || (tCsrc x.1 x.2 s == e + 1 && rb (R.POS_EV_CTL e) 10 s) }) s) s
  else s

/-! ### Writes (R363, R364) -/

/-- A write to CNT: this core cycle's tick is lost. -/
def writeCnt (cl n : Nat) (v : Word) (s : State) : State :=
  wr (R.TMR_CNT cl n) v (if timersRun s then onNow cl n (fun y => { y with spent := true }) s else s)

/-- A write to PER. -/
def writePer (cl n : Nat) (v : Word) (s : State) : State :=
  let x := tmrOf cl n s
  if tEn cl n s = false then putTmr cl n { x with pbuf := none } (wr (R.TMR_PER cl n) v s)
  else if rb (R.TMR_CTL cl n) 2 s then
    if timersRun s then onNow cl n (fun y => { y with per := some v.toNat }) s
    else putTmr cl n { x with pbuf := none } (wr (R.TMR_PER cl n) v s)
  else putTmr cl n { x with pbuf := some v.toNat } s

/-! ### The read window of CAP (R365) -/

/-- A read of CAP's low word in an I/O page opens the window. -/
def openCap (cl n : Nat) (s : State) : State := putTmr cl n { tmrOf cl n s with window := true } s

/-- A read of its high word closes it, and a shadowed capture lands. -/
def closeCap (cl n : Nat) (s : State) : State :=
  let x := tmrOf cl n s
  match x.shadow with
  | some v => wr (R.TMR_CAP cl n) v (putTmr cl n { x with window := false, shadow := none } s)
  | none => putTmr cl n { x with window := false } s

/-! ### Sleep make-up (R367 to R371) -/

/-- The make-up of one timer: new CNT, ρ, overflows, matches, whether it receives one. -/
structure MakeUp where
  cnt : Nat
  rho : Nat
  ovf : Nat := 0
  mat : Nat := 0
  takes : Bool := false
  deriving DecidableEq, Repr

/-- The make-up of K ticks (R369). -/
def makeUpOf (cl n k rho : Nat) (s : State) : MakeUp :=
  let cnt := tCnt cl n s
  let per := tPer cl n s
  let cmp := tCmp cl n s
  let p1 := per + 1
  let p2 := match (tmrOf cl n s).pbuf with
    | some p => p + 1
    | none => p1
  let b := fun (x : Bool) => b2n x
  if cnt + k ≤ per then
    { cnt := cnt + k, rho := rho, mat := b (decide (cnt < cmp ∧ cmp ≤ cnt + k)), takes := true }
  else
    let lead := b (decide (cnt < cmp ∧ cmp ≤ per))
    if rb (R.TMR_CTL cl n) 1 s then { cnt := 0, rho := rho, ovf := 1, mat := lead + b (cmp == 0), takes := true }
    else
      let m := 1 + (cnt + k - p1) / p2
      let c := (cnt + k - p1) % p2
      { cnt := c, rho := rho, ovf := m, takes := true
        mat := lead + (if cmp < p2 then m - 1 + b (decide (cmp ≤ c)) else 0) }

/-- The make-up of timer n over E core cycles, its masters' first. -/
def makeUp (cl e : Nat) (s : State) : (fuel n : Nat) → MakeUp
  | 0, n => { cnt := tCnt cl n s, rho := (tmrOf cl n s).rho }
  | f + 1, n =>
    let rho := (tmrOf cl n s).rho
    if (tmrOf cl n s).slept then
      match tClk cl n s with
      | 0 => makeUpOf cl n ((rho + e) / (tPre cl n s + 1)) ((rho + e) % (tPre cl n s + 1)) s
      | 3 => makeUpOf cl n (makeUp cl e s f (tMstr cl n s)).ovf rho s
      | 4 => makeUpOf cl n (makeUp cl e s f (tMstr cl n s)).mat rho s
      | _ => makeUpOf cl n 0 rho s
    else { cnt := tCnt cl n s, rho := rho }

/-- A made-up timer put back, its outputs at c_w, MISS and MKUP (R370). -/
def applyMakeUp (cl n : Nat) (m : MakeUp) (s : State) : State :=
  if m.takes then
    let x := tmrOf cl n s
    let s := match x.pbuf with
      | some p => if m.ovf = 0 then s else wr (R.TMR_PER cl n) (BitVec.ofNat 32 p) s
      | none => s
    let s := putTmr cl n { x with rho := m.rho, pbuf := if m.ovf = 0 then x.pbuf else none } s
    let s := if m.ovf ≠ 0 ∧ rb (R.TMR_CTL cl n) 1 s then wb (R.TMR_CTL cl n) 0 false s else s
    let s := wb (R.TMR_STAT cl n) 4 true (setCnt cl n m.cnt s)
    let s := addSat (R.TMR_MISS cl n) 0 16 (m.ovf - 1) s
    addSat (R.TMR_MISS cl n) 16 16 (m.mat - 1) s
  else s

/-- The make-up of a cluster over E core cycles: its events have the present core cycle, c_w, as their event cycle. -/
def makeUpCluster (cl e : Nat) (s : State) : State :=
  let ms := (List.range 8).map (fun n => (n, makeUp cl e s 8 n))
  let s := ms.foldl (fun s (n, m) => applyMakeUp cl n m s) s
  ms.foldl (fun s (n, m) =>
    if m.ovf = 0 ∧ m.mat = 0 then s
    else onNow cl n (fun y => { y with made := true }) (timerEvent cl n (m.ovf != 0) (m.mat != 0) s)) s

/-! ### Commands -/

/-- TIMER_OVERFLOW (R358): the tick due in this core cycle that takes a timer at or beyond PER to 0. -/
def execTimerOverflow (cl : Fin 16) (n : Fin 8) (s : State) : Host.Outcome State Fault Refusal :=
  if timersRun s && tickDue cl n (gateTmr cl n s) s && decide (tPer cl n s ≤ tCnt cl n s) then .next (tickTimer cl n s)
  else .next s

/-- TIMER_MATCH (R358): the tick or reload due in this core cycle that takes CNT to CMP. -/
def execTimerMatch (cl : Fin 16) (n : Fin 8) (s : State) : Host.Outcome State Fault Refusal :=
  if timersRun s && tickDue cl n (gateTmr cl n s) s && (tickCnt cl n s).2.2 then .next (tickTimer cl n s) else .next s

/-- TIMER_CAPTURE (R365): timer n's capture source has acted in this core cycle; CNT is captured as it stands at its end,
after a tick that is due. -/
def execTimerCapture (cl : Fin 16) (n : Fin 8) (s : State) : Host.Outcome State Fault Refusal :=
  if timersRun s && (tmrOf cl n s).now.cap then
    let s := if tickDue cl n (gateTmr cl n s) s then tickTimer cl n s else s
    .next (capture cl n (onNow cl n (fun y => { y with cap := false }) s))
  else .next s

/-- CAP_LOW_READ (R357, R365): in an I/O page the read opens the window and latches the high word; over the fabric the
whole register is read and no window opens. -/
def execCapLowRead (w : Writer) (cl : Fin 16) (n : Fin 8) (s : State) : Host.Outcome State Fault Refusal :=
  if hears w (R.TMR_CAP cl n) s then
    let v := rd (R.TMR_CAP cl n) s
    match w with
    | .ctx cl' _ _ =>
      if cl' = cl then
        .next (respond (BitVec.ofNat 32 (fld v 0 16)) 0
          (openCap cl n (latchPut w [(ioHigh (R.TMR_CAP cl n), fld v 16 16)] s)))
      else .next (respond v 0 s)
    | _ => .next (respond v 0 s)
  else .next s

/-- CAP_HIGH_READ (R357, R365). -/
def execCapHighRead (w : Writer) (cl : Fin 16) (n : Fin 8) (s : State) : Host.Outcome State Fault Refusal :=
  if hears w (R.TMR_CAP cl n) s then
    let v := rd (R.TMR_CAP cl n) s
    match w with
    | .ctx cl' _ _ =>
      if cl' = cl then
        let (l, s) := latchTake w (ioHigh (R.TMR_CAP cl n)) s
        .next (respond (BitVec.ofNat 32 (l.getD (fld v 16 16))) 0 (closeCap cl n s))
      else .next (respond v 0 s)
    | _ => .next (respond v 0 s)
  else .next s

/-- TIMER_COUNT_WRITE (R363). -/
def execTimerCountWrite (w : Writer) (cl : Fin 16) (n : Fin 8) (v : Word) (s : State) :
    Host.Outcome State Fault Refusal :=
  if reaches w (R.TMR_CAP cl n) s then .next (respond 0 0 (writeCnt cl n v s)) else .next (turnedAway w s)

/-- TIMER_PERIOD_WRITE (R364). -/
def execTimerPeriodWrite (w : Writer) (cl : Fin 16) (n : Fin 8) (v : Word) (s : State) :
    Host.Outcome State Fault Refusal :=
  if reaches w (R.TMR_CAP cl n) s then .next (respond 0 0 (writePer cl n v s)) else .next (turnedAway w s)

/-- SLOW_RATIO_MEASUREMENT (R367): `cycles` core cycles in a run of 32,768 slow cycles. -/
def execSlowRatioMeasurement (cl : Fin 16) (cycles : BitVec 48) (s : State) : Host.Outcome State Fault Refusal :=
  if s.mode.fromProof && s.mode != .sleep then
    let s := wb (R.TMR_SLCTL cl) 1 true { s with slowAt := some (coreCycle s) }
    let v := BitVec.ofNat 32 (2 * cycles.toNat)
    .next (if rb (R.TMR_SLCTL cl) 0 s then s
      else wr (R.TMR_SLRATIO cl) v { s with slowRatio := Sparse.set 0 s.slowRatio cl v.toNat })
  else .next s

/-- TIMER_RESUME (R368 to R371): the first slow-clock edge after wake; `slow` edges since the one before SLEEP. -/
def execTimerResume (slow : BitVec 48) (s : State) : Host.Outcome State Fault Refusal :=
  if s.tmrStopped && (s.waking || s.mode != .sleep) then
    let n := min slow.toNat (2 ^ 32 - 1)
    let long := decide (2 ^ 32 - 1 < slow.toNat)
    let s := { s with tmrStopped := false, slowAt := some (coreCycle s) }
    .next ((List.range 16).foldl (fun s cl =>
      let s := wb (R.TMR_SLCTL cl) 2 long (wr (R.TMR_SLN cl) (BitVec.ofNat 32 n) s)
      makeUpCluster cl (n * Sparse.get 0 s.sleepRatio cl / 65536 - rf (R.TMR_SLPH cl) 0 16 s) s) s)
  else .next s

/-- SLOW_CLOCK_TIMEOUT (R480): no slow-clock edge within 100 µs after wake. -/
def execSlowClockTimeout (s : State) : Host.Outcome State Fault Refusal :=
  if s.tmrStopped && (s.waking || s.mode != .sleep) then
    .next ((List.range 16).foldl (fun s cl => wb (R.TMR_SLCTL cl) 2 false (wr (R.TMR_SLN cl) 0 s))
      { s with tmrStopped := false })
  else .next s

/-! ### SLEEP entry and exit -/

/-- Store buffers empty and no DMA unit in progress (R460). -/
def quiet (s : State) : Bool :=
  s.cells.all (fun e => e.2.sbuf == []) && s.dma.all (fun e => e.2.unit == none)

/-- The ratio in force (R367, R380): a written value only while OVR is set, else the one measured last or the image's. -/
def ratioOf (cl : Nat) (s : State) : Nat :=
  if rb (R.TMR_SLCTL cl) 0 s then (rd (R.TMR_SLRATIO cl) s).toNat else Sparse.get 0 s.slowRatio cl

/-- φ_s (R368): core cycles since the last rising edge of the slow clock. A command has shown that edge where it lies less
than a slow cycle back; otherwise the slow clock, which is not the tile's, decides (log entry 70). -/
def slowPhase (s : State) : Nat :=
  match s.slowAt with
  | some t => if coreCycle s - t < 36621 then coreCycle s - t else Config.slowSince (coreCycle s)
  | none => Config.slowSince (coreCycle s)

/-- The timers stop in this core cycle (R368); those with EN set and GEN clear will be made up (R369). -/
def stopTimers (s : State) : State :=
  let t := (List.range 16).foldl (fun s cl =>
    (List.range 8).foldl (fun s n =>
      let b := tEn cl n s && !rb (R.TMR_PRE cl n) 22 s
      if (tmrOf cl n s).slept = b then s else putTmr cl n { tmrOf cl n s with slept := b } s)
      { wf (R.TMR_SLPH cl) 0 16 (slowPhase s) s with
        sleepRatio := Sparse.set 0 s.sleepRatio cl (ratioOf cl s) }) s
  { t with tmrStopped := true }

/-- SLEEP_ENTRY_END (R460, R240, R41). -/
def execSleepEntryEnd (s : State) : Host.Outcome State Fault Refusal :=
  if s.sleepEntry && quiet s then
    let s := emptyLineStore (jesdIdle (waveSafe (stopTimers { s with sleepEntry := false })))
    .next { setMode .sleep 1 false s with pos := { s.pos with sleepP := pOf s } }
  else .next s

/-- LINE_STORE_CLEAR_END (R176, R461, R493): the exit from SLEEP ends in IDLE, or in SAFE where a condition stands. -/
def execLineStoreClearEnd (s : State) : Host.Outcome State Fault Refusal :=
  if s.waking then
    let s := jesdStart (emptyLineStore s)
    let s := setMode .idle 0xF false { s with waking := false }
    let s := renumber s
    let f := forceBits s
    .next (if bit f 7 then forceSafe 7 s else if bit f 3 then forceSafe 0xB s else if bit f 4 then forceSafe 0xC s
      else if bit f 5 then forceSafe 0xD s else if bit f 6 then forceSafe 0xE s else s)
  else .next s

end Sys2Proof.Machine
end

