-- ==== Sys2Proof/Machine/Chain.lean ====
section
/-! DEFINITION. The sync chain (R438 to R447): frames, chain checks, alignment, epochs, consistency. -/

namespace Sys2Proof.Machine

/-- A forward frame's fields (R439). -/
structure Fwd where
  fidx : Nat
  hops : Nat
  p : Int
  f : Nat
  mode : Nat
  epoch : Nat
  frag : Nat
  rep : Bool
  rebase : Bool
  anyalm : Bool
  incons : Bool
  deriving DecidableEq, Repr

/-- Bytes 0 to 19 of a forward frame. -/
def Fwd.body (x : Fwd) : List Byte :=
  leBytes 1 (x.fidx % 8 + x.hops % 32 * 8) ++ leBytes 5 (h40 x.p) ++ leBytes 1 x.f ++ leBytes 1 (x.mode % 16)
    ++ leBytes 4 x.epoch ++ leBytes 4 x.frag
    ++ leBytes 1 (b2n x.rep + 2 * b2n x.rebase + 4 * b2n x.anyalm + 8 * b2n x.incons) ++ leBytes 3 0

def parseFwd (l : List Byte) : Fwd :=
  let b0 := getLE l 0 1
  let fl := getLE l 16 1
  { fidx := b0 % 8, hops := b0 / 8, p := sext 40 (getLE l 1 5), f := getLE l 6 1, mode := getLE l 7 1 % 16
    epoch := getLE l 8 4, frag := getLE l 12 4, rep := bitN fl 0, rebase := bitN fl 1, anyalm := bitN fl 2
    incons := bitN fl 3 }

/-- A frame of 20 bytes and their CRC (R439, R441). -/
def withCrc (b : List Byte) : List Byte := b ++ leBytes 4 (crc32c b)

/-- Does a frame of 24 bytes pass its CRC? -/
def crcGood (l : List Byte) : Bool := l.length == 24 && getLE l 20 4 == crc32c (l.take 20)

/-- A relayed frame: new bytes 0 to 19, the CRC adjusted for the bits changed, so that a corrupted frame stays one (R440). -/
def relayed (l new : List Byte) : List Byte :=
  new ++ leBytes 4 (Nat.xor (getLE l 20 4) (Nat.xor (crc32c (slice l 0 20)) (crc32c new)))

/-- Byte `i` of `l` with the bits `m` set. -/
def orByte (i m : Nat) (l : List Byte) : List Byte := l.modify i (fun b => b ||| BitVec.ofNat 8 m)

/-- A forward frame as a relay passes it on (R440): HOPS one higher, its own ANYALM and INCONS set, all else as it came. -/
def relayFwd (l : List Byte) (anyalm incons : Bool) : List Byte :=
  relayed l (orByte 16 (4 * b2n anyalm + 8 * b2n incons) ((slice l 0 20).modify 0 (fun b => b + 8)))

/-- A return frame as a relay passes it on (R441): the bits of position `k` and its own ANYALM set, all else as it came. -/
def relayBack (l : List Byte) (k : Nat) (anyalm incons : Bool) : List Byte :=
  let m := 2 ^ (k % 8)
  relayed l (orByte 13 (b2n anyalm) (orByte (4 + k / 8) (if incons then m else 0) (orByte (k / 8) m (slice l 0 20))))

/-- Bytes 0 to 19 of a return frame (R441). -/
def retBody (present incmask : Nat) (p : Int) (anyalm : Bool) : List Byte :=
  leBytes 4 present ++ leBytes 4 incmask ++ leBytes 5 (h40 p) ++ leBytes 1 (b2n anyalm) ++ leBytes 6 0

/-! ### The tile's own bits -/

def isHead (s : State) : Bool := rb R.SYN_STAT 1 s
def isTail (s : State) : Bool := rb R.SYN_STAT 2 s
/-- Position k (R442). -/
def chainPos (s : State) : Nat := rf R.SYN_STAT 6 5 s
/-- ANYALM of the tile: its alarm summary is not empty. -/
def anyAlarm (s : State) : Bool := rd R.TIL_ASUML s != 0 || rd R.TIL_ASUMH s != 0
/-- A condition other than CHAINLOSS stands (R442). -/
def inconsistent (s : State) : Bool := rf R.SYN_COND 0 5 s != 0
def epochOf (s : State) : Nat := (rd R.SYN_EPOCH s).toNat
def lineZero (s : State) : Int := rdLine R.SYN_LINE0L R.SYN_LINE0H s

/-- CONS (R445). -/
def consOf (s : State) : Bool :=
  s.syn.decided && !inconsistent s &&
    ((isHead s && isTail s) ||
      (!s.syn.inconsUp && rd R.SYN_IMASK s == 0 && !rb R.SYN_COND 5 s && (isHead s || s.syn.rotated)))

/-- CONS kept up; each change asserts source 22 (R447). CHAINALM kept up. -/
def refreshCons (s : State) : State :=
  let s := wb R.SYN_STAT 5 (s.syn.almUp || s.syn.almDown) s
  let c := consOf s
  if c = rb R.SYN_STAT 0 s then s else assertAll 22 (wb R.SYN_STAT 0 c s)

/-- An inconsistency is raised or signalled: MMPOL applies at the next boundary (R445). -/
def mismatchPolicy (s : State) : State :=
  if s.mode = .print ∧ rb R.SYN_CFG 10 s then { s with blankDue := s.blankDue ++ [6] } else s

/-- A condition of R442 (bit `i`) is raised with its alarm (R450). -/
def raiseCond (i : Nat) (p : Int) (s : State) : State :=
  if rb R.SYN_COND i s then s
  else mismatchPolicy (tileAlarm (0x20 + i) { line := if i = 4 then p else 0 } (wb R.SYN_ALM i true (wb R.SYN_COND i true s)))

/-- A condition is raised or cleared as the check says. -/
def checkCond (i : Nat) (bad : Bool) (p : Int) (s : State) : State :=
  if bad then raiseCond i p s else wb R.SYN_COND i false s

/-! ### Sending (R440) -/

/-- The head sends a forward frame. P and F are those of p as the frame leaves. -/
def sendForward (rep : Bool) (s : State) : State :=
  let i := s.syn.fidx % 8
  let x : Fwd :=
    { fidx := i, hops := 0, p := fdiv (pOf s) 256, f := (imod (pOf s) 256).toNat, mode := s.mode.num
      epoch := epochOf s, frag := (rd (R.STA_CDIG i) s).toNat, rep := rep, rebase := s.syn.rebase
      anyalm := anyAlarm s, incons := inconsistent s }
  assertAll 22 (emit (.forward (withCrc x.body))
    { s with syn := { s.syn with fidx := (i + 1) % 8, wait := false, sentAt := s.time } })

/-- Time of a frame on the wire: 1,040 ns. -/
def frameUnits : Nat := 4160

/-- Is the head's link still sending? -/
def sending (s : State) : Bool := decide (s.time < s.syn.sentAt + frameUnits) && decide (s.syn.sentAt ≠ 0)

/-- FORWARD_FRAME_SEND at a boundary. -/
def headBoundary (s : State) : State :=
  let s := { s with syn := { s.syn with bounds := s.syn.bounds + 1 } }
  if s.syn.decided && isHead s then
    if sending s then
      if s.syn.wait then addSat R.SYN_SKIP 0 16 1 s else { s with syn := { s.syn with wait := true } }
    else sendForward false s
  else s

/-- The frame that waits leaves once the link is free. -/
def headFree (s : State) : State := if s.syn.wait && !sending s then sendForward false s else s

/-! ### Position set from outside (R443, R444, R59) -/

/-- POS_STAT.NEARMAX and ATMAX follow the line index (R61). -/
def indexFlags (s : State) : State :=
  s |> wb R.POS_STAT 7 (decide (2 ^ 39 - 2 ^ 32 ≤ s.pos.hwm)) |> wb R.POS_STAT 8 (decide (2 ^ 39 - 1 ≤ s.pos.hwm))

/-- v × τ in ticks as a quotient: POS_VEL is in 2^−32 ticks per position cycle, τ in ns. -/
def velTimes (tau : Nat) (s : State) : Int := (rd R.POS_VEL s).toInt * (2 * tau : Nat)

/-- τ_k (R442). -/
def tauOf (k : Nat) (s : State) : Nat := 1040 + k * rf R.SYN_CFG 16 8 s + (k - 1) * 40

/-- ALIGNMENT (R443). -/
def alignTo (x : Fwd) (s : State) : State :=
  let k := x.hops + 1
  let p := 256 * x.p + x.f + roundFree (velTimes (tauOf k s) s) (2 ^ 32) s
  let d : Dec := { useDec s with p := p, r := 0 }
  let h := fdiv p 256 - (if x.rebase then 1 else 0)
  let s := drawn { s with
    pos := { s.pos with d0 := d, d1 := d, base := d, raw := [], hwm := h, win := [], lastCount := none, lastGap := 0
                        nextAt := none, illLine := 0 }
    syn := { s.syn with aligned := true, alignArmed := false, rotated := false, run := 0, want := 0
                        above := false, under := false } }
  let s := wr R.POS_VEL 0 (wr R.SYN_EPOCH (BitVec.ofNat 32 x.epoch) s)
  renumber (trackReversal (indexFlags (wb R.SYN_COND 3 false (wb R.SYN_COND 4 false s))))

/-- Does a frame align the tile? -/
def aligns (x : Fwd) (s : State) : Bool :=
  (s.mode == .proof && !s.syn.aligned) || (s.mode == .idle && (s.syn.alignArmed || decide (epochOf s < x.epoch)))

/-! ### Checks (R442) -/

def popcount (v : Nat) : Nat := (bitList v 32).length

/-- DIGMIS, with the rotation of eight matching frames FIDX 0 to 7. -/
def checkDigest (x : Fwd) (s : State) : State :=
  if x.frag = (rd (R.STA_CDIG x.fidx) s).toNat then
    let run := if x.fidx = s.syn.want then s.syn.run + 1 else if x.fidx = 0 then 1 else 0
    let want := if run = 0 then 0 else (x.fidx + 1) % 8
    if run = 8 then wb R.SYN_COND 2 false { s with syn := { s.syn with run := 0, want := 0, rotated := true } }
    else { s with syn := { s.syn with run := run, want := want } }
  else raiseCond 2 x.p { s with syn := { s.syn with run := 0, want := 0 } }

/-- d of an accepted forward frame in 2^−32 p-units (R444). -/
def slipOf (x : Fwd) (s : State) : Int :=
  (pOf s - (256 * x.p + x.f)) * 2 ^ 32 - velTimes (tauOf (x.hops + 1) s) s

/-- Does |d| exceed SYN_TOL? -/
def slipAbove (x : Fwd) (s : State) : Bool := decide (((rf R.SYN_TOL 0 16 s : Nat) : Int) * 2 ^ 32 < (slipOf x s).natAbs)

/-- SLIP and SYN_D; d is compared exactly and kept rounded (a tie is free). -/
def checkSlip (x : Fwd) (s : State) : State :=
  let above := slipAbove x s
  let s := drawn (wr R.SYN_D (BitVec.ofInt 32 (roundFree (slipOf x s) (2 ^ 32) s)) s)
  let s' := { s with syn := { s.syn with above := above, under := !above } }
  if above && s.syn.above then raiseCond 4 x.p s'
  else if !above && s.syn.under then wb R.SYN_COND 4 false s'
  else s'

/-- CNTMIS at position k; without a return frame yet, a tile that is not the tail has nothing to compare (DEDUCED, log
entry 18). -/
def checkCount (k : Nat) (p : Int) (s : State) : State :=
  let n := k + 1 + popcount (rd R.SYN_PMASK s).toNat
  let s := wf R.SYN_STAT 16 6 n s
  if isTail s || rd R.SYN_PMASK s != 0 then checkCond 1 (n != rf R.SYN_CFG 0 5 s + 1) p s else s

/-- Every check of an accepted forward frame. -/
def chainChecks (x : Fwd) (aligned : Bool) (s : State) : State :=
  let k := x.hops + 1
  let s := wf R.SYN_STAT 6 5 k s
  let s := checkCond 0 (k != rf R.SYN_CFG 5 5 s) x.p s
  let s := checkCount k x.p s
  let s := checkDigest x s
  let s := if !aligned && decide (x.epoch ≠ epochOf s) then raiseCond 3 x.p s else s
  checkSlip x s

/-! ### Commands -/

/-- ROLE_DECISION (R438): 16 µs after PROOF begins. -/
def execRoleDecision (inLock outLock : Bool) (s : State) : Host.Outcome State Fault Refusal :=
  if s.mode = .proof ∧ s.syn.decided = false ∧ s.proofAt + 64000 ≤ s.time then
    let s := { s with syn := { s.syn with decided := true, fwdAt := s.time, retAt := s.time, bounds := 0 } }
    let s := s |> wb R.SYN_STAT 1 (!inLock) |> wb R.SYN_STAT 2 (!outLock) |> wb R.SYN_STAT 3 inLock
      |> wb R.SYN_STAT 4 outLock
    let s := if !inLock && !outLock then
        s |> checkCond 0 (rf R.SYN_CFG 5 5 s != 0) s.pos.hwm |> checkCount 0 s.pos.hwm
      else s
    .next (refreshCons s)
  else .next s

/-- REPEAT_FRAME (R440, R43): 64 µs after the head's last frame began. -/
def execRepeatFrame (s : State) : Host.Outcome State Fault Refusal :=
  if s.syn.decided && isHead s && decide (s.syn.sentAt + 256000 ≤ s.time) then .next (sendForward true s) else .next s

/-- A frame discarded by its CRC (R442), sixteen in a row being CHAINCRC (R450). -/
def frameDiscarded (ret : Bool) (s : State) : State :=
  let s := addSat R.SYN_CRCERR (if ret then 16 else 0) 16 1 s
  let n := (if ret then s.syn.badRet else s.syn.badRow) + 1
  let s := { s with syn := if ret then { s.syn with badRet := n % 16 } else { s.syn with badRow := n % 16 } }
  if n = 16 then tileAlarm 0x26 {} s else s

/-- FORWARD_FRAME_ACCEPT (R440, R442, R443, R445 to R447). The relay's own bits are those before this frame is checked: byte
16 has left when it ends. -/
def execForwardFrameAccept (frame : List Byte) (s : State) : Host.Outcome State Fault Refusal :=
  if s.syn.decided && !isHead s && s.mode.fromProof then
    let x := parseFwd frame
    let s := if isTail s then s else emit (.forward (relayFwd frame (anyAlarm s) (inconsistent s))) s
    if crcGood frame then
      let a := aligns x s
      let s := if a then alignTo x s else s
      let was := s.syn.inconsUp
      let s := { s with syn := { s.syn with
        badRow := 0, inconsUp := x.incons, almUp := x.anyalm, fwdAt := s.time, bounds := 0, owed := true, lastP := x.p } }
      let s := chainChecks x a (wb R.SYN_COND 5 false s)
      let s := if x.incons && !was then mismatchPolicy s else s
      .next (refreshCons (assertAll 22 s))
    else .next (frameDiscarded false s)
  else .next s

/-- RETURN_FRAME (R441): the tail answers the forward frame it accepted. -/
def execReturnFrame (s : State) : Host.Outcome State Fault Refusal :=
  if s.syn.decided && isTail s && !isHead s && s.syn.owed then
    let k := chainPos s
    .next (emit (.back (withCrc (retBody (2 ^ k) (if inconsistent s then 2 ^ k else 0) s.syn.lastP (anyAlarm s))))
      { s with syn := { s.syn with owed := false } })
  else .next s

/-- RETURN_FRAME_ACCEPT (R441, R442, R445, R446). -/
def execReturnFrameAccept (frame : List Byte) (s : State) : Host.Outcome State Fault Refusal :=
  if s.syn.decided && !isTail s && s.mode.fromProof then
    let present := getLE frame 0 4
    let inc := getLE frame 4 4
    let p := sext 40 (getLE frame 8 5)
    let alm := bitN (getLE frame 13 1) 0
    let s := if isHead s then s else emit (.back (relayBack frame (chainPos s) (anyAlarm s) (inconsistent s))) s
    if crcGood frame then
      let fresh := Nat.land inc (Nat.xor (rd R.SYN_IMASK s).toNat 0xFFFFFFFF)
      let s := { s with syn := { s.syn with badRet := 0, almDown := alm, retAt := s.time } }
      let s := s |> wr R.SYN_PMASK (BitVec.ofNat 32 present) |> wr R.SYN_IMASK (BitVec.ofNat 32 inc)
      let s := if isHead s then
          let s := wb R.SYN_COND 5 false { s with syn := { s.syn with bounds := 0 } }
          s |> checkCond 0 (rf R.SYN_CFG 5 5 s != 0) p |> checkCount 0 p
        else s
      let s := if fresh ≠ 0 then mismatchPolicy s else s
      .next (refreshCons s)
    else .next (frameDiscarded true s)
  else .next s

/-- CHAINLOSS (R446). -/
def execChainloss (s : State) : Host.Outcome State Fault Refusal :=
  let since := if isHead s then s.syn.retAt else s.syn.fwdAt
  if s.syn.decided && !(isHead s && isTail s) && !rb R.SYN_COND 5 s
      && (decide (since + 1024000 ≤ s.time) || decide (16 ≤ s.syn.bounds)) then
    .next (refreshCons (tileAlarm 0x25 {} (wb R.SYN_ALM 5 true (wb R.SYN_COND 5 true s))))
  else .next s

/-- SYN_CTL.ALIGN in IDLE (R443). -/
def requestAlign (s : State) : State :=
  if s.mode = .idle ∧ isHead s = false then { s with syn := { s.syn with alignArmed := true } } else s

/-- SYN_CTL.NEWEPOCH in IDLE, at the head or a tile alone (R444). -/
def newEpoch (s : State) : State :=
  if s.mode = .idle ∧ isHead s then
    let by_ := 256 * lineZero s + imod (pOf s) 256 - pOf s
    let put := fun (x : Dec) => { x with p := x.p + by_ }
    let s := { s with
      pos := { s.pos with d0 := put s.pos.d0, d1 := put s.pos.d1, base := put s.pos.base, hwm := lineZero s
                          win := s.pos.win.map (fun e => (e.1, e.2 + by_ * (rd (R.POS_ENC_DEN (driveInput s)) s).toNat)) }
      syn := { s.syn with rebase := false } }
    renumber (trackReversal (indexFlags (wr R.SYN_EPOCH (rd R.SYN_EPOCH s + 1) s)))
  else s

/-- POS_CTL.REBASE in IDLE (R59, R444). -/
def rebaseNow (s : State) : State :=
  if s.mode = .idle then
    let s := { s with pos := { s.pos with hwm := fdiv (pOf s) 256 - 1 } }
    let s := if isHead s then
        { wr R.SYN_EPOCH (rd R.SYN_EPOCH s + 1) s with syn := { s.syn with rebase := true } }
      else s
    renumber (trackReversal (indexFlags s))
  else s

/-- ALIGN (R443). -/
def execAlign (w : Writer) (s : State) : Host.Outcome State Fault Refusal :=
  if reaches w R.SYN_CTL s then .next (respond 0 0 (requestAlign s)) else .next (turnedAway w s)

/-- NEWEPOCH (R444). -/
def execNewepoch (w : Writer) (s : State) : Host.Outcome State Fault Refusal :=
  if reaches w R.SYN_CTL s then .next (respond 0 0 (newEpoch s)) else .next (turnedAway w s)

/-- REBASE (R59, R444). -/
def execRebase (w : Writer) (s : State) : Host.Outcome State Fault Refusal :=
  if reaches w R.POS_CTL s then .next (respond 0 0 (rebaseNow s)) else .next (turnedAway w s)

end Sys2Proof.Machine
end

