-- ==== Sys2Proof/Machine/Boundary.lean ====
section
/-! DEFINITION. LINE_BOUNDARY (R21): everything the boundary of a print line brings about, in the order of R71, R452, R57,
R62, R145, R26, R75, R180, R189, R419, R440, R456, R458. -/

namespace Sys2Proof.Machine

/-- LINE_PERIOD_MEASURE (R57). -/
def measurePeriod (s : State) : State :=
  let s := match s.pos.lastBoundary with
    | some t =>
      let d := s.time - t
      let s := wr R.POS_LPER (BitVec.ofNat 32 (min d 0xFFFFFFFF)) s
      let s := keepMin R.POS_LPERMIN 0 32 d s
      if d < 15625 then alarmBit R.POS_STAT 4 2 { idx := driveInput s } s else s
    | none => s
  { s with pos := { s.pos with lastBoundary := some s.time } }

/-- LINE_INDEX_LIMIT (R61). -/
def indexLimit (s : State) : State := indexFlags s

/-- OVERDUE_FIRE (R71): the fire of the line before, at this boundary or at its own instant where that has come; a Gen-3
FIRE frame carries the boundary + 96 ns (R201). -/
def overdueFire (g : Nat) (s : State) : State :=
  match (rgOf g s).pend with
  | none => s
  | some f =>
    let t := min s.time (((lockedAt g s).orElse (fun _ => (armedPlacement g s).map (fun e => e.2))).getD s.time)
    let s := if lineFires g f s && g3Ports g f.q s != [] && !frozen g f.q s then sendFire g f.q (s.time + 384) false s else s
    fireNow g f t s

/-- The fire of print line P is pending from its boundary on, fired or not as the mode at the boundary decides (R36). -/
def pendFire (g : Nat) (s : State) : State :=
  let x := rgOf g s
  let q := s.pos.hwm
  if x.fired = some q then s
  else
    let (n, f) := takenFor g q s
    putRg g { x with pend := some { q := q, n := n, f := f, fires := firesIn s.mode }, elk := none } s

/-- One registration update from a used capture's error e (R75). -/
def servoStep (kp ki : Nat) (range slew : Nat) (e : Int) (x : RegCh) : RegCh :=
  let lim : Int := ((range * 256 * 4096 : Nat) : Int)
  let i := clampI (-lim) lim (x.i + ki * e)
  let u := clampI (-lim) lim (kp * e + i)
  { x with i := i, c := x.c + clampI (-(slew : Int)) slew (fdiv (u + 2048) 4096 - x.c) }

/-- REGISTRATION_UPDATE (R75, R77) of channel k. With EN clear c stays, under OVR too, where R77 says nothing (log entry 104:
DESIGN CHOICE). -/
def updateReg (k : Nat) (s : State) : State :=
  let a := R.POS_REG_CTL k
  let x := regOf k s
  if rb a 4 s then
    if rb a 5 s then
      let slew : Int := rf a 12 8 s
      putReg k { x with errs := [], c := x.c + clampI (-slew) slew (x.target - x.c) } s
    else
      putReg k { x.errs.foldl (fun x e =>
        servoStep (rf (R.POS_REG_GAIN k) 0 16 s) (rf (R.POS_REG_GAIN k) 16 16 s) (rf a 6 6 s) (rf a 12 8 s) e x) x with
        errs := [] } s
  else s

/-- SSI_FRAME_START (R78) of input n: p at the first falling clock edge, the latch instant (R490), is kept. -/
def startSsi (n : Nat) (s : State) : State :=
  if rb (R.POS_SSI_CTL n) 0 s then
    let x := ssiOf n s
    let x := { x with lines := x.lines + 1 }
    let rested := match x.lastEnd with
      | some t => decide (t + 100000 ≤ s.time)
      | none => true
    if decide (rf (R.POS_SSI_CTL n) 12 12 s ≤ x.lines) && x.frame.isNone && rested then
      drawn (putSsi n { x with lines := 0, frame := some (pAt s.time s) } s)
    else putSsi n x s
  else s

/-- The image line that falls due at the boundary of P (R26). -/
def fallDue (s : State) : State :=
  let i := s.pos.hwm + prepOf s
  if composes s.mode && !isDue i s then
    { s with due := match s.due with
      | (a, b) :: r => if b + 1 = i then (a, i) :: r else (i, i) :: (a, b) :: r
      | [] => [(i, i)] }
  else s

/-- The SETMISS of the hardware response that wait are applied in the staged bank, or discarded while a nozzle-map commit is
pending (R128, R134). -/
def autoApply (s : State) : State :=
  let waits := s.lst.auto.filter (fun e => !e.applied && !e.issued)
  if waits = [] then s
  else if (nozzlePend s).isSome then wb R.NZL_STAT 4 true s
  else
    let s := waits.foldl (fun s e => readNoz true e.g e.n s) s
    { s with lst := { s.lst with
      mapS := waits.foldl (fun b e => updNoz 0 0 e.g e.n b s) s.lst.mapS
      auto := s.lst.auto.map (fun e => if e.issued then e else { e with applied := true }) } }

/-- AUTOMISS_COMMIT (R134): SETMISS applied again where it was discarded or its commit rejected, and the hardware's commit
issued. AOUT shows in the tile-level NZL_CMTSTAT alone: R141 gives bit 4 there, and the issuer is none of the blocks' (log
entry 113). -/
def autoCommit (s : State) : State :=
  if rb R.NZL_CFG 0 s && s.lst.auto.any (fun e => !e.issued) then
    let s := autoApply s
    if s.cmp.issued.any (fun c => c.issuer == 17) then s
    else
      let c : Commit := { nozzle := true, issuer := 17, line := s.pos.hwm + prepOf s + 1, mask := 0, cycle := coreCycle s }
      wb R.NZL_CMTSTAT 4 true { s with
        lst := { s.lst with auto := s.lst.auto.map (fun e => { e with issued := true, tried := true }) }
        cmp := { s.cmp with issued := s.cmp.issued ++ [c] } }
  else s

/-- ROUTE_SWITCH_TAKEN (R189) at the boundary of L_r − 4. -/
def takeSwitch (s : State) : State :=
  match s.links.rswPend with
  | some (l, t) =>
    if l - 4 ≤ s.pos.hwm then
      { s with links := { s.links with rswPend := none } }
        |> wb R.HLK_RSWSTAT 0 t |> wb R.HLK_RSWSTAT 1 false |> wf R.HLK_RSWSTAT 4 3 2
    else s
  | none => s

/-- BEACON (R419). -/
def beacon (s : State) : State :=
  let b := rf R.ASP_CFG 0 16 s
  if b ≠ 0 ∧ imod s.pos.hwm b = 0 then
    pushEvent
      { pt := 0x43
        payload := leBytes 8 (h40 s.pos.hwm + s.mode.num * 2 ^ 40) ++ leBytes 8 (epochOf s)
          ++ (List.range 8).flatMap (fun j => leBytes 4 (rd (R.STA_CDIG j) s).toNat) } s
  else s

/-- DRAIN_COMPLETE (R458) at the boundary of I_last + D_rel + 1. -/
def drainComplete (s : State) : State :=
  match s.mode, s.iLast with
  | .drain, some l =>
    if l + dRel s + 1 ≤ s.pos.hwm then setMode (if rb R.TIL_CFG 8 s then .armed else .idle) 2 false s else s
  | .drain, none => setMode (if rb R.TIL_CFG 8 s then .armed else .idle) 2 false s
  | _, _ => s

/-- The boundary of print line high-water mark + 1. -/
def boundary (s : State) : State :=
  let gs := usedGroups s
  let s := { s with pos := { s.pos with hwm := s.pos.hwm + 1 } }
  let s := gs.foldl (fun s g => overdueFire g s) s
  let s := boundaryStartBlank s
  let s := gs.foldl (fun s g => pendFire g s) s
  let s := timersLine (assertAll 0 (indexLimit (measurePeriod s)))
  let s := releaseUpTo (s.pos.hwm - dRel s - 1) s
  let s := settle (fallDue s)
  let s := (List.range 8).foldl (fun s k => updateReg k s) s
  let s := gs.foldl (fun s g => peelRead s.pos.hwm g s) s
  let s := (List.range 2).foldl (fun s n => startSsi n s) s
  let s := headBoundary (beacon (takeSwitch (autoCommit s)))
  drainComplete (boundaryEndForce s)

end Sys2Proof.Machine
end

