-- ==== Sys2Proof/Machine/Position.lean ====
section
/-! DEFINITION. The position unit: quadrature decoding and glitch filter, dual decoding and arbitration, counts to ticks,
velocity, position compares, event-input captures, registration, SSI, fire placement (R45 to R78). -/

namespace Sys2Proof.Machine

/-! ### Filters, decoders and the replay (R45 to R47, R50, R51, R53) -/

/-- Is a signal outside a hold-off that ends at `u`? -/
def openAt (u : Option Nat) (now : Nat) : Bool :=
  match u with
  | some t => decide (t ≤ now)
  | none => true

/-- What of an edge a filter accepts at `now` (R47). -/
def accepted (e : QEdge) (now : Nat) (x : Filt) : Option QEdge :=
  match e, openAt x.endA now, openAt x.endB now with
  | .a, true, _ => some .a
  | .b, _, true => some .b
  | .ab, true, true => some .ab
  | .ab, true, false => some .a
  | .ab, false, true => some .b
  | _, _, _ => none

/-- The count an edge gives: A leads B in forward motion (log entry 14), reversed by INV. `x` is the filter before the
edge. -/
def edgeCount (e : QEdge) (x : Filt) (inv : Bool) : Int :=
  let fwd : Bool := match e with
    | .a => x.a == x.b
    | .b => x.a != x.b
    | .ab => false
  let d : Int := match e with
    | .ab => 0
    | _ => if fwd then 1 else -1
  if inv then -d else d

/-- The filter after an accepted edge that gave the count `d`: a hold-off of `w` position cycles opens. -/
def edgeFilt (e : QEdge) (d : Int) (w now : Nat) (x : Filt) : Filt :=
  let u := if w = 0 then none else some (now + 2 * w)
  let x := if e = .a ∨ e = .ab then { x with a := !x.a, endA := u, cntA := d } else x
  if e = .b ∨ e = .ab then { x with b := !x.b, endB := u, cntB := d } else x

/-- Is a hold-off of signal `g` open whose interval has ended by `now`? -/
def ended (g : QSig) (now : Nat) (x : Filt) : Bool :=
  match (match g with | .a => x.endA | .b => x.endB) with
  | some t => decide (t ≤ now)
  | none => false

/-- The sample at a hold-off's end: the count that undoes a glitch (R47), none where the level is that of the edge. -/
def undoes (g : QSig) (level : Bool) (x : Filt) : Option Int :=
  match g with
  | .a => if level = x.a then none else some (-x.cntA)
  | .b => if level = x.b then none else some (-x.cntB)

def sampleFilt (g : QSig) (level : Bool) (x : Filt) : Filt :=
  match g with
  | .a => { x with a := level, endA := none }
  | .b => { x with b := level, endB := none }

/-- A filter with what the input brings: the filter after it, and the count it gives, if it acts at all. -/
def filterStep (i : RawIn) (inv : Bool) (x : Filt) : Filt × Option Int :=
  match i with
  | .edge e t w =>
    match accepted e t x with
    | some e => (edgeFilt e (edgeCount e x inv) w t x, some (edgeCount e x inv))
    | none => (x, none)
  | .sample g level t => if ended g t x then (sampleFilt g level x, undoes g level x) else (x, none)

/-- One decoder after a count of ±1 (R53); p stops at 2^47 − 1 (R61). -/
def countDec (num den : Nat) (d : Int) (x : Dec) : Dec :=
  let r : Int := (x.r : Int) + d * num
  { x with p := min (2 ^ 47 - 1) (x.p + fdiv r den), r := (imod r den).toNat }

/-- One decoder with what the input brings. -/
def decodeStep (num den : Nat) (inv : Bool) (x : Dec) (i : RawIn) : Dec :=
  let (f, d) := filterStep i inv x.f
  { countDec num den (d.getD 0) x with f := f }

/-- Scale of the input that drives p. -/
def driveNum (s : State) : Nat := (rd (R.POS_ENC_NUM (driveInput s)) s).toNat
def driveDen (s : State) : Nat := (rd (R.POS_ENC_DEN (driveInput s)) s).toNat
def driveInv (s : State) : Bool := rb (R.POS_ENC_CTL (driveInput s)) 1 s

/-- Raw edges in a stretch of the history; A and B together are two. -/
def rawEdges (l : List RawIn) : Nat :=
  (l.map (fun i => match i with | .edge .ab _ _ => 2 | .edge _ _ _ => 1 | .sample _ _ _ => 0)).sum

/-- The history after its oldest edge, and the third decoder taken past that edge. -/
def forgetOldest (num den : Nat) (inv : Bool) : List RawIn → Dec → List RawIn × Dec
  | [], x => ([], x)
  | .edge e t w :: l, x => (l, decodeStep num den inv x (.edge e t w))
  | .sample g b t :: l, x => forgetOldest num den inv l (decodeStep num den inv x (.sample g b t))

/-- The driving input's history takes `i` and keeps 64 raw edges (R51). -/
def recordRaw (i : RawIn) (s : State) : State :=
  let l := s.pos.raw ++ [i]
  let cut := fun (e : List RawIn × Dec) =>
    if 64 < rawEdges e.1 then forgetOldest (driveNum s) (driveDen s) (driveInv s) e.1 e.2 else e
  let (l, x) := cut (cut (l, s.pos.base))
  { s with pos := { s.pos with raw := l, base := x } }

/-- The replay through the third decoder (R51). -/
def replayed (s : State) : Dec := s.pos.raw.foldl (decodeStep (driveNum s) (driveDen s) (driveInv s)) s.pos.base

/-- When the replay first takes p to `x` or above, else now. -/
def replayCross (x : Int) (s : State) : Nat :=
  let go := fun (e : Dec × Option Nat) (i : RawIn) =>
    let y := decodeStep (driveNum s) (driveDen s) (driveInv s) e.1 i
    (y, if e.1.p < x ∧ x ≤ y.p then some (match i with | .edge _ t _ => t | .sample _ _ t => t) else e.2)
  ((s.pos.raw.foldl go (s.pos.base, none)).2).getD s.time

/-! ### Compares (R63 to R65) -/

/-- Compare `j` on a move of p from `p0` to `p1` with high-water mark `h` before the move. -/
def compareMove (p0 p1 h : Int) (j : Nat) (s : State) : State :=
  let v := cmpValue j s
  let fwd := decide (p0 < v ∧ v ≤ p1)
  let rev := rb (R.POS_CMP_CTL j) 2 s && decide (p1 < v ∧ v ≤ p0)
  let allowed := rb (R.POS_CMP_CTL j) 0 s && (!rb (R.POS_CMP_CTL j) 5 s || decide (256 * h < v))
  if allowed && (fwd || rev) then
    let s := assertSource (j / 16) (32 + j % 16) s
    if rb (R.POS_CMP_CTL j) 1 s then
      let step : Int := (rd (R.POS_CMP_STEP j) s).toInt
      let n : Int :=
        if fwd ∧ 0 < step then fdiv (p1 - v) step + 1
        else if !fwd ∧ step < 0 then fdiv (v - p1 - 1) (-step) + 1
        else 1
      let s := putCmp j (v + n * step) s
      if 1 < n then wb (R.POS_CMP_CTL j) 4 true s else s
    else s
  else s

/-- The compares that have a control value other than 0, rising. -/
def listedCompares (s : State) : List Nat :=
  s.regs.filterMap (fun e => ixOf (R.POS_CMP_CTL 0) 16 256 e.1)

def compareAll (p0 p1 h : Int) (s : State) : State :=
  (listedCompares s).foldl (fun s j => compareMove p0 p1 h j s) s

/-! ### What a move of p brings about (R21, R43, R51, R63, R70) -/

/-- Edge-locked row groups whose pending threshold `p1` reaches record the crossing time (R70): that of the count, or, for
the moves that an arbitration held, that of the replay. -/
def crossThresholds (p1 : Int) (s : State) : State :=
  (usedGroups s).foldl (fun s g =>
    let x := rgOf g s
    match x.pend with
    | some f =>
      if rb (R.POS_PHASE g) 0 s ∧ 256 * f.q + f.f ≤ p1 ∧ x.elk = none then
        putRg g { x with elk := some (replayCross (256 * f.q + f.f) s) } s
      else s
    | none => s) s

/-- Boundaries up to p, one line at a time; none in SLEEP (R43), where the high-water mark alone advances. -/
def runBoundaries : Nat → State → State
  | 0, s => s
  | n + 1, s =>
    if 256 * (s.pos.hwm + 1) ≤ pOf s ∧ s.pos.hwm + 1 ≤ 2 ^ 39 - 1 then
      runBoundaries n
        (if s.mode = .sleep ∨ s.waking then { s with pos := { s.pos with hwm := s.pos.hwm + 1 } } else boundary s)
    else s

/-- p has moved: held while arbitration runs (R51). -/
def moved (s : State) : State :=
  if s.pos.arb then s
  else
    let p0 := s.pos.issued
    let p1 := pOf s
    let h := s.pos.hwm
    let s := { s with pos := { s.pos with issued := p1 } }
    let s := if p0 ≤ p1 then runBoundaries ((fdiv p1 256 - h).toNat) s else s
    let s := if s.mode = .sleep ∨ s.waking then s else compareAll p0 p1 h s
    motionWake (trackReversal (crossThresholds p1 s))

/-- Edge-locked fires that fell due while arbitration ran are issued at its end (R51). -/
def issueHeld (s : State) : State :=
  (usedGroups s).foldl (fun s g =>
    let x := rgOf g s
    let w := 16 + rf (R.POS_PHASE g) 12 12 s
    putRg g { x with elk := x.elk.map (fun t => if s.pos.arbAt ≤ t + w then max t (s.time - w) else t) } s) s

/-! ### Velocity (R56) -/

/-- A count enters the velocity window; the window restarts at the first count after STOPPED. The next boundary is
predicted (R57). -/
def countVelocity (s : State) : State :=
  let den := driveDen s
  let k := min 8 (rf R.POS_SRC 8 4 s)
  let d := useDec s
  let old := if rb R.POS_STAT 6 s then [] else s.pos.win
  let win := ((s.time, d.p * den + d.r) :: old).take (2 ^ k + 1)
  let gap := match s.pos.lastCount with
    | some t => s.time - t
    | none => 0
  let s := { s with pos := { s.pos with win := win, lastCount := some s.time, lastGap := gap, countAt := s.time } }
  let s := wb R.POS_STAT 6 false s
  let s := { s with pos := { s.pos with
    nextAt := (reachTime (256 * (s.pos.hwm + 1) * driveDen s) s).map (fun e => e.1.toNat) } }
  match velocity s with
  | none => wr R.POS_VEL 0 s
  | some (n, d) =>
    let b := d * (if den = 0 then 1 else den)
    let v := fdiv (n * 2 ^ 33) b
    drawn (wr R.POS_VEL (BitVec.ofInt 32 (if imod (n * 2 ^ 33) b = 0 then v else v + (if Config.freeBool s.fresh then 1 else 0))) s)

/-- A count of the decoder in use: velocity, predictions (R56, R57, R69). -/
def countSeen (s : State) : State :=
  let olds := (usedGroups s).map (fun g => (g, armedPlacement g s))
  olds.foldl (fun s e => keepPlacement e.1 s.time e.2 s) (countVelocity s)

/-! ### Encoder loss and failover (R52) -/

def encOf (n : Nat) (s : State) : Enc := Sparse.get {} s.pos.enc n

def putEnc (n : Nat) (x : Enc) (s : State) : State :=
  { s with pos := { s.pos with enc := Sparse.set {} s.pos.enc n x } }

/-- Is SEC free of errors and enabled? -/
def secGood (s : State) : Bool :=
  let n := rf R.POS_SRC 2 2 s
  rb (R.POS_ENC_CTL n) 0 s && rf (R.POS_ENC_ERR n) 0 12 s == 0 && rf (R.POS_ENC_ERR n) 24 8 s == 0

/-- May p go over to SEC? Once on SEC there is no input left to go over to (DESIGN CHOICE, log entry 101). -/
def mayFailover (s : State) : Bool := rb R.POS_SRC 4 s && secGood s && !s.pos.onSec

/-- p continues on SEC's counts: both decoders loaded with SEC's state, remainder 0, DECFAIL clears, the window restarts and
v is 0. An arbitration in progress ends, and what it held is issued. -/
def failover (s : State) : State :=
  let x : Dec := { p := pOf s, f := (encOf (rf R.POS_SRC 2 2 s) s).f }
  let arb := s.pos.arb
  let s := { s with pos := { s.pos with
    d0 := x, d1 := x, base := x, raw := [], use := 0, dropped := none, agreed := 0, arb := false, onSec := true, win := []
    lastCount := none, lastGap := 0, nextAt := none, illLine := 0 } }
  let s := s |> wr R.POS_VEL 0 |> wb R.POS_STAT 2 false |> wb R.POS_STAT 0 false
    |> alarmBit R.POS_STAT 11 6 { idx := rf R.POS_SRC 2 2 s }
  if arb then issueHeld (moved s) else s

/-- Encoder loss on the driving input: failover, or SAFE (R52, R456). -/
def encoderLoss (s : State) : State :=
  let ok := mayFailover s
  let stands := encStands s
  let s := alarmBit R.POS_STAT 3 1 { idx := driveInput s } s
  if ok then failover { s with pos := { s.pos with lossForces := stands } }
  else
    forceSafe 7 { s with pos := { s.pos with lossForces := true } }

/-! ### Edges (R46 to R48, R51, R52) -/

/-- The filter width in use (R48). -/
def widthOf (n : Nat) (s : State) : Nat :=
  if rb (R.POS_ENC_GF n) 24 s then (encOf n s).prog else (encOf n s).adapted

/-- Are inputs decoded in this mode (R38, R60)? -/
def counting (s : State) : Bool := s.mode != .cold && s.mode != .load

/-- A count of `d` in the CNT of input `n` (R45). -/
def countInput (n : Nat) (d : Int) (s : State) : State :=
  wr (R.POS_ENC_CNT n) (rd (R.POS_ENC_CNT n) s + BitVec.ofInt 32 d) s

/-- Both decoders take what the driving input brings (R50), and the history keeps it. A count of the one in use moves p;
illegal transitions are counted line by line (R52). -/
def decode (i : RawIn) (s : State) : State :=
  let num := driveNum s
  let den := driveDen s
  let inv := driveInv s
  let d := (filterStep i inv (useDec s).f).2.getD 0
  let l := fdiv (pOf s) 256
  let s := recordRaw i s
  let s := { s with pos := { s.pos with
    d0 := decodeStep num den inv s.pos.d0 i, d1 := decodeStep num den inv s.pos.d1 i } }
  if d = 0 then s
  else
    let s := { s with pos := { s.pos with
      agreed := if s.pos.dropped.isSome ∧ s.pos.d0.p = s.pos.d1.p then s.pos.agreed + 1 else 0
      illLine := if fdiv (pOf s) 256 = l then s.pos.illLine else 0 } }
    fireUpdates (moved (countSeen s))

/-- The input after an accepted edge that gave the count `d` (R47, R48). The shortest interval of a window takes in the one
from the last edge of the window before (DEDUCED, log entry 102). -/
def edgeEnc (e : QEdge) (d : Int) (w now : Nat) (x : Enc) : Enc :=
  let gap := x.lastEdge.map (fun t => (now - t) / 2)
  { x with
    f := edgeFilt e d w now x.f
    lastEdge := some now, edges := x.edges + 1
    revs := if d < 0 then x.revs + 1 else x.revs
    emin := match x.emin, gap with
      | some m, some g => some (min m g)
      | none, g => g
      | m, none => m }

/-- An illegal transition on input `n` (R46, R52): more than 16 within a line on the driving input, or one with DECFAIL, is
encoder loss. -/
def illegalTransition (n : Nat) (s : State) : State :=
  let s := addSat (R.POS_ENC_ERR n) 0 12 1 s
  if n = driveInput s then
    let s := { s with pos := { s.pos with illLine := s.pos.illLine + 1 } }
    if 16 < s.pos.illLine ∨ rb R.POS_STAT 2 s then encoderLoss s else s
  else s

/-- QUADRATURE_EDGE (R45 to R47, R50 to R53, R56). -/
def execQuadratureEdge (n : Fin 4) (e : QEdge) (s : State) : Host.Outcome State Fault Refusal :=
  if counting s && rb (R.POS_ENC_CTL n) 0 s then
    let x := encOf n s
    let w := widthOf n s
    let s' := match accepted e s.time x.f with
      | some e =>
        let d := edgeCount e x.f (rb (R.POS_ENC_CTL n) 1 s)
        let s := putEnc n (edgeEnc e d w s.time x) s
        if d = 0 then s else countInput n d s
      | none => s
    let s' := if n.val = driveInput s then decode (.edge e s.time w) s' else s'
    .next (if accepted e s.time x.f = some .ab then illegalTransition n s' else s')
  else .next s

/-- HOLD_OFF_EXPIRY (R47): at the end of the interval the signal is sampled again; a difference is undone by the opposite
count. An undone reverse count was no reversal (R49). -/
def execHoldOffExpiry (n : Fin 4) (g : QSig) (level : Bool) (s : State) : Host.Outcome State Fault Refusal :=
  let x := encOf n s
  let s' :=
    if ended g s.time x.f then
      match undoes g level x.f with
      | some c =>
        let s := putEnc n { x with f := sampleFilt g level x.f, revs := if 0 < c then x.revs - 1 else x.revs } s
        countInput n c (addSat (R.POS_ENC_ERR n) 12 12 1 s)
      | none => putEnc n { x with f := sampleFilt g level x.f } s
    else s
  if counting s then .next (if n.val = driveInput s then decode (.sample g level s.time) s' else s') else .next s

/-- ADAPTED_WIDTH_UPDATE (R48). -/
def execAdaptedWidthUpdate (n : Fin 4) (s : State) : Host.Outcome State Fault Refusal :=
  let x := encOf n s
  if 256 ≤ x.edges then
    let lo := rf (R.POS_ENC_GF n) 8 8 s
    let hi := rf (R.POS_ENC_GF n) 16 8 s
    let w := min hi (max lo ((x.emin.getD 0) / 4))
    .next (putEnc n { x with adapted := w, edges := 0, emin := none } s)
  else .next s

/-- Z_EDGE (R49): the count between successive Z edges in forward motion. The input that drives p counts as the primary
after a failover too (DEDUCED, log entry 103). -/
def execZEdge (n : Fin 4) (s : State) : Host.Outcome State Fault Refusal :=
  let x := encOf n s
  if counting s && rb (R.POS_ENC_CTL n) 0 s then
    let c : Int := (rd (R.POS_ENC_CNT n) s).toInt
    let zc : Int := rf (R.POS_ENC_CTL n) 8 24 s
    let bad := match x.lastZ with
      | some z => rb (R.POS_ENC_CTL n) 2 s && x.revs == 0 && decide (2 < (wrapS 32 (c - z) - zc).natAbs)
      | none => false
    let s := putEnc n { x with lastZ := some c, revs := 0 } s
    if bad then
      let s := addSat (R.POS_ENC_ERR n) 24 8 1 s
      .next (if n.val = driveInput s then alarmBit R.POS_STAT 12 7 { idx := n } s else s)
    else .next s
  else .next s

/-- Decoder `k` off by `dev` ticks. -/
def deviate (k : Nat) (dev : Int) (s : State) : State :=
  if k = 0 then { s with pos := { s.pos with d0 := { s.pos.d0 with p := s.pos.d0.p + dev } } }
  else { s with pos := { s.pos with d1 := { s.pos.d1 with p := s.pos.d1.p + dev } } }

/-- DECODER_DISAGREEMENT (R50, R51): a fault has put decoder `which` off by `dev`. A
difference between the two that has stood 4 cycles starts arbitration; a shorter one has gone again. With one decoder
dropped the other's word stands, and the agreement of the shadow starts afresh (R52). -/
def execDecoderDisagreement (which : Fin 2) (dev : Deviation) (s : State) : Host.Outcome State Fault Refusal :=
  let t := deviate which dev.ticks.toInt s
  if counting s ∧ 4 ≤ dev.cycles.toNat ∧ t.pos.d0.p ≠ t.pos.d1.p then
    if s.pos.dropped.isSome then .next (moved { t with pos := { t.pos with agreed := 0 } })
    else if s.pos.arb then .next t
    else
      .next ({ t with pos := { t.pos with arb := true, arbAt := s.time } } |> wb R.POS_STAT 0 true
        |> alarmBit R.POS_STAT 1 0 { idx := driveInput s })
  else .next s

/-- Does decoder `x` agree with the replay (R51)? -/
def agreesWith (x y : Dec) : Bool := x.p == y.p && x.r == y.r

/-- The decoder that agrees with the replay: `keep` where both do, neither where none does. -/
def verdict (keep : Fin 2) (s : State) : Option Nat :=
  let a := agreesWith s.pos.d0 (replayed s)
  let b := agreesWith s.pos.d1 (replayed s)
  if a && (keep == 0 || !b) then some 0 else if b then some 1 else none

/-- Decoder `k` is kept, the other reloaded with its state as its shadow (R51, R52). -/
def keepDecoder (k : Nat) (s : State) : State :=
  let x := if k = 0 then s.pos.d0 else s.pos.d1
  { s with pos := { s.pos with d0 := x, d1 := x, use := k, dropped := some (1 - k), agreed := 0 } }

/-- ARBITRATION_END (R51, R52), 128 position cycles after the start: the agreeing decoder is kept and the held moves are
issued, or the encoder is lost. Where both agree R51 does not say which is kept: free, `keep` (log entry 106). -/
def execArbitrationEnd (keep : Fin 2) (s : State) : Host.Outcome State Fault Refusal :=
  if s.pos.arb ∧ s.pos.arbAt + 256 ≤ s.time then
    let v := verdict keep s
    let s := wb R.POS_STAT 0 false { s with pos := { s.pos with arb := false } }
    match v with
    | some k => .next (issueHeld (moved (redLost 0 (wb R.POS_STAT 2 true (keepDecoder k s)))))
    | none => .next (encoderLoss (issueHeld (moved s)))
  else .next s

/-- STOP_DETECTION (R56, R60): no count for 2^24 position cycles. -/
def execStopDetection (s : State) : Host.Outcome State Fault Refusal :=
  if counting s ∧ s.pos.countAt + 2 ^ 25 ≤ s.time then .next (s |> wr R.POS_VEL 0 |> wb R.POS_STAT 6 true) else .next s

/-! ### Placement (R69, R70, R72) -/

/-- PREDICTED_FIRE (R69): the armed placement of row group g fires at its instant. -/
def execPredictedFire (g : Fin 64) (s : State) : Host.Outcome State Fault Refusal :=
  match armedPlacement g s with
  | some (f, t) => if t ≤ s.time then .next (fireNow g f t s) else .next s
  | none => .next s

/-- EDGE_LOCKED_FIRE (R70): 4.0 ns and ELDLY after the count that took p to the threshold; held while arbitration runs
(R51). -/
def execEdgeLockedFire (g : Fin 64) (s : State) : Host.Outcome State Fault Refusal :=
  match (rgOf g s).pend, lockedAt g s with
  | some f, some t => if t ≤ s.time ∧ s.pos.arb = false then .next (fireNow g f t s) else .next s
  | _, _ => .next s

/-- PLACEMENT_CANCEL (R69): a placement more than twice the last count interval after the last count is cancelled until
the next count; a FIRE frame sent for it is followed by one with HOLD (R201). -/
def execPlacementCancel (g : Fin 64) (s : State) : Host.Outcome State Fault Refusal :=
  match placement g s with
  | some (f, t) =>
    if tooLate t s then .next (holdFrame g f.q (putRg g { rgOf g s with cancelled := true } s)) else .next s
  | none => .next s

/-! ### Event inputs (R66, R67, R75) -/

/-- A capture of (time, p) reaches the registers, or the shadow while the read window is open. -/
def landCapture (e t : Nat) (p : Int) (s : State) : State :=
  s |> wr (R.POS_EV_TSL e) (BitVec.ofNat 32 t)
    |> wr (R.POS_EV_TSH e) (BitVec.ofNat 32 (t / 2 ^ 32 % 2 ^ 24))
    |> wr (R.POS_EV_PL e) (BitVec.ofNat 32 (low 48 p))
    |> wr (R.POS_EV_PH e) (BitVec.ofNat 32 (low 48 p / 2 ^ 32))

/-- A mark capture of registration channel k (R75): its error kept while used, NEXT advanced always. -/
def markCapture (k : Nat) (p : Int) (s : State) : State :=
  let nx := regNext k s
  let e := p - nx
  let x := regOf k s
  let s := putRegNext k (nx + (rd (R.POS_REG_MSTEP k) s).toNat) s
  if e.natAbs ≤ rf (R.POS_REG_CTL k) 20 12 s * 16 ∧ rb (R.POS_REG_CTL k) 5 s = false then
    putReg k { x with errs := x.errs ++ [e] } s
  else s

/-- EVENT_INPUT_CAPTURE (R66, R67, R75, R235, R359, R365, R461): a filtered edge of event input e. -/
def execEventInputCapture (e : Fin 16) (rising : Bool) (s : State) : Host.Outcome State Fault Refusal :=
  if counting s then
    let t := s.time - 2 * rf (R.POS_EV_CTL e) 2 8 s
    let x := evOf e s
    let s := putEv e { x with level := rising
                              rise := if rising then some t else x.rise
                              fall := if rising then x.fall else some t
                              lastRise := if rising then x.rise else x.lastRise } s
    let s := pwmEdge e rising t s
    if rb (R.POS_EV_CTL e) (if rising then 0 else 1) s then
      let p := pAt t s
      let s := drawn s
      let x := evOf e s
      let s :=
        if x.window then
          match x.shadow with
          | some _ => wb (R.POS_EV_STAT e) 1 true s
          | none => wb (R.POS_EV_STAT e) 0 true (putEv e { x with shadow := some (t, p) } s)
        else landCapture e t p s
      let s := ((List.range 8).filter (fun k =>
        rb (R.POS_REG_CTL k) 4 s && rf (R.POS_REG_CTL k) 0 4 s == e.val)).foldl (fun s k => markCapture k p s) s
      let s := timerEvIn e s
      let s := if rb (R.POS_EV_CTL e) 10 s then assertAll (48 + e) s else s
      .next (if s.mode = .sleep ∧ rb R.TIL_WAKE 1 s ∧ rb R.TIL_WAKE (16 + e) s then wake s else s)
    else .next s
  else .next s

/-- SSI_FRAME_COMPLETE (R78): the frame's value, its change against Δp between the latch instants. -/
def execSsiFrameComplete (n : Fin 2) (raw : BitVec 40) (s : State) : Host.Outcome State Fault Refusal :=
  let x := ssiOf n s
  match x.frame with
  | some p =>
    let bits := rf (R.POS_SSI_CTL n) 2 5 s + 1
    let g := raw.toNat % 2 ^ bits
    let v := if rb (R.POS_SSI_CTL n) 1 s then fromGray bits g else g
    let s := putSsi n { x with prev := some (v, p), frame := none, lastEnd := some s.time } s
    let s := wr (R.POS_SSI_LAST n) (BitVec.ofNat 32 v) s
    match x.prev with
    | none => .next s
    | some (v0, p0) =>
      let dv := sext bits ((v + 2 ^ bits - v0) % 2 ^ bits)
      let num : Int := dv * rf (R.POS_SSI_SCALE n) 0 16 s
      let den : Int := rf (R.POS_SSI_SCALE n) 16 16 s
      let dev := (p - p0) - fdiv num den - (if imod num den = 0 then 0 else if Config.freeBool s.fresh then 1 else 0)
      let s := drawn (wr (R.POS_SSI_DEV n) (BitVec.ofInt 32 dev) s)
      .next (if rf (R.POS_SSI_TOL n) 0 16 s < dev.natAbs then
        alarmBit R.POS_STAT (9 + n) (4 + n) { idx := n } s else s)
  | none => .next s

end Sys2Proof.Machine
end

