-- ==== Sys2Proof/Machine/PosRegs.lean ====
section
/-! DEFINITION. The plain access codes of a register write (R14 to R16), and the accesses of the position unit, line store
and codec registers that do more than their access codes say (R48, R52, R57, R63, R67, R77, R177, R178). -/

namespace Sys2Proof.Machine

/-! ### Access codes (R15, R16) -/

/-- A write carries 1 in a reserved bit of the register at `a` (R14). -/
def reservedHit (a : Nat) (v : Word) : Bool :=
  match rowAt a with
  | some r => v &&& ~~~(BitVec.ofNat 32 r.defined) != 0
  | none => false

/-- The write carries, in a sealed field, a bit that differs from the value held (R16). -/
def sealedHit (a : Nat) (v : Word) (s : State) : Bool :=
  match rowAt a with
  | some r => s.sealed && (v ^^^ rd a s) &&& BitVec.ofNat 32 r.sl != 0
  | none => false

/-- The bits a write may set: RW, and SL before sealing. -/
def writable (r : RegRow) (s : State) : Word := BitVec.ofNat 32 (if s.sealed then r.rw else r.rw ||| r.sl)

/-- The value the register takes from a write: RW and unsealed SL bits from the write, W1C bits cleared where it carries 1
and hardware has not set them in this core cycle (R16), every other bit kept. -/
def coded (r : RegRow) (a : Nat) (v : Word) (s : State) : Word :=
  let old := rd a s
  let m := writable r s
  (old &&& ~~~m &&& ~~~(v &&& BitVec.ofNat 32 r.w1c &&& ~~~setNow a s)) ||| (v &&& m)

/-- A write that acts as the access codes say and no further. -/
def codedWrite (a : Nat) (v : Word) (s : State) : State :=
  match rowAt a with
  | some r => wr a (coded r a v s) s
  | none => s

/-- STATUS of a write that is performed, and its sealed-write event (R16, R390, R418). -/
def sealEvent (hit : Bool) (a : Nat) (s : State) : State :=
  if hit then respond 0 3 (postEvent 2 0 0 0 a s) else respond 0 0 s

/-! ### Position unit -/

/-- A write of POS_ENCn_GF (R48): the program width; in LOAD also the start of the adapted width. -/
def writeGf (n : Nat) (v : Word) (s : State) : State :=
  let s := codedWrite (R.POS_ENC_GF n) v s
  let x := encOf n s
  putEnc n { x with prog := fld v 0 8, adapted := if s.mode = .load then fld v 0 8 else x.adapted } s

/-- GLITCH_FILTER_WRITE (R48, R16). -/
def execGlitchFilterWrite (w : Writer) (n : Fin 4) (v : Word) (s : State) : Host.Outcome State Fault Refusal :=
  let a := R.POS_ENC_GF n
  if reservedHit a v then .fault (.reservedBit a)
  else if reaches w a s then .next (sealEvent (sealedHit a v s) a (writeGf n v s)) else .next (turnedAway w s)

/-- The value of a register whose fields are RC, returned to its Reset value (R15). -/
def clearRead (a : Nat) (s : State) : State :=
  respond (beforeEvents a (rd a s) s) 0 (clearFields a 0xFFFFFFFF (regReset a) s)

/-- POS_LPERMIN_READ (R57). -/
def execPosLperminRead (w : Writer) (s : State) : Host.Outcome State Fault Refusal :=
  if hears w R.POS_LPERMIN s then .next (clearRead R.POS_LPERMIN s) else .next s

/-- POS_ENCN_ERR_READ (R52). -/
def execPosEncErrRead (w : Writer) (n : Fin 4) (s : State) : Host.Outcome State Fault Refusal :=
  if hears w (R.POS_ENC_ERR n) s then .next (clearRead (R.POS_ENC_ERR n) s) else .next s

/-- POS_CTL.FONOW (R52): failover where FOEN is set and SEC is enabled and free of errors. -/
def requestFailover (s : State) : State := if mayFailover s then failover s else s

/-- FONOW (R52). -/
def execFonow (w : Writer) (s : State) : Host.Outcome State Fault Refusal :=
  if reaches w R.POS_CTL s then .next (respond 0 0 (requestFailover s)) else .next (turnedAway w s)

/-- POS_CTL.DECRST (R52): a dropped decoder that has agreed for 2^20 counts returns to service. -/
def returnDecoder (s : State) : State :=
  if s.pos.dropped.isSome ∧ 2 ^ 20 ≤ s.pos.agreed then
    wb R.POS_STAT 2 false { s with pos := { s.pos with dropped := none, agreed := 0 } }
  else s

/-- DECRST (R52). -/
def execDecrst (w : Writer) (s : State) : Host.Outcome State Fault Refusal :=
  if reaches w R.POS_CTL s then .next (respond 0 0 (returnDecoder s)) else .next (turnedAway w s)

/-- A compare's value is committed (R63, R65): PAST where p already lies at or above it. -/
def commitCompare (j : Nat) (v : Int) (s : State) : State :=
  wb (R.POS_CMP_CTL j) 3 (decide (v ≤ pOf s)) (putCmp j v s)

/-- A read of POS_EVn_TSL (R67): the window opens; TSH, PL and PH are latched for the reader. -/
def openCapture (w : Writer) (e : Nat) (s : State) : State :=
  putEv e { evOf e s with window := true }
    (latchPut w [(R.POS_EV_TSH e, (rd (R.POS_EV_TSH e) s).toNat), (R.POS_EV_PL e, (rd (R.POS_EV_PL e) s).toNat),
      (R.POS_EV_PH e, (rd (R.POS_EV_PH e) s).toNat)] s)

/-- The window closes: a shadowed capture lands (R67). -/
def closeCapture (e : Nat) (s : State) : State :=
  let x := evOf e s
  let s := putEv e { x with window := false, shadow := none } s
  match x.shadow with
  | some (t, p) => wb (R.POS_EV_STAT e) 0 false (landCapture e t p s)
  | none => s

/-- CAPTURE_READ_OPEN (R67). -/
def execCaptureReadOpen (w : Writer) (e : Fin 16) (s : State) : Host.Outcome State Fault Refusal :=
  if hears w (R.POS_EV_TSL e) s then .next (respond (rd (R.POS_EV_TSL e) s) 0 (openCapture w e s)) else .next s

/-- CAPTURE_READ_CLOSE (R67). -/
def execCaptureReadClose (w : Writer) (e : Fin 16) (s : State) : Host.Outcome State Fault Refusal :=
  if hears w (R.POS_EV_TSL e) s then
    let (l, s) := latchTake w (R.POS_EV_PH e) s
    .next (respond (BitVec.ofNat 32 (l.getD (rd (R.POS_EV_PH e) s).toNat)) 0 (closeCapture e s))
  else .next s

/-- A write of POS_REGk_CTL (R77): clearing OVR sets i from c. -/
def writeRegCtl (k : Nat) (v : Word) (s : State) : State :=
  let was := rb (R.POS_REG_CTL k) 5 s
  let s := codedWrite (R.POS_REG_CTL k) v s
  let x := regOf k s
  if was && !bit v 5 then putReg k { x with i := 4096 * x.c } s else s

/-- REGISTRATION_OVR_CLEAR (R77): a write of POS_REGk_CTL that clears OVR. -/
def execRegistrationOvrClear (w : Writer) (k : Fin 8) (v : Word) (s : State) : Host.Outcome State Fault Refusal :=
  let a := R.POS_REG_CTL k
  if bit v 5 then .next s
  else if reservedHit a v then .fault (.reservedBit a)
  else if reaches w a s then .next (sealEvent (sealedHit a v s) a (writeRegCtl k v s)) else .next (turnedAway w s)

/-! ### Line store and codec -/

/-- LST_OCCMAX_READ (R15, R177): the field takes the occupancy then in force. -/
def execLstOccmaxRead (w : Writer) (s : State) : Host.Outcome State Fault Refusal :=
  let a := R.LST_OCCMAX
  if hears w a s then
    .next (respond (beforeEvents a (rd a s) s) 0 (clearFields a 0x1FFFFF (BitVec.ofNat 32 (occupancy s)) s))
  else .next s

/-- What a read of COD_MODES0 latches (R178). -/
def latchModes (w : Writer) (s : State) : State :=
  latchPut w [(R.COD_MODES1, (rd R.COD_MODES1 s).toNat), (R.COD_MODES2, (rd R.COD_MODES2 s).toNat),
    (R.COD_LSIZE, (rd R.COD_LSIZE s).toNat)] s

/-- COD_MODES0_READ (R178). -/
def execCodModes0Read (w : Writer) (s : State) : Host.Outcome State Fault Refusal :=
  if hears w R.COD_MODES0 s then .next (respond (rd R.COD_MODES0 s) 0 (latchModes w s)) else .next s

end Sys2Proof.Machine
end

