-- ==== Sys2Proof/Machine/LineCmds.lean ====
section
/-! DEFINITION. Composer commands (R81 to R109): lines composed, lockstep lanes, proof sets and commits, the stream ring. -/

namespace Sys2Proof.Machine

/-- Composed codes still needed: of lines whose deadline lies ahead or that are not yet conditioned. -/
def keepComposed (s : State) : List (Nat × Int × List Nat) :=
  s.cmp.composed.filter (fun e => decide (s.pos.hwm < e.2.1) || (match s.lst.lastCond with
    | some l => decide (l < e.2.1)
    | none => true))

/-- The slice has composed line `i`: its registers and event source; the slice is free. -/
def finishLine (cl : Nat) (i : Int) (s : State) : State :=
  let s := composeNow cl i { s with cmp := { s.cmp with composed := keepComposed s } }
  let s := onSlice cl (fun x => { x with cur := none, mis := 0, third := false, redo := false }) s
  settle (assertSource cl 1 (wrLine (R.CLC_LASTL cl) (R.CLC_LASTH cl) i s))

/-- LINE_COMPOSED (R81, R109). -/
def execLineComposed (cl : Fin 16) (s : State) : Host.Outcome State Fault Refusal :=
  let x := sliceOf cl s
  match x.cur with
  | some i => if unitsRun s && sliceWorks cl s && !x.testing then .next (finishLine cl i s) else .next s
  | none => .next s

/-! ### Lockstep lanes (R106, R107, R109) -/

/-- No lane works: NOLANE, the slice stops (R109). -/
def noLane (cl : Nat) (i : Int) (s : State) : State :=
  let s := redLost 1 (wf (R.CLC_LANE cl) 0 2 0 s)
  let s := onSlice cl (fun x => { x with cur := none, testing := false, third := false, redo := false }) s
  settle (alarmBit (R.CLC_ASTAT cl) 5 13 { line := i, cluster := cl } (wb R.TIL_FORCE 0 true s))

/-- LANE_MISMATCH (R106, R107): the first starts the line again, the second the self-test; on the third composition the
mismatch is taken as both lanes failing. A line started again is composed from what stands when it is complete. Without LOCKSTEP, or on one lane, no comparison is made. -/
def execLaneMismatch (cl : Fin 16) (s : State) : Host.Outcome State Fault Refusal :=
  let x := sliceOf cl s
  match x.cur with
  | some i =>
    if unitsRun s && rb (R.CLC_CTL cl) 2 s && rf (R.CLC_LANE cl) 0 2 s == 3 && !x.testing then
      let s := addSat (R.CLC_LANE cl) 8 8 1 (alarmBit (R.CLC_ASTAT cl) 3 11 { line := i, cluster := cl } s)
      if x.third then .next (noLane cl i s)
      else .next (onSlice cl (fun x => { x with
        mis := x.mis + 1, redo := true, testing := decide (1 ≤ x.mis), tested := i }) s)
    else .next s
  | none => .next s

/-- LANE_SELF_TEST_END (R107). -/
def execLaneSelfTestEnd (cl : Fin 16) (pass0 pass1 : Bool) (s : State) : Host.Outcome State Fault Refusal :=
  let x := sliceOf cl s
  if unitsRun s && x.testing then
    let i := x.tested
    if !pass0 && !pass1 then .next (noLane cl i s)
    else
      let s := onSlice cl (fun x => { x with testing := false, third := pass0 && pass1 && x.cur.isSome }) s
      if pass0 && pass1 then .next (settle s)
      else
        let s := wf (R.CLC_LANE cl) 0 2 (b2n pass0 + 2 * b2n pass1) s
        .next (settle (redLost 1 (alarmBit (R.CLC_ASTAT cl) 4 12 { line := i, cluster := cl } s)))
  else .next s

/-! ### Proof sets (R99 to R102) -/

/-- A write of the PS register at `a` of cluster `cl` (R99, R101): in LOAD to both banks, else to the proof bank unless a
commit is pending in the cluster. `v` holds defined bits only. -/
def writeProof (cl a : Nat) (v : Word) (s : State) : State :=
  if s.mode = .load then wr a v (putProof a v s)
  else if (proofPend cl s).isSome then wb (R.CLC_ASTAT cl) 7 true s
  else putProof a v s

/-- The proof-staged registers that are the low words of pairs, with the offset of the high word (R111, R355). -/
def psPairLow (o : Nat) : Bool := o == 0x110C || o == 0x112C || o == 0x114C || o == 0x116C || o == 0x11A8
def psPairHigh (o : Nat) : Bool := o == 0x1110 || o == 0x1130 || o == 0x1150 || o == 0x1170 || o == 0x11AC

/-- A fabric write of a PS register by `w`: staged low words, high words that place both (R99, R356). A low word written while
a commit is pending is staged like any other, without WREJ: it reaches the bank with its high word only (log entry 112:
DESIGN CHOICE). -/
def proofAccess (w : Writer) (cl a : Nat) (v : Word) (s : State) : State :=
  let o := a % 0x10000
  if psPairLow o then stagePut w (a + 4) v.toNat s
  else if psPairHigh o then
    let (l, s) := stageTake w a s
    let s := match l with
      | some x => if (proofPend cl s).isSome ∧ s.mode ≠ .load then s else writeProof cl (a - 4) (BitVec.ofNat 32 x) s
      | none => s
    writeProof cl a v s
  else writeProof cl a v s

/-- PROOF_BANK_WRITE (R99, R101). An address that holds no PS register is another command's. -/
def execProofBankWrite (w : Writer) (a : BitVec 36) (v : Word) (s : State) : Host.Outcome State Fault Refusal :=
  let a := a.toNat
  match rowAt a with
  | some r =>
    if r.ps then
      if reservedHit a v then .fault (.reservedBit a)
      else if reaches w a s then
        .next (respond 0 0 (proofAccess w ((a - 0x310000000) / 0x10000) a v s))
      else .next (turnedAway w s)
    else .next s
  | none => .next s

/-! ### Commits (R100 to R102, R128, R129) -/

/-- The clusters with CMP_CTL.EN set. -/
def enabledMask (s : State) : Nat := ((List.range 16).map (fun cl => if sliceEn cl s then 2 ^ cl else 0)).sum

/-- Line registers of an issuer. -/
def commitLine (nozzle : Bool) (issuer : Nat) (s : State) : Int :=
  match nozzle, decide (issuer < 16) with
  | false, true => rdLine (R.CLC_CMTL issuer) (R.CLC_CMTH issuer) s
  | false, false => rdLine R.CMP_CMTL R.CMP_CMTH s
  | true, true => rdLine (R.CLN_CMTL issuer) (R.CLN_CMTH issuer) s
  | true, false => rdLine R.NZL_CMTL R.NZL_CMTH s

/-- A commit is issued (R100, R128): discarded while the issuer's OUT is set. -/
def issueCommit (nozzle : Bool) (issuer mask : Nat) (s : State) : State :=
  let st := commitStat nozzle issuer
  if rb st 3 s then s
  else
    let c : Commit := { nozzle := nozzle, issuer := issuer, line := commitLine nozzle issuer s, mask := mask, cycle := coreCycle s }
    wb st 3 true { s with cmp := { s.cmp with issued := s.cmp.issued ++ [c] } }

/-- The issuer number of a block: a cluster, or 16 for the tile-level block. -/
def issuerOf (at_ : Option (Fin 16)) : Nat :=
  match at_ with
  | some cl => cl.val
  | none => 16

/-- PROOF_SET_COMMIT_ISSUE (R100). -/
def execProofSetCommitIssue (w : Writer) (at_ : Option (Fin 16)) (mask : BitVec 16) (s : State) :
    Host.Outcome State Fault Refusal :=
  if reaches w (commitStat false (issuerOf at_)) s then .next (respond 0 0 (issueCommit false (issuerOf at_) mask.toNat s)) else .next (turnedAway w s)

/-- Of the commits issued, the one the unit decides first: oldest core cycle, a nozzle-map commit first among those of one
cycle (R128). -/
def firstCommit : List Commit → Option Commit
  | [] => none
  | c :: r =>
    match firstCommit r with
    | none => some c
    | some d => if d.cycle < c.cycle ∨ (d.cycle = c.cycle ∧ d.nozzle = true ∧ c.nozzle = false) then some d else some c

/-- RESULT by the acceptance table of R100. -/
def acceptance (c : Commit) (mask : Nat) (s : State) : Nat :=
  let h := s.pos.hwm
  if mask = 0 then 6
  else if s.cmp.pend.any (fun p => Nat.land p.mask mask != 0) then 4
  else if c.line < h + 3 then 3
  else if c.line ≤ h + prepOf s ∧ rb R.CMP_CFG 16 s = false then 5
  else 1

/-- What the hardware response makes of the decision on its commit (R134): accepted, the records it was issued for are done,
where their SETMISS was applied; rejected, both are applied again at the next boundary. -/
def autoDecided (ok : Bool) (s : State) : State :=
  let left := if ok then (s.lst.auto.filter (fun e => !(e.issued && e.applied))).map (fun e => { e with issued := false })
    else s.lst.auto.map (fun e => if e.issued then { e with issued := false, applied := false } else e)
  let s := { s with lst := { s.lst with auto := left } }
  wb R.NZL_CMTSTAT 4 (autoOut s) s

/-- The commit unit decides commit `c`. -/
def decideCommit (c : Commit) (s : State) : State :=
  let mask := if c.nozzle then enabledMask s else Nat.land c.mask (enabledMask s)
  let r := acceptance c mask s
  let s := { s with cmp := { s.cmp with
    issued := s.cmp.issued.erase c
    pend := s.cmp.pend.map (fun p =>
      if p.nozzle = c.nozzle ∧ p.issuer = c.issuer then { p with reports := false } else p) } }
  let s := if c.issuer < 17 then wb (commitStat c.nozzle c.issuer) 3 false s else s
  let s := if r = 1 then
      { s with cmp := { s.cmp with
        pend := s.cmp.pend ++ [{ nozzle := c.nozzle, issuer := c.issuer, line := c.line, mask := mask, flying := mask, reports := true }] } }
    else s
  let s := reportCommit c.nozzle c.issuer r s
  if c.issuer = 17 then autoDecided (r == 1) s else s

/-- COMMIT_DECISION (R100). -/
def execCommitDecision (s : State) : Host.Outcome State Fault Refusal :=
  match firstCommit s.cmp.issued with
  | some c => if s.mode.fromProof && s.mode != .sleep then .next (decideCommit c s) else .next s
  | none => .next s

/-- The stream source of the line in progress taken anew, from where it stood before the line began. -/
def retakeStream (cl : Nat) (i : Int) (s : State) : State :=
  takeStream cl i (onSlice cl (fun x => { x with
    rp := x.before.1, strErr := x.before.2.1, sPrev := x.before.2.2, kept := x.kept.filter (fun e => e.line != i) }) s)

/-- A proof-set commit for line `l` arrives in the core cycle in which the slice began `l`: it takes effect on `l` without
recomposition (R102). Where it changes the enable of S, the stream source is taken under the new set. -/
def takeAtStart (cl : Nat) (l : Int) (s : State) : State :=
  let t := takeProof cl l s
  if rb (R.CLC_PL_CTL cl 4) 0 t = rb (R.CLC_PL_CTL cl 4) 0 s ∨ (sliceOf cl s).top ≠ some l then t
  else retakeStream cl l t

/-- Did the slice begin line `l` in this core cycle? -/
def justBegan (cl : Nat) (l : Int) (s : State) : Bool :=
  (sliceOf cl s).cur == some l && (sliceOf cl s).beganAt == coreCycle s && sliceWorks cl s

/-- Slices in `mask` that have begun line `l` or a later one abandon the line in progress and go back to `l`; conditioning
goes back with them (R102, R129). -/
def recompose (mask : Nat) (l : Int) (s : State) : State :=
  let back := (bitList mask 16).filter (fun cl => match (sliceOf cl s).last with
    | some i => decide (l ≤ i)
    | none => false)
  if back = [] then s
  else
    let s := back.foldl (fun s cl => onSlice cl (fun x => { x with
      again := match x.again, x.last with
        | some a, some b => some (max a b)
        | some a, none => some a
        | none, b => b
      last := some (l - 1)
      cur := match x.cur with
        | some i => if i < l then some i else none
        | none => none }) s) s
    { s with
      cmp := { s.cmp with composed := s.cmp.composed.filter (fun e => decide (e.2.1 < l) || !back.contains e.1) }
      lst := { s.lst with
        lastCond := match s.lst.lastCond with
          | some i => some (min i (l - 1))
          | none => none
        busy := match s.lst.busy with
          | some c => if c.line < l then some c else none
          | none => none } }

/-- PROOF_SET_COMMIT_ARRIVAL (R101, R102). -/
def execProofSetCommitArrival (cl : Fin 16) (s : State) : Host.Outcome State Fault Refusal :=
  match s.cmp.pend.find? (fun p => !p.nozzle && bitN p.flying cl) with
  | some p =>
    if s.mode.fromProof && s.mode != .sleep && carries 7 (clusterNode cl) s then
      let s := { s with cmp := { s.cmp with pend := s.cmp.pend.map (fun q =>
        if q = p then { q with flying := clrBitN q.flying cl } else q) } }
      .next (if unitsRun s then
        (if justBegan cl p.line s then takeAtStart cl p.line s else settle (recompose (2 ^ cl.val) p.line s))
        else s)
    else .next s
  | none => .next s

/-- NOZZLE_MAP_COMMIT_ARRIVAL (R129). -/
def execNozzleMapCommitArrival (s : State) : Host.Outcome State Fault Refusal :=
  match s.cmp.pend.find? (fun p => p.nozzle && p.flying != 0) with
  | some p =>
    if s.mode.fromProof && s.mode != .sleep then
      let s := { s with cmp := { s.cmp with pend := s.cmp.pend.map (fun q => if q = p then { q with flying := 0 } else q) } }
      let done := s.cmp.composed.any (fun e => decide (p.line ≤ e.2.1)) || (match s.lst.lastCond with
        | some i => decide (p.line ≤ i)
        | none => false)
      .next (if unitsRun s then settle (if done then recompose p.mask p.line s else s) else s)
    else .next s
  | none => .next s

/-! ### Stream ring (R87, R90, R411) -/

/-- CMP_STR_WP set; the ASP append point moves with it (R411). -/
def setStreamWp (o : Nat) (s : State) : State :=
  { wr R.CMP_STR_WP (BitVec.ofNat 32 (strWrap o s)) s with ingress := { s.ingress with append := strWrap o s } }

/-- STREAM_WP_WRITE (R87). -/
def execStreamWpWrite (w : Writer) (v : Word) (s : State) : Host.Outcome State Fault Refusal :=
  if reservedHit R.CMP_STR_WP v then .fault (.reservedBit R.CMP_STR_WP)
  else if reaches w R.CMP_STR_WP s then .next (respond 0 0 (setStreamWp v.toNat s)) else .next (turnedAway w s)

/-- CMP_STR_CTL.RESET (R90): every read offset at the write offset, STRERR clear. -/
def resetStream (s : State) : State :=
  mapSlices (fun x => { x with rp := strWp s, strErr := false })
    ((List.range 16).foldl (fun s cl => wb (R.CLC_ASTAT cl) 2 false s) s)

/-- STREAM_RESET (R90). -/
def execStreamReset (w : Writer) (s : State) : Host.Outcome State Fault Refusal :=
  if reaches w R.CMP_STR_CTL s then .next (respond 0 0 (resetStream s)) else .next (turnedAway w s)

end Sys2Proof.Machine
end

