-- ==== Sys2Proof/Machine/CondCmds.lean ====
section
/-! DEFINITION. Conditioning and codec commands (R126 to R171): lines ready, lockstep mismatches, staged nozzle updates,
nozzle status records. -/

namespace Sys2Proof.Machine

/-- LINE_READY (R155): the line in hand is stored, or its drop entered; conditioning goes on. -/
def execLineReady (s : State) : Host.Outcome State Fault Refusal :=
  match s.lst.busy with
  | some c =>
    if unitsRun s && !c.testing && !c.encTesting then .next (settle (lineDone c s)) else .next s
  | none => .next s

/-- The line in hand changed. -/
def onBusy (f : Coded → Coded) (s : State) : State := { s with lst := { s.lst with busy := s.lst.busy.map f } }

/-! ### Pipelines (R137, R139) -/

/-- No pipeline works: the line is conditioned with every nozzle at 0 (R139). -/
def noPipe (c : Coded) (s : State) : State :=
  let s := alarmBit R.NZL_STAT 2 17 { line := c.line } (redLost 2 (wb R.TIL_FORCE 1 true (wf R.NZL_PIPE 0 2 0 s)))
  encodeLine c.line c.input { s with lst := { s.lst with busy := none } }

/-- PIPELINE_MISMATCH (R137): the line is conditioned again; a second mismatch on it starts the self-test; one after a
self-test that both passed counts as both failing. On one pipeline nothing is compared. -/
def execPipelineMismatch (s : State) : Host.Outcome State Fault Refusal :=
  match s.lst.busy with
  | some c =>
    if unitsRun s && rf R.NZL_PIPE 0 2 s == 3 && !c.testing then
      let s := addSat R.NZL_PIPE 8 8 1 (alarmBit R.NZL_STAT 0 15 { line := c.line } s)
      if c.third then .next (noPipe c s)
      else .next (onBusy (fun c => { c with mis := c.mis + 1, testing := decide (1 ≤ c.mis) }) s)
    else .next s
  | none => .next s

/-- PIPELINE_SELF_TEST_END (R137, R107). -/
def execPipelineSelfTestEnd (pass0 pass1 : Bool) (s : State) : Host.Outcome State Fault Refusal :=
  match s.lst.busy with
  | some c =>
    if unitsRun s && c.testing then
      if !pass0 && !pass1 then .next (noPipe c s)
      else
        let s := onBusy (fun c => { c with testing := false, third := pass0 && pass1 }) s
        if pass0 && pass1 then .next s
        else
          let s := wf R.NZL_PIPE 0 2 (b2n pass0 + 2 * b2n pass1) s
          .next (redLost 2 (alarmBit R.NZL_STAT 1 16 { line := c.line } s))
    else .next s
  | none => .next s

/-! ### Encoders (R169, R171) -/

/-- No encoder works: the line and every later one is entered as dropped (R171). -/
def noCodec (c : Coded) (s : State) : State :=
  let s := alarmBit R.COD_STAT 2 30 { line := c.line } (redLost 3 (wb R.TIL_FORCE 2 true (wf R.COD_PIPE 0 2 0 s)))
  encodeLine c.line c.input { s with lst := { s.lst with busy := none } }

/-- CODEC_MISMATCH (R169). The command names no segment: whether a mismatch that follows another on the line falls on the
same segment is free. -/
def execCodecMismatch (s : State) : Host.Outcome State Fault Refusal :=
  match s.lst.busy with
  | some c =>
    if unitsRun s && rb R.COD_CFG 0 s && rf R.COD_PIPE 0 2 s == 3 && !c.encTesting then
      let s := addSat R.COD_PIPE 8 8 1 (alarmBit R.COD_STAT 0 28 { line := c.line } s)
      let same := Config.freeBool s.fresh
      let s := drawn s
      if c.encThird && same then .next (noCodec c s)
      else
        .next (onBusy (fun c => { c with
          encMis := if same then c.encMis + 1 else 1, encTesting := decide (1 ≤ c.encMis) && same, encThird := false }) s)
    else .next s
  | none => .next s

/-- ENCODER_SELF_TEST_END (R169, R107). -/
def execEncoderSelfTestEnd (pass0 pass1 : Bool) (s : State) : Host.Outcome State Fault Refusal :=
  match s.lst.busy with
  | some c =>
    if unitsRun s && c.encTesting then
      if !pass0 && !pass1 then .next (noCodec c s)
      else
        let s := onBusy (fun c => { c with encTesting := false, encThird := pass0 && pass1 }) s
        if pass0 && pass1 then .next s
        else
          let s := wf R.COD_PIPE 0 2 (b2n pass0 + 2 * b2n pass1) s
          .next (redLost 3 (alarmBit R.COD_STAT 1 29 { line := c.line } s))
    else .next s
  | none => .next s

/-! ### Staged updates (R126 to R130) -/

/-- Is nozzle n of row group g one of a used row group? -/
def nozzleNamed (g n : Nat) (s : State) : Bool := decide (n < nozzlesOf g s)

/-- A write of NZL_UPD (R126, R128): discarded while a nozzle-map commit is pending, else rejected or applied. The loader's
writes reach both banks ("Staged updates", before R126). -/
def applyUpd (v : Word) (s : State) : State :=
  let op := fld v 30 2
  let g := fld v 24 6
  let n := fld v 0 17
  if (nozzlePend s).isSome then wb R.NZL_STAT 4 true s
  else if nozzleNamed g n s = false ∨ (op = 3 ∧ widthG g s ≠ 3) then alarmBit R.NZL_STAT 7 21 {} s
  else
    let s := readNoz true g n s
    { s with lst := { s.lst with
        mapS := updNoz op (fld v 20 4) g n s.lst.mapS s
        mapA := if s.mode = .load then updNoz op (fld v 20 4) g n s.lst.mapA s else s.lst.mapA } }

/-- NZL_UPD of a block: a cluster's or the tile-level one. -/
def updReg (at_ : Option (Fin 16)) : Nat :=
  match at_ with
  | some cl => R.CLN_UPD cl
  | none => R.NZL_UPD

/-- A write of NZL_UPD whose OP is `op`; a value with another OP is another command's. -/
def updWrite (op : Nat) (w : Writer) (at_ : Option (Fin 16)) (v : Word) (s : State) : Host.Outcome State Fault Refusal :=
  if fld v 30 2 ≠ op then .next s
  else if reservedHit (updReg at_) v then .fault (.reservedBit (updReg at_))
  else if reaches w (updReg at_) s then .next (respond 0 0 (applyUpd v s)) else .next (turnedAway w s)

/-- SETMISS (R126). -/
def execSetmiss (w : Writer) (at_ : Option (Fin 16)) (v : Word) (s : State) : Host.Outcome State Fault Refusal :=
  updWrite 0 w at_ v s

/-- CLRMISS (R126). -/
def execClrmiss (w : Writer) (at_ : Option (Fin 16)) (v : Word) (s : State) : Host.Outcome State Fault Refusal :=
  updWrite 1 w at_ v s

/-- SETTAB (R126). -/
def execSettab (w : Writer) (at_ : Option (Fin 16)) (v : Word) (s : State) : Host.Outcome State Fault Refusal :=
  updWrite 2 w at_ v s

/-- SETRULE (R126). -/
def execSetrule (w : Writer) (at_ : Option (Fin 16)) (v : Word) (s : State) : Host.Outcome State Fault Refusal :=
  updWrite 3 w at_ v s

/-- NZL_QDAT for the selection `q` (R127, R141). -/
def queryData (q : Word) (s : State) : Word :=
  let g := fld q 24 6
  let n := fld q 0 17
  if nozzleNamed g n s then
    let z := nozAt (if bit q 31 then s.lst.mapS else s.lst.mapA) g n s
    BitVec.ofNat 32 (256 + z.tab % 16 * 16 + b2n z.miss * 8 + z.rule % 4 * 2 + b2n z.tsel)
  else 0

/-- NOZZLE_QUERY (R127): the selection is kept; NZL_QDAT is computed at its read. -/
def execNozzleQuery (w : Writer) (at_ : Option (Fin 16)) (v : Word) (s : State) : Host.Outcome State Fault Refusal :=
  let a := match at_ with
    | some cl => R.CLN_QRY cl
    | none => R.NZL_QRY
  if reservedHit a v then .fault (.reservedBit a)
  else if reaches w a s then .next (respond 0 0 (wr a v s)) else .next (turnedAway w s)

/-- NOZZLE_MAP_COMMIT_ISSUE (R128). -/
def execNozzleMapCommitIssue (w : Writer) (at_ : Option (Fin 16)) (s : State) : Host.Outcome State Fault Refusal :=
  if reaches w (commitStat true (issuerOf at_)) s then .next (respond 0 0 (issueCommit true (issuerOf at_) 0 s)) else .next (turnedAway w s)

/-! ### Nozzle status records (R131 to R134) -/

/-- A Gen-3 report as the status queue holds it: the record without N, N16 and G, then the port, the head lane and the
nozzle number of the head from bit 64 up, and a mark at bit 96. -/
def headReport (k h n status q data : Nat) : Nat :=
  (1 * 2 ^ 7 + status % 16 * 2 ^ 9) * 2 ^ 16 + q % 65536 * 2 ^ 32 + data % 65536 * 2 ^ 48
    + k * 2 ^ 64 + h * 2 ^ 68 + n * 2 ^ 72 + 2 ^ 96

/-- (G, N) of a Gen-3 report by the route table in force and the slots of R118 (R132). -/
def reportNozzle (k h m : Nat) (s : State) : Option (Nat × Nat) :=
  (usedGroups s).findSome? (fun g =>
    ((routesUnder (tableFor s.pos.hwm s) g s).find? (fun r => r.gen == 3 && r.port == k && r.hlane == h)).bind (fun r =>
      if m < r.n then some (g, r.first + m) else none))

/-- (G, N) of a record, and the record as the ring receives it. -/
def convertRecord (r : Nat) (s : State) : Option (Nat × Nat × Nat) :=
  if bitN r 96 then
    (reportNozzle (bitsN r 64 4) (bitsN r 68 4) (bitsN r 72 17) s).map (fun (g, n) =>
      (g, n, r % 2 ^ 64 + n % 65536 + n / 65536 % 2 * 2 ^ 16 + g * 2 ^ 17))
  else
    let n := bitsN r 0 17
    let g := bitsN r 17 6
    if nozzleNamed g n s then some (g, n, r % 2 ^ 64) else none

/-- The record goes into the status ring, or is discarded at a full ring (R133). -/
def ringRecord (v : Nat) (s : State) : State :=
  let size := ringSize R.NZL_SQ_SIZE s
  let wp := rf R.NZL_SQ_WP 0 13 s
  if (wp + 1) % size = rf R.NZL_SQ_RP 0 13 s % size then
    alarmBit R.NZL_STAT 5 19 {} (addSat R.NZL_SQ_DROP 0 16 1 s)
  else
    wf R.NZL_SQ_WP 0 13 ((wp + 1) % size)
      (writeN (bankWord (rf R.NZL_CFG 8 4 s) 2 (4 * rf R.NZL_SQ_BASE 2 16 s + 4 * wp)) 8 v s)

/-- The hardware nozzle-out response to a dead nozzle (R134): SETMISS in the staged bank, or WREJ; a commit at the next
boundary. -/
def nozzleOut (g n : Nat) (s : State) : State :=
  if (nozzlePend s).isSome then
    wb R.NZL_STAT 4 true { s with lst := { s.lst with auto := s.lst.auto ++ [{ g := g, n := n, applied := false }] } }
  else
    let s := readNoz true g n s
    { s with lst := { s.lst with
        mapS := updNoz 0 0 g n s.lst.mapS s
        auto := s.lst.auto ++ [{ g := g, n := n, applied := true }] } }

/-- NOZZLE_STATUS_RECORD (R132 to R134): the oldest record that waits. -/
def execNozzleStatusRecord (s : State) : Host.Outcome State Fault Refusal :=
  match s.lst.records with
  | r :: rest =>
    if s.mode.fromProof && s.mode != .sleep then
      let s := { s with lst := { s.lst with records := rest } }
      match convertRecord r s with
      | some (g, n, v) =>
        let s := ringRecord v s
        .next (if rb R.NZL_CFG 0 s && bitsN v 25 4 == 1 then nozzleOut g n s else s)
      | none => .next (alarmBit R.NZL_STAT 6 20 {} s)
    else .next s
  | [] => .next s

/-- A write of NZL_CFG (R134): clearing AUTOMISS ends the hardware's retries. -/
def writeNzlCfg (v : Word) (s : State) : State :=
  let s := codedWrite R.NZL_CFG v s
  if bit v 0 then s
  else
    let s := { s with lst := { s.lst with auto := [] } }
    wb R.NZL_CMTSTAT 4 (autoOut s) s

/-- AUTOMISS_CLEAR (R134): a write of NZL_CFG with AUTOMISS at 0. -/
def execAutomissClear (w : Writer) (v : Word) (s : State) : Host.Outcome State Fault Refusal :=
  if bit v 0 then .next s
  else if reservedHit R.NZL_CFG v then .fault (.reservedBit R.NZL_CFG)
  else if reaches w R.NZL_CFG s then
    .next (sealEvent (sealedHit R.NZL_CFG v s) R.NZL_CFG (writeNzlCfg v s))
  else .next (turnedAway w s)

end Sys2Proof.Machine
end

