-- ==== Sys2Proof/Machine/Store.lean ====
section
/-! DEFINITION. The line store's scrubber, slice repair and march test (R172 to R175). -/

namespace Sys2Proof.Machine

/-- Does the line store's test hardware run? LST_SCRUB.EN enables the scrubber alone (R173). -/
def storeTests (s : State) : Bool := s.mode.fromProof && s.mode != .sleep

/-- The slice that spare `i` replaces, none while it is free (LST_SLICE). -/
def spareOf (i : Nat) (s : State) : Option Nat :=
  let v := rf R.LST_SLICE (8 + 8 * i) 7 s
  if v = 0x7F then none else some v

/-- The spare that the march test holds. -/
def marchSpare (s : State) : Option Nat :=
  match s.lst.job with
  | .idle => none
  | .load _ p => some p
  | .march _ p => some p
  | .back _ p => some p

/-- A spare that replaces no slice and that neither a march nor a repair holds. -/
def freeSpare (s : State) : Option Nat :=
  [0, 1].find? (fun i => (spareOf i s).isNone && !s.lst.deadSpares.contains i && marchSpare s != some i && s.lst.repair.map (fun e => e.2) != some i)

def setJob (j : SliceJob) (s : State) : State := { s with lst := { s.lst with job := j } }

/-- No free spare is left: march testing stops and NOSPARE is raised. -/
def noSpare (s : State) : State :=
  redLost 8 (alarmBit R.LST_STAT 6 27 {} (wb R.LST_SLICE 7 false (setJob .idle s)))

/-- Spare `p` stands in for slice `k` for good: SLICEREP, and NOSPARE when it was the last. -/
def standIn (k p : Nat) (s : State) : State :=
  let s := alarmBit R.LST_STAT 5 26 { idx := k } (wf R.LST_SLICE (8 + 8 * p) 7 k s)
  if [0, 1].all (fun i => (spareOf i s).isSome || s.lst.deadSpares.contains i) then noSpare s else s

/-- The next slice to test: one that no spare replaces. -/
def nextTested (k : Nat) (s : State) : Nat :=
  ((List.range 72).map (fun j => (k + j) % 72)).find? (fun j => spareOf 0 s != some j && spareOf 1 s != some j) |>.getD 0

/-- The copy the march test is at: on an idle test hardware with a free spare the next slice is being loaded. -/
def jobNow (s : State) : SliceJob :=
  match s.lst.job, s.lst.repair, s.lst.repairQ, freeSpare s with
  | .idle, none, [], some p => .load (nextTested s.lst.nextMarch s) p
  | j, _, _, _ => j

/-- Waiting repairs go on: a free spare is loaded once no other copy runs; a march that holds the only one is broken off,
its slice copied back first. -/
def repairsGoOn (s : State) : State :=
  match s.lst.repair, s.lst.repairQ with
  | none, k :: r =>
    match s.lst.job with
    | .load _ _ => { s with lst := { s.lst with job := .idle, repair := (freeSpare (setJob .idle s)).map (fun p => (k, p)), repairQ := r } }
    | .back _ _ => s
    | .march j p =>
      match freeSpare s with
      | some q => { s with lst := { s.lst with repair := some (k, q), repairQ := r } }
      | none => wb R.LST_SLICE 7 false (setJob (.back j p) s)
    | .idle =>
      match freeSpare s with
      | some q => { s with lst := { s.lst with repair := some (k, q), repairQ := r } }
      | none => noSpare { s with lst := { s.lst with repairQ := r } }
  | _, _ => s

/-- Slice `k` needs repair: the slice under test keeps its spare. -/
def needRepair (k : Nat) (s : State) : State :=
  if s.lst.repair.map (fun e => e.1) = some k ∨ s.lst.repairQ.contains k then s
  else
    match s.lst.job with
    | .march j p =>
      if j = k then
        repairsGoOn (standIn k p (wb R.LST_SLICE 7 false
          { s with lst := { s.lst with job := .idle, nextMarch := (k + 1) % 72 } }))
      else repairsGoOn { s with lst := { s.lst with repairQ := s.lst.repairQ ++ [k] } }
    | .load j p =>
      if j = k ∧ s.lst.repair = none then { s with lst := { s.lst with job := .idle, repair := some (k, p) } }
      else repairsGoOn { s with lst := { s.lst with repairQ := s.lst.repairQ ++ [k] } }
    | _ => repairsGoOn { s with lst := { s.lst with repairQ := s.lst.repairQ ++ [k] } }

/-- The uncorrectable words of the block at `a` are read (R175). -/
def blockUes (a : Nat) (s : State) : State :=
  (s.ue.filter (fun w => decide (a ≤ w ∧ w < a + 64))).foldl (fun s w => lineStoreUe w s) s

/-- The word at `w` is uncorrectable from now on. -/
def markUe (w : Nat) (s : State) : State :=
  if s.ue.contains w then s else { s with ue := s.ue ++ [w], ce := s.ce.filter (fun x => x != w) }

/-- The scrubber corrects a word in bit slice `k`: counted, and the slice repaired when its count over the pass reaches
LST_CETHR (R173). -/
def countSlice (k : Nat) (s : State) : State :=
  let n := Sparse.get 0 s.lst.scrubCnt k + 1
  let s := addSat R.LST_ECCCNT 0 16 1 { s with lst := { s.lst with scrubCnt := Sparse.set 0 s.lst.scrubCnt k n } }
  if n = max 1 (rf R.LST_CETHR 0 16 s) then needRepair k s else s

/-- LINE_STORE_SCRUB (R173, R175). LST_ECCCNT[15:0] counts the scrubber's corrections alone (log entry 116: DESIGN CHOICE). -/
def execLineStoreScrub (found : Found) (s : State) : Host.Outcome State Fault Refusal :=
  if storeTests s && rb R.LST_SCRUB 16 s then
    let a := 64 * s.lst.scrubBlk
    let next := (s.lst.scrubBlk + 1) % 1572864
    let s := found.bad.foldl (fun s w => markUe (a + 8 * (w.val % 8)) s) s
    let s := blockUes a s
    let s := (found.corrected.take 8).foldl (fun s k => countSlice k.val s) s
    .next { s with lst := { s.lst with scrubBlk := next, scrubCnt := if next = 0 then [] else s.lst.scrubCnt } }
  else .next s

/-- SLICE_COPY_END (R174): the copy for a repair, or for the march test, ends. -/
def execSliceCopyEnd (s : State) : Host.Outcome State Fault Refusal :=
  if storeTests s then
    match s.lst.repair with
    | some (k, p) => .next (repairsGoOn (standIn k p { s with lst := { s.lst with repair := none } }))
    | none =>
      match jobNow s with
      | .load k p => .next (repairsGoOn (setJob (.march k p) (wb R.LST_SLICE 7 true (wf R.LST_SLICE 0 7 k s))))
      | _ => .next s
  else .next s

/-- SLICE_MARCH_END (R174): copy-back, or repair in its place. -/
def execSliceMarchEnd (pass : Bool) (s : State) : Host.Outcome State Fault Refusal :=
  match s.lst.job with
  | .march k p =>
    if storeTests s then
      let s := wb R.LST_SLICE 7 false s
      if pass then .next (setJob (.back k p) s)
      else .next (repairsGoOn (standIn k p { s with lst := { s.lst with job := .idle, nextMarch := (k + 1) % 72 } }))
    else .next s
  | _ => .next s

/-- COPY_BACK_END (R174). -/
def execCopyBackEnd (s : State) : Host.Outcome State Fault Refusal :=
  match s.lst.job with
  | .back k _ =>
    if storeTests s then
      .next (repairsGoOn { s with lst := { s.lst with job := .idle, nextMarch := (k + 1) % 72 } })
    else .next s
  | _ => .next s

end Sys2Proof.Machine
end

