-- ==== Sys2Proof/Machine/HeadLink.lean ====
section
/-! DEFINITION. Head link commands (R188 to R219): words and frames sent, answers received, lanes and ports failing and
training, the route switch, packing mismatches, spitting, strobe ends. -/

namespace Sys2Proof.Machine

/-- May the port send what it has packed? A self-test holds back the affected frame and what follows it on its port
(R217, R218). -/
def packing (gen port : Nat) (s : State) : Bool :=
  linksSend s && peelWorks s && !(s.links.testing && (match s.links.held with
    | some x => x.gen == gen && x.port == port
    | none => false))

/-- The transfers put in order. -/
def insertXfer (x : Xfer) : List Xfer → List Xfer
  | [] => [x]
  | y :: r => if before x y then x :: y :: r else y :: insertXfer x r

/-- Transfers that have left; a frame or word stream that leaves ends the count of mismatches on it (R217). -/
def sentXfers (p : Xfer → Bool) (s : State) : State :=
  let s := { s with links := { s.links with xfers := s.links.xfers.filter (fun x => !p x) } }
  if (s.links.held.map p).getD false then { s with links := { s.links with held := none, mis := 0, third := false } } else s

/-- The 16-bit words of a slot on a Gen-1 port. -/
def slotWords (x : Xfer) : List Nat :=
  let v := streamNat x
  (List.range (ceilDiv (x.codes.length * x.w) 16)).map (fun j => bitsN v (16 * j) 16)

/-- GEN1_WORD_STREAM (R192): all the port's slots of its next print line, then LAT. -/
def execGen1WordStream (p : Fin 4) (s : State) : Host.Outcome State Fault Refusal :=
  match firstXfer (onPort 1 p s) with
  | some x =>
    if packing 1 p s then
      let l := ((onPort 1 p s).filter (fun y => y.q == x.q)).foldr insertXfer []
      let s := sentXfers (fun y => y.gen == 1 && y.port == p.val && y.q == x.q) s
      .next (emitPin (.gen1 p x.q (l.flatMap slotWords) true) s)
    else .next s
  | none => .next s

/-- GEN2_FRAME (R194). -/
def execGen2Frame (k : Fin 24) (s : State) : Host.Outcome State Fault Refusal :=
  match firstXfer (onPort 2 k s) with
  | some x => if packing 2 k s then .next (emitGen2 k (gen2Bytes x) false (sentXfers (fun y => y == x) s)) else .next s
  | none => .next s

/-! ### Gen-3 (R196 to R204) -/

/-- Words that the port's replay buffer holds, of 8,192 (R199). -/
def replayWords (k : Nat) (s : State) : Nat := ((g3Of k s).replay.map (fun f => f.payload.length / 8 + 3)).sum

/-- The DATA frame of a transfer, with ZERO for a line late, dropped or never composed (R215). -/
def dataFrame (x : Xfer) : Frame3 :=
  let m := if x.zero then 0 else ceilDiv (x.codes.length * x.w) 64
  { seq := 0, typ := 1, q := x.q, g := x.g, hlane := x.hlane, w := x.w, n := x.codes.length
    flags := b2n x.zero + 4 * b2n x.pois + 8 * b2n x.red + 16 * b2n x.noFire
    payload := leBytes (8 * m) (streamNat x) }

/-- May a new DATA frame leave the port now: the frame before it has left, and no FIRE frame, owed TIME frame or
retransmission stands ahead of it (R200)? -/
def dataTurn (k : Nat) (s : State) : Bool :=
  let x := g3Of k s
  decide (x.freeAt ≤ s.time) && x.fires == [] && x.again == [] && !timeOwed k s && !fireOwed k s

/-- GEN3_DATA_FRAME (R197, R199, R200): the port's first transfer that the cut-off lets leave, with room in the replay
buffer. -/
def execGen3DataFrame (k : Fin 8) (s : State) : Host.Outcome State Fault Refusal :=
  let ok := fun (x : Xfer) => beforeCutoff k x.g ((dataFrame x).payload.length / 8) x.q s
  match firstXfer ((onPort 3 k s).filter ok) with
  | some x =>
    let f := dataFrame x
    if packing 3 k s && portUp k s && dataTurn k s && decide (replayWords k s + f.payload.length / 8 + 3 ≤ 8192) then
      .next (sendFrame k f (sentXfers (fun y => y == x) s))
    else .next s
  | none => .next s

/-- FIRE_FRAME (R201): the first send for the next fire of g, FIREWIN before its predicted instant. -/
def execFireFrame (g : Fin 64) (s : State) : Host.Outcome State Fault Refusal :=
  match fireReady g s with
  | some (f, t) => .next (sendFire g f.q t false (drawn s))
  | none => .next s

/-- TIME_FRAME (R202): after training, then every 2^20 position cycles; behind FIRE frames (R200). -/
def execTimeFrame (k : Fin 8) (s : State) : Host.Outcome State Fault Refusal :=
  let x := g3Of k s
  if g3Live s && portUp k s && timeOwed k s && decide (x.freeAt ≤ s.time) && x.fires == [] && !fireOwed k s then
    let s := putG3 k { x with lastTime := some s.time } s
    .next (sendFrame k { seq := 0, typ := 3, q := 0, g := 0, payload := timePayload k s } s)
  else .next s

/-- A route switch that is accepted (R189 to R191). -/
def acceptSwitch (l : Int) (t : Bool) (s : State) : State :=
  { s with links := { s.links with rswPend := some (l, t), routes := (l, t) :: s.links.routes } }
    |> wb R.HLK_RSWSTAT 1 true |> wf R.HLK_RSWSTAT 4 3 1

/-- The port goes down (R204); with AUTOSW the hardware switches the table (R191). -/
def portFails (k : Nat) (s : State) : State :=
  let s := wb (R.HLK_G3P_STAT k) 6 false (wb (R.HLK_G3P_STAT k) 7 true s)
  let s := putG3 k { g3Of k s with fires := [] } (alarmBit R.HLK_STAT 2 41 { port := portCode 3 k } s)
  if rb R.HLK_CFG 13 s && s.links.rswPend.isNone then
    alarmBit R.HLK_STAT 4 43 { port := portCode 3 k } (acceptSwitch (s.pos.hwm + 5) (!rb R.HLK_RSWSTAT 0 s) s)
  else s

/-- TX lane `l` fails (R204): it leaves LMASK and what is unacknowledged goes out again on the others. -/
def txLaneFails (k l : Nat) (s : State) : State :=
  let s := wf (R.HLK_G3P_STAT k) 0 4 (clrBitN (lmask k s) l) s
  let s := redLost 10 (alarmBit R.HLK_STAT 0 39 { idx := l, port := portCode 3 k } s)
  let x := g3Of k s
  let s := putG3 k { x with naks := Sparse.set 0 x.naks l 0, again := x.replay.map (fun f => f.seq) } s
  if lmask k s = 0 then portFails k s else portServe k s

/-- Is an RX frame intact: whole, with the CRC of its header and payload (R197)? -/
def rxIntact (l : List Byte) : Bool :=
  let n := 16 + 8 * getLE l 14 2
  l.length == n + 8 && getLE l n 4 == crc32c (l.take n)

/-- An RX frame of TYPE `typ` arrives on port k (R198): discarded when its check fails, another command's when its type is
another. -/
def rxFrame (k : Nat) (typ : Nat) (l : List Byte) (act : State → State) (s : State) : Host.Outcome State Fault Refusal :=
  if g3Live s && portUp k s then
    if rxIntact l then (if getLE l 0 1 % 16 = typ then .next (act s) else .next s)
    else .next (alarmBit R.HLK_STAT 3 42 { port := portCode 3 k } (addSat (R.HLK_G3P_RXERR k) 0 16 1 s))
  else .next s

/-- GEN3_ACK (R199). -/
def execGen3Ack (k : Fin 8) (frame : List Byte) (s : State) : Host.Outcome State Fault Refusal :=
  rxFrame k 8 frame (fun s =>
    putG3 k { g3Of k s with 
      replay := (g3Of k s).replay.filter (fun f => f.seq != getLE frame 2 2)
      again := (g3Of k s).again.filter (fun q => q != getLE frame 2 2)
      silent := 0 } s) s

/-- GEN3_NAK (R199, R204). -/
def execGen3Nak (k : Fin 8) (frame : List Byte) (s : State) : Host.Outcome State Fault Refusal :=
  rxFrame k 9 frame (fun s =>
    let bad := getLE frame 10 1 / 16
    let s := addSat (R.HLK_G3P_RETX k) 16 16 1 s
    let x := g3Of k s
    let naks := [0, 1, 2, 3].foldl (fun t l => Sparse.set 0 t l (if bitN bad l then Sparse.get 0 t l + 1 else 0)) x.naks
    let s := putG3 k { x with naks := naks, silent := 0 } s
    let fails := (bitList (lmask k s) 4).filter (fun l => decide (4 ≤ Sparse.get 0 naks l))
    if fails = [] then
      if (g3Of k s).replay.any (fun f => f.seq == getLE frame 2 2) then sendAgain k (getLE frame 2 2) s else s
    else fails.foldl (fun s l => txLaneFails k l s) s) s

/-- The 8-byte payload entries of an RX frame. -/
def rxEntries (l : List Byte) : List Nat := (List.range (getLE l 14 2)).map (fun j => getLE l (16 + 8 * j) 8)

/-- GEN3_STATUS (R198): each entry waits in the nozzle status queue. -/
def execGen3Status (k : Fin 8) (frame : List Byte) (s : State) : Host.Outcome State Fault Refusal :=
  rxFrame k 0xA frame (fun s =>
    { s with lst := { s.lst with records := s.lst.records ++ (rxEntries frame).map (fun e =>
      headReport k (bitsN e 17 4) (bitsN e 0 17) (bitsN e 21 4) (bitsN e 32 16) (bitsN e 48 16)) } }) s

/-- One TEMP entry (R198, R235): HLK_TEMPk_h, and the sensors fed from it. -/
def tempEntry (k q e : Nat) (s : State) : State :=
  let h := bitsN e 0 4
  let t := bitsN e 16 16
  let s := wr (R.HLK_TEMP (16 * k + h)) (BitVec.ofNat 32 (t + q % 65536 * 65536)) s
  ((List.range 16).filter (fun n => !rb (R.WAV_TS_SRC n) 0 s && rf (R.WAV_TS_SRC n) 1 3 s == k
    && rf (R.WAV_TS_SRC n) 4 4 s == h)).foldl (fun s n => reading n (sext 16 t) s) s

/-- GEN3_TEMP (R198): the print line of the report is the frame's Q. -/
def execGen3Temp (k : Fin 8) (frame : List Byte) (s : State) : Host.Outcome State Fault Refusal :=
  rxFrame k 0xB frame (fun s => (rxEntries frame).foldl (fun s e => tempEntry k (getLE frame 4 5) e s) s) s

/-- ACK_TIMEOUT (R199, R204): no answer ACKTO after the last block. -/
def execAckTimeout (k : Fin 8) (seq : BitVec 16) (s : State) : Host.Outcome State Fault Refusal :=
  match (g3Of k s).replay.find? (fun f => f.seq == seq.toNat) with
  | some f =>
    if g3Live s && portUp k s && !(g3Of k s).again.contains f.seq && decide (f.sent + 40 * rf R.HLK_CFG 0 8 s ≤ s.time) then
      let n := (g3Of k s).silent + 1
      let s := putG3 k { g3Of k s with silent := if n = 16 then 0 else n } s
      .next (if n = 16 then portFails k s else sendAgain k f.seq s)
    else .next s
  | none => .next s

/-- The port that RX lane r serves, and the lane's place in it (4 or 5) (R196). -/
def rxPort (r : Nat) (s : State) : Nat × Nat :=
  if r % 2 = 1 ∧ rf (R.HLK_G3P_CFG (r - 1)) 0 2 s = 3 then (r - 1, 5) else (r, 4)

/-- Working RX lanes of a port. -/
def rxLanes (k : Nat) (s : State) : Nat := rf (R.HLK_G3P_STAT k) 4 2 s

/-- RX_LANE_FAILURE (R204). No command reports a sync-header error by itself: a free number of them is counted with the
failure (log entry 121). -/
def execRxLaneFailure (r : Fin 8) (s : State) : Host.Outcome State Fault Refusal :=
  let (k, l) := rxPort r s
  if g3Live s && portUsed k s && bitN (rxLanes k s) (l - 4) then
    let s := wf (R.HLK_G3P_STAT k) 4 2 (clrBitN (rxLanes k s) (l - 4)) s
    let s := redLost 10 (wb (R.HLK_RX_EQ r) 8 false s)
    let s := drawn (addSat (R.HLK_G3P_RXERR k) 16 16 (Config.freeNat s.fresh) s)
    let s := alarmBit R.HLK_STAT 1 40 { idx := l - 4, port := portCode 3 k } s
    .next (if rxLanes k s = 0 then portFails k s else s)
  else .next s

/-- A write of HLK_G3Pk_CTL.RETRAIN (R204): the port's failed lanes train. -/
def retrainPort (k : Nat) (s : State) : State :=
  if portUsed k s then
    let failed := (portLanes k s).filter (fun l => if l < 4 then !bitN (lmask k s) l else !bitN (rxLanes k s) (l - 4))
    let x := g3Of k s
    let train := x.train ++ failed.filter (fun l => !x.train.contains l)
    wb (R.HLK_G3P_STAT k) 8 (train != []) (putG3 k { x with train := train } s)
  else s

/-- PORT_RETRAIN (R204). -/
def execPortRetrain (w : Writer) (k : Fin 8) (s : State) : Host.Outcome State Fault Refusal :=
  if reaches w (R.HLK_G3P_STAT k) s then .next (respond 0 0 (retrainPort k s)) else .next (turnedAway w s)

/-- LANE_TRAINING_END (R202 to R204): the lane joins, with the latency from the loopback echo. -/
def execLaneTrainingEnd (k : Fin 8) (lane : Fin 6) (ok : Bool) (rtt : BitVec 24) (s : State) :
    Host.Outcome State Fault Refusal :=
  let x := g3Of k s
  if g3Live s && x.train.contains lane.val then
    let s := putG3 k { x with train := x.train.filter (fun l => l != lane.val), naks := Sparse.set 0 x.naks lane.val 0 } s
    let s := if ok then
        let s := if lane.val < 4 then wf (R.HLK_G3P_STAT k) 0 4 (setBitN (lmask k s) lane) s
          else wb (R.HLK_RX_EQ (k.val + (lane.val - 4))) 8 true (wf (R.HLK_G3P_STAT k) 4 2 (setBitN (rxLanes k s) (lane - 4)) s)
        wf (R.HLK_G3P_RTT k) 0 24 ((rtt.toNat - 4 * rf (R.HLK_G3P_CFG k) 8 8 s) / 2) s
      else s
    if (g3Of k s).train = [] then
      let s := wb (R.HLK_G3P_STAT k) 8 false (putG3 k { g3Of k s with tried := true, lastTime := none, silent := 0 } s)
      .next (if lmask k s ≠ 0 ∧ rxLanes k s ≠ 0 then
        wb (R.HLK_G3P_STAT k) 6 true (wb (R.HLK_G3P_STAT k) 7 false s) else s)
    else .next s
  else .next s

/-! ### Route switch (R189) -/

/-- A write of HLK_RSWGO naming table `t`. -/
def requestSwitch (t : Bool) (s : State) : State :=
  let l := rdLine R.HLK_RSWL R.HLK_RSWH s
  if s.links.rswPend.isSome then wf R.HLK_RSWSTAT 4 3 4 s
  else if t = rb R.HLK_RSWSTAT 0 s then wf R.HLK_RSWSTAT 4 3 5 s
  else if l < s.pos.hwm + 5 then wf R.HLK_RSWSTAT 4 3 3 s
  else acceptSwitch l t s

/-- ROUTE_SWITCH (R189). -/
def execRouteSwitch (w : Writer) (tsel : Bool) (s : State) : Host.Outcome State Fault Refusal :=
  if reaches w R.HLK_RSWSTAT s then .next (respond 0 0 (requestSwitch tsel s)) else .next (turnedAway w s)

/-! ### Engines (R217, R219) -/

/-- The frame on which a mismatch falls: the one in recovery, while it has not left, else the one packed next. -/
def packedFrame (s : State) : Option Xfer :=
  match s.links.held with
  | some x => if s.links.xfers.contains x then some x else firstXfer s.links.xfers
  | none => firstXfer s.links.xfers

/-- What an engine alarm carries (R222, R414). -/
def packedAlarm (s : State) : Alarm :=
  match packedFrame s with
  | some x => { line := x.q, idx := x.g, port := portCode x.gen x.port }
  | none => {}

/-- No engine works: every link carries idle, every strobe is suppressed, SAFE is forced (R219, R456). -/
def noPeel (s : State) : State :=
  let s := alarmBit R.PEEL_STAT 6 37 (packedAlarm s) (redLost 4 (wb R.TIL_FORCE 3 true (wf R.PEEL_PIPE 0 2 0 s)))
  let s := (List.range 8).foldl (fun s k => putG3 k { g3Of k s with fires := [], again := [] } s) s
  forceSafe 0xB { s with links := { s.links with testing := false, third := false, mis := 0 } }

/-- PACKING_MISMATCH (R217). -/
def execPackingMismatch (s : State) : Host.Outcome State Fault Refusal :=
  if (peelReads s || s.mode == .spit) && rb R.PEEL_CFG 0 s && rf R.PEEL_PIPE 0 2 s == 3 && !s.links.testing then
    let f := packedFrame s
    let same := s.links.held == f
    let s := addSat R.PEEL_PIPE 8 8 1 (alarmBit R.PEEL_STAT 4 35 (packedAlarm s) s)
    if s.links.third && same then .next (noPeel s)
    else
      let n := if same then s.links.mis else 0
      .next { s with links := { s.links with held := f, mis := n + 1, third := false, testing := decide (1 ≤ n) } }
  else .next s

/-- ENGINE_SELF_TEST_END (R217, R107). -/
def execEngineSelfTestEnd (pass0 pass1 : Bool) (s : State) : Host.Outcome State Fault Refusal :=
  if s.links.testing then
    if !pass0 && !pass1 then .next (noPeel s)
    else
      let s := { s with links := { s.links with testing := false, third := pass0 && pass1 } }
      if pass0 && pass1 then .next s
      else
        let s := wf R.PEEL_PIPE 0 2 (b2n pass0 + 2 * b2n pass1) s
        .next (redLost 4 (alarmBit R.PEEL_STAT 5 36 (packedAlarm s) s))
  else .next s

/-! ### Spitting (R207) and strobes (R205) -/

/-- LSETUP of a generation in 250 ps units. -/
def lsetup (gen : Nat) (s : State) : Nat := if gen = 1 then 32 * rf R.HLK_LSET 0 8 s else 40 * rf R.HLK_LSET 8 8 s

/-- SPIT_TRANSFER_END (R207, R239): strobes LSETUP after the end, a FIRE frame with the end + 240 ns, the voices. -/
def execSpitTransferEnd (g : Fin 64) (s : State) : Host.Outcome State Fault Refusal :=
  match s.links.spit.find? (fun e => e.1 == g.val) with
  | none => .next s
  | some (_, q) =>
    if s.mode == .spit && !s.links.xfers.any (fun x => x.spit && x.g == g.val) then
      let s := { s with links := { s.links with spit := s.links.spit.filter (fun e => e.1 != g.val) } }
      let rs := routesOf g s.pos.hwm s
      let ports := (rs.map (fun r => (r.gen, r.port))).eraseDups
      let delay := ((ports.filter (fun e => e.1 != 3)).map (fun e => lsetup e.1 s)).foldl max 0
      let on := fun o =>
        let sel := rf (R.HLK_STB o) 6 6 s
        if sel < 4 then ports.contains (1, sel) else if 16 ≤ sel ∧ sel < 40 then ports.contains (2, sel - 16)
        else sel == 63 && ports.any (fun e => e.1 != 3)
      let outs := (List.range 32).filter (fun o => rb (R.HLK_STB o) 12 s && rf (R.HLK_STB o) 0 6 s == g.val && on o)
      let s := if peelWorks s then
          let s := outs.foldl (fun s o =>
            let sel := rf (R.HLK_STB o) 6 6 s
            strobeRise o (s.time + (if sel < 4 then lsetup 1 s else if sel = 63 then delay else lsetup 2 s)) q g s) s
          (ports.filter (fun e => e.1 == 1)).foldl (fun s e => strobeRise (32 + e.2) (s.time + lsetup 1 s) q g s) s
        else s
      let g3 := (ports.filter (fun e => e.1 == 3)).map (fun e => e.2)
      if g3 = [] then .next (rowTrigger g (s.time + delay) true s)
      else .next (rowTrigger g (s.time + 960) true (sendFireOn g3 g q (s.time + 960) false s))
    else .next s

/-- STROBE_PULSE_END (R205): at the pulse's end, or 2.0 ns before the next fire instant of the output where the pulse is
still high then (STBSHORT). The spec gives PSTB no width: it falls at the command's time. -/
def execStrobePulseEnd (o : Fin 36) (s : State) : Host.Outcome State Fault Refusal :=
  match Sparse.get none s.links.high o.val with
  | some t =>
    let e := if o.val < 32 then pulseEnd o t s else s.time
    let g := rf (R.HLK_STB o) 0 6 s
    let next := if o.val < 32 then nextInstant g s else none
    match next with
    | some n =>
      if n < e + 8 ∧ t + 8 ≤ n ∧ n ≤ s.time + 8 then .next (cutPulse o n (nextFire g s).q g s)
      else if e ≤ s.time then .next (strobeFall o e s) else .next s
    | none => if e ≤ s.time then .next (strobeFall o e s) else .next s
  | none => .next s

end Sys2Proof.Machine
end

