-- ==== Sys2Proof/Machine/Fetch.lean ====
section
/-! DEFINITION. The fetch side of a cell: the two-word buffer of Steady mode (R284, R285, R298), the instruction cache
(R296), prediction (R295) and pairing (R293) of Rising mode, and the counters of R310 they move. Counts of cycles that
only the timing inside an instruction decides are free (log entry 122). -/

namespace Sys2Proof.Machine

/-- A change of a cell's fetch side. -/
def onFetch (cl m : Nat) (f : Fetch → Fetch) (s : State) : State := onCell cl m (fun x => { x with fetch := f x.fetch }) s

/-! ### Words of local RAM -/

/-- Byte address of a local RAM word. -/
def localWord (cl m a : Nat) : Nat := localBase cl m + 2 * a

/-- An uncorrectable pair of local RAM was read at word `a` (R382): LUE, PAN_LECC, PAN_LUEADDR, the alarm. -/
def localUe (cl m a : Nat) (s : State) : State :=
  s |> wr (R.PAN_LUEADDR cl) (BitVec.ofNat 32 (m + a / 2 * 2 * 16))
    |> addSat (R.PAN_LECC cl) 16 16 1
    |> alarmBit (R.PAN_STAT cl) 4 58 { cluster := cl, unit := m, addr := localWord cl m (a / 2 * 2) }

/-- A corrected pair of local RAM is counted (R382). -/
def localCe (cl : Nat) (s : State) : State := addSat (R.PAN_LECC cl) 0 16 1 s

/-- The words with a single-bit error that `n` bytes at `a` touch. -/
def cesIn (a n : Nat) (s : State) : List Nat := s.ce.filter (fun w => decide (w < a + n ∧ a < w + eccSize w))

/-- The word at `a` as RAM stands, none where it is uncorrectable. -/
def ramWord (cl m a : Nat) (s : State) : Option Half :=
  if ueIn (localWord cl m a) 2 s then none else some (BitVec.ofNat 16 (readN (localWord cl m a) 2 s))

/-- `n` words fetched from `a` up: each corrected pair is counted. -/
def countFetch (cl m a n : Nat) (s : State) : State :=
  (cesIn (localWord cl m a) (2 * n) s).foldl (fun s _ => localCe cl s) s

/-! ### The buffer of Steady mode (R284) -/

/-- The buffer as an instruction at `pc` starts: the words before it are freed, and the buffer is filled up to two words,
not past the end of local RAM (log entry 123). -/
def refill (cl m pc : Nat) (s : State) : State :=
  let kept := ((cellOf cl m s).fetch.buf.dropWhile (fun x => x.adr != pc)).take 2
  let need := (([pc, pc + 1].drop kept.length)).filter (fun a => decide (a < 0x8000))
  onFetch cl m (fun f => { f with buf := kept ++ need.map (fun a => { adr := a, word := ramWord cl m a s }) })
    (need.foldl (fun s a => countFetch cl m a 1 s) s)

/-! ### The instruction cache (R296) -/

/-- Set and tag of a word address. -/
def cacheSet (a : Nat) : Nat := a / 8 % 256
def cacheTag (a : Nat) : Nat := a / 2048

/-- The cache is asked for the word at `a`: on a hit its line becomes the one used last; on a miss, counted, the line is
filled from RAM in place of the one used longest ago. -/
def cacheAsk (cl m a : Nat) (s : State) : State :=
  let l := Sparse.get [] (cellOf cl m s).fetch.cache (cacheSet a)
  let put := fun (l : List CacheLine) (f : Fetch) => { f with cache := Sparse.set [] f.cache (cacheSet a) l }
  match l.find? (fun x => x.tag == cacheTag a) with
  | some x => onFetch cl m (put (x :: l.filter (fun y => y.tag != cacheTag a))) s
  | none =>
    let base := a / 8 * 8
    let x : CacheLine := { tag := cacheTag a, words := (List.range 8).map (fun j => ramWord cl m (base + j) s) }
    onFetch cl m (fun f => { put ((x :: l).take 2) f with icmiss := min 0xFFFF (f.icmiss + 1) }) (countFetch cl m base 8 s)

/-- A drain to local RAM updates any cached copy of its word (R296). -/
def cacheStore (cl m a : Nat) (v : Half) (s : State) : State :=
  let l := Sparse.get [] (cellOf cl m s).fetch.cache (cacheSet a)
  if l.any (fun x => x.tag == cacheTag a) then
    onFetch cl m (fun f => { f with
      cache := Sparse.set [] f.cache (cacheSet a)
        (l.map (fun x => if x.tag = cacheTag a then { x with words := x.words.set (a % 8) (some v) } else x)) }) s
  else s

/-- On a Rising cell a word that is about to change may yet execute as it was (R299). -/
def keepOld (cl m a : Nat) (s : State) : State :=
  if risingOf cl m s then onFetch cl m (fun f => { f with olds := (a, ramWord cl m a s) :: f.olds }) s else s

/-! ### What an instruction executes from -/

/-- The word at `a` as the cell has fetched it: on a Rising cell its content in the cache, or one that it had since the last
IFENCE (R299). -/
def wordAt (cl m a : Nat) (s : State) : Option Half :=
  let f := (cellOf cl m s).fetch
  if risingOf cl m s then
    let now := match (Sparse.get [] f.cache (cacheSet a)).find? (fun x => x.tag == cacheTag a) with
      | some x => x.words.getD (a % 8) none
      | none => none
    let all := now :: (f.olds.filter (fun e => e.1 == a)).map (fun e => e.2)
    all.getD (Config.freeOld (cl * 16 + m) f.drawn a % all.length) now
  else
    match f.buf.find? (fun x => x.adr == a) with
    | some x => x.word
    | none => none

/-- The words `pc` up to `pc` + `n` − 1 are fetched for an instruction; cycles it waits for them are fetch stalls. -/
def fetched (cl m pc n : Nat) (s : State) : State :=
  let s := onFetch cl m (fun f =>
    if f.held then { f with held := false }
    else { f with fstall := min 0xFFFF (f.fstall + Config.freeWait (cl * 16 + m) f.drawn), drawn := f.drawn + 1 }) s
  if risingOf cl m s then
    ((List.range n).filter (fun j => decide (pc + j < 0x8000))).foldl (fun s j => cacheAsk cl m (pc + j) s) s
  else if pc < 0x8000 then refill cl m pc s
  else s

/-! ### Pairing (R293) -/

/-- Do two consecutive short ops pair? -/
def pairable (x y : Short) : Bool :=
  match x, y with
  | .p _ _, .p _ _ => true
  | .p g _, .m a _ => !bitN g a
  | .m _ l, .p _ r => !(l && r)
  | .m _ _, .m _ _ => false

/-- An instruction issues: a short op pairs with one issued alone before it, a long word and RET never pair. -/
def pairUp (short : Option Short) (f : Fetch) : Fetch :=
  match f.alone, short with
  | some x, some y => if pairable x y then { f with alone := none, pairs := min 0xFFFF (f.pairs + 1) } else { f with alone := some y }
  | _, y => { f with alone := y }

/-- An instruction of a cell issues (R293); `again` where it had begun before and waited. -/
def begun (cl m : Nat) (again : Bool) (short : Option Short) (s : State) : State :=
  if risingOf cl m s && !again then onFetch cl m (pairUp short) s else s

/-- The instruction begun waits for the store buffer (R287 to R289): it starts again. -/
def hold (cl m : Nat) (s : State) : State := onFetch cl m (fun f => { f with held := true }) s

/-! ### Prediction (R295) -/

/-- The kinds of transfers that the predictors tell apart. -/
inductive Guess | always | loop | cond | ret | stack
  deriving DecidableEq, Repr

def missed (f : Fetch) : Fetch := { f with brmiss := min 0xFFFF (f.brmiss + 1) }

/-- A transfer at `a` of context `c`, taken or not, to `t`: what the predictors make of it. How they learn is the model's
choice (log entry 124). -/
def resolve (g : Guess) (c a : Nat) (taken : Bool) (t : Nat) (f : Fetch) : Fetch :=
  match g with
  | .always => f
  | .loop => if taken then f else missed f
  | .cond =>
    let n := Sparse.get 1 f.counters (a % 512)
    let f := if decide (2 ≤ n) = taken then f else missed f
    { f with counters := Sparse.set 1 f.counters (a % 512) (if taken then min 3 (n + 1) else n - 1) }
  | .ret =>
    let l := Sparse.get [] f.rets c
    let f := if l.headD none = some t then f else missed f
    { f with rets := Sparse.set [] f.rets c (l.drop 1) }
  | .stack =>
    let f := if Sparse.get none f.targets (a % 64) = some (a, t) then f else missed f
    { f with targets := Sparse.set none f.targets (a % 64) (some (a, t)) }

/-- The return predictor of context `c` takes an entry. -/
def pushRet (c : Nat) (r : Option Nat) (f : Fetch) : Fetch :=
  { f with rets := Sparse.set [] f.rets c ((r :: Sparse.get [] f.rets c).take 16) }

/-- It loses its top. -/
def popRet (c : Nat) (f : Fetch) : Fetch := { f with rets := Sparse.set [] f.rets c ((Sparse.get [] f.rets c).drop 1) }

/-- A change of the predictors of a Rising cell. -/
def teach (cl m : Nat) (f : Fetch → Fetch) (s : State) : State := if risingOf cl m s then onFetch cl m f s else s

/-- A taken transfer: the buffer is discarded (R285), and its successor does not pair (R293). -/
def redirect (cl m : Nat) (s : State) : State := onFetch cl m (fun f => { f with buf := [], alone := none }) s

/-- IFENCE discards what is fetched after it; from here on words execute as they now stand (R298, R299). -/
def refetch (cl m : Nat) (s : State) : State := onFetch cl m (fun f => { f with olds := [] }) (redirect cl m s)

/-! ### Waits (R290) -/

/-- A multiply issues. -/
def mulIssued (cl m : Nat) (s : State) : State := onFetch cl m (fun f => { f with mulAt := some (coreCycle s) }) s

/-- A read or write of MR waits for the youngest multiply: at most 4 core cycles from its issue. -/
def mulWait (cl m : Nat) (s : State) : State :=
  onFetch cl m (fun f =>
    let most := match f.mulAt with
      | some t => t + 4 - coreCycle s
      | none => 0
    { f with ustall := min 0xFFFF (f.ustall + Config.freeWait (cl * 16 + m) f.drawn % (most + 1)), drawn := f.drawn + 1 }) s

/-- A core cycle in which the running instruction of a cell waits for the store buffer (R310). -/
def stallCycle (cl m : Nat) (s : State) : State :=
  if (cellOf cl m s).fetch.held then onFetch cl m (fun f => { f with bstall := min 0xFFFF (f.bstall + 1) }) s else s

/-- A window access of cell m to bank `b` of its own pantry waits w core cycles, at most the figure of R346 (R382). -/
def windowWait (cl m b : Nat) (s : State) : State :=
  let f := (cellOf cl m s).fetch
  let most := match b with
    | 0 => 63
    | 1 => 2086
    | 2 => 65
    | _ => 37
  let w := Config.freeWait (cl * 16 + m) f.drawn % (most + 1)
  keepMax (if b < 2 then R.PAN_WMAX01 cl else R.PAN_WMAX23 cl) (16 * (b % 2)) 16 w
    (onFetch cl m (fun f => { f with drawn := f.drawn + 1 }) s)

end Sys2Proof.Machine
end

