-- ==== Sys2Proof/Machine/Flags.lean ====
section
/-! DEFINITION. Levain-16 arithmetic: the result of every operation and the flags it sets (R256, R260 to R265). ST[4:0]
is C (bit 0), V (1), Z (2), DZ (3), DZT (4) (R247). -/

namespace Sys2Proof.Machine

def stC (st : Half) : Bool := st.getLsbD 0
def stV (st : Half) : Bool := st.getLsbD 1
def stZ (st : Half) : Bool := st.getLsbD 2
def stDZ (st : Half) : Bool := st.getLsbD 3
def stDZT (st : Half) : Bool := st.getLsbD 4

/-- ST with bit `i` at `b`. -/
def stPut (i : Nat) (b : Bool) (st : Half) : Half :=
  (st &&& ~~~(BitVec.ofNat 16 (2 ^ i))) ||| BitVec.ofNat 16 (if b then 2 ^ i else 0)

def setC (b : Bool) (st : Half) : Half := stPut 0 b st
def setV (b : Bool) (st : Half) : Half := stPut 1 b st
/-- Z from a result. -/
def setZ (r : Half) (st : Half) : Half := stPut 2 (r == 0) st
def setDZ (b : Bool) (st : Half) : Half := stPut 3 b st

/-- Is a signed value outside 16 bits? -/
def outS16 (i : Int) : Bool := decide (i < -32768 ∨ 32767 < i)

/-- a + b + c with C, V and Z (R262: carry out of bit 15; V where the signed result is not representable). -/
def addF (a b : Half) (c : Nat) (st : Half) : Half × Half :=
  let r := BitVec.ofNat 16 (a.toNat + b.toNat + c)
  (r, st |> setC (decide (0xFFFF < a.toNat + b.toNat + c)) |> setV (outS16 (a.toInt + b.toInt + c)) |> setZ r)

/-- a − b − c with C (borrow), V and Z (R262). -/
def subF (a b : Half) (c : Nat) (st : Half) : Half × Half :=
  let r := BitVec.ofInt 16 (a.toInt - b.toInt - c)
  (r, st |> setC (decide (a.toNat < b.toNat + c)) |> setV (outS16 (a.toInt - b.toInt - c)) |> setZ r)

/-- A result that sets Z alone. -/
def logicF (r : Half) (st : Half) : Half × Half := (r, setZ r st)

/-- |a| with V and Z; ABS of 0x8000 is 0x8000 with V = 1 (R262). -/
def absF (a : Half) (st : Half) : Half × Half :=
  let r := if a.toInt < 0 then BitVec.ofInt 16 (-a.toInt) else a
  (r, st |> setV (a == 0x8000#16) |> setZ r)

/-- Shift left by n mod 32 (R261). -/
def shlF (a n : Half) (st : Half) : Half × Half :=
  let k := n.toNat % 32
  if k = 0 then logicF a st
  else
    let r : Half := if k < 16 then a <<< k else 0
    (r, st |> setC (decide (k ≤ 16) && bitN a.toNat (16 - k)) |> setZ r)

/-- Logical shift right by n mod 32 (R261). -/
def shrF (a n : Half) (st : Half) : Half × Half :=
  let k := n.toNat % 32
  if k = 0 then logicF a st
  else
    let r : Half := if k < 16 then a >>> k else 0
    (r, st |> setC (decide (k ≤ 16) && bitN a.toNat (k - 1)) |> setZ r)

/-- Arithmetic shift right by n mod 32 (R261). -/
def sarF (a n : Half) (st : Half) : Half × Half :=
  let k := n.toNat % 32
  if k = 0 then logicF a st
  else
    let r : Half := if k < 16 then a.sshiftRight k else if a.msb then 0xFFFF#16 else 0
    (r, st |> setC (if k ≤ 16 then bitN a.toNat (k - 1) else a.msb) |> setZ r)

/-- Rotate left by n mod 16 (R261: C unchanged). -/
def rolF (a n : Half) (st : Half) : Half × Half := logicF (a.rotateLeft (n.toNat % 16)) st

def rorF (a n : Half) (st : Half) : Half × Half := logicF (a.rotateRight (n.toNat % 16)) st

def minS (a b : Half) : Half := if a.toInt ≤ b.toInt then a else b
def maxS (a b : Half) : Half := if a.toInt ≤ b.toInt then b else a
def minU (a b : Half) : Half := if a.toNat ≤ b.toNat then a else b
def maxU (a b : Half) : Half := if a.toNat ≤ b.toNat then b else a

/-- Leading zeros, 0 to 16. -/
def clz16 (a : Half) : Half :=
  BitVec.ofNat 16 (((List.range 16).map (fun i => 15 - i)).takeWhile (fun i => !a.getLsbD i)).length

/-- Set bits, 0 to 16. -/
def popc16 (a : Half) : Half := BitVec.ofNat 16 ((List.range 16).filter (fun i => a.getLsbD i)).length

/-- DIV (R264, R265): quotient truncated towards zero, remainder with the sign of X, and the flags. -/
def divS (lo hi d : Half) (st : Half) : Half × Half × Half :=
  let x : Int := sext 32 (hi.toNat * 65536 + lo.toNat)
  if d = 0 then
    ((if 0 ≤ x then 0x7FFF#16 else 0x8000#16), lo, st |> setDZ true |> setV false |> setZ 1)
  else
    let q := x.tdiv d.toInt
    let qw := BitVec.ofInt 16 q
    (qw, BitVec.ofInt 16 (x - q * d.toInt), st |> setDZ false |> setV (outS16 q) |> setZ qw)

/-- DIVU (R264, R265). -/
def divU (lo hi d : Half) (st : Half) : Half × Half × Half :=
  let x := hi.toNat * 65536 + lo.toNat
  if d = 0 then (0xFFFF#16, lo, st |> setDZ true |> setV false |> setZ 1)
  else
    let q := x / d.toNat
    let qw := BitVec.ofNat 16 q
    (qw, BitVec.ofNat 16 (x % d.toNat), st |> setDZ false |> setV (decide (65535 < q)) |> setZ qw)

/-- The signed product as 40 bits (R263). -/
def mulS (a b : Half) : BitVec 40 := BitVec.ofInt 40 (a.toInt * b.toInt)

/-- The unsigned product as 40 bits (R263). -/
def mulU (a b : Half) : BitVec 40 := BitVec.ofNat 40 (a.toNat * b.toNat)

/-- RND n (R263): ⌊(MR + 2^(n−1)) ÷ 2^n⌋ saturated to 16 bits, with V and Z. -/
def rndF (mr : BitVec 40) (n : Nat) (st : Half) : Half × Half :=
  let x : Int := if n = 0 then mr.toInt else fdiv (mr.toInt + (2 ^ (n - 1) : Nat)) (2 ^ n : Nat)
  let r := BitVec.ofInt 16 (satS 16 x)
  (r, st |> setV (outS16 x) |> setZ r)

/-- The condition of BR.cc (R258) on T and ST. -/
def brTest (cc : Nat) (t st : Half) : Bool :=
  let c := stC st
  let v := stV st
  let z := stZ st
  let n := t.msb
  match cc with
  | 0 => true
  | 1 => z
  | 2 => !z
  | 3 => c
  | 4 => !c
  | 5 => v
  | 6 => !v
  | 7 => n
  | 8 => !n
  | 9 => n != v
  | 10 => n == v
  | 11 => z || n != v
  | 12 => !z && n == v
  | 13 => c || z
  | 14 => !c && !z
  | _ => stDZ st

end Sys2Proof.Machine
end

