-- ==== Sys2Proof/Machine/Operands.lean ====
section
/-! DEFINITION. How a Levain command runs: which context executes it, the fetch and stack conditions it meets first
(R249, R251, R253, R277), where the PC goes after it, and the targets of transfers (R252). -/

namespace Sys2Proof.Machine

/-! ### Trap codes (R277) -/

def trapDSOVF : Nat := 1
def trapDSUNF : Nat := 2
def trapRSOVF : Nat := 3
def trapRSUNF : Nat := 4
def trapILLOP : Nat := 5
def trapFETCH : Nat := 6
def trapDATAERR : Nat := 7
def trapDIVZ : Nat := 8
def trapMEMUE : Nat := 9

/-! ### The executing context -/

/-- Do the cells issue in this mode (R460, R461, R366: contexts start at the end of LOAD, issue stops at SLEEP entry)? -/
def cellsIssue (s : State) : Bool :=
  s.mode != .cold && s.mode != .load && s.mode != .sleep && !s.sleepEntry && !s.waking

/-- May a context of the cell make an I/O page store now: the cells issue and its store buffer is empty (R289)? -/
def mayOut (cl m : Nat) (s : State) : Bool := cellsIssue s && decide ((cellOf cl m s).sbuf = [])

/-- The context that executes the next command of cell m: RUNNING, its switch done, the cell neither stopped nor asleep. -/
def issuing (cl m : Nat) (s : State) : Option Nat :=
  let x := cellOf cl m s
  if cellsIssue s && !x.switching && !x.stopped && !x.asleep then x.running else none

/-- What an instruction takes and leaves: data items, return items, and the words it occupies. -/
structure Shape where
  pops : Nat := 0
  pushes : Nat := 0
  rpops : Nat := 0
  rpushes : Nat := 0
  /-- 0: a short op; n: n words. -/
  words : Nat := 0
  /-- Words after its own that it reads as code (R284). -/
  extra : Nat := 0
  /-- A short op to the pairing of R293; none: it never pairs. -/
  short : Option Short := none
  deriving DecidableEq, Repr

/-- The stack trap the instruction meets first, if any (R249). -/
def stackTrap (h : Shape) (k : Ctx) : Option Nat :=
  if k.ds.length < h.pops then some trapDSUNF
  else if 16 < k.ds.length - h.pops + h.pushes then some trapDSOVF
  else if k.rs.length < h.rpops then some trapRSUNF
  else if 16 < k.rs.length - h.rpops + h.rpushes then some trapRSOVF
  else none

/-- PC and slot after the instruction (R251). -/
def advance (h : Shape) (k : Ctx) : Ctx :=
  if h.words = 0 then
    if k.slot < 2 then { k with slot := k.slot + 1 } else { k with pc := k.pc + 1, slot := 0 }
  else { k with pc := k.pc + h.words, slot := 0 }

/-- A transfer lands at slot 0 of its target (R251). -/
def goTo (t : Nat) (k : Ctx) : Ctx := { k with pc := t, slot := 0 }

/-- Words fetched for an instruction. -/
def Shape.fetches (h : Shape) : Nat := max 1 h.words + h.extra

/-- A fetch trap of the instruction at PC, its words fetched: past local RAM (R253), or an uncorrectable word (R284). -/
def fetchTrap (cl m : Nat) (h : Shape) (k : Ctx) (s : State) : Option (Nat × Nat) :=
  if 0x8000 ≤ k.pc then some (trapFETCH, 0x8000)
  else if wordAt cl m k.pc s = none then some (trapMEMUE, k.pc)
  else if h.words = 2 ∧ 0x8000 ≤ k.pc + 1 then some (trapFETCH, 0x8000)
  else if h.words = 2 ∧ wordAt cl m (k.pc + 1) s = none then some (trapMEMUE, k.pc + 1)
  else none

/-- The running context traps at the instruction with no effect of it. -/
def trapHere (cl m c code adr : Nat) (s : State) : State :=
  let k := theCtx cl m c s
  raiseTrap cl m c code k.pc k.slot adr s

/-- Run an instruction of cell m: with no issuing context the command finds no instruction to execute and changes
nothing (log entry 1); its words are fetched; a fetch or stack trap is taken in its place; otherwise `f` acts on (context
number, state). -/
def issue (cl m : Nat) (h : Shape) (s : State) (f : Nat → State → Host.Outcome State Fault Refusal) :
    Host.Outcome State Fault Refusal :=
  match issuing cl m s with
  | none => .next s
  | some c =>
    let k := theCtx cl m c s
    let again := (cellOf cl m s).fetch.held
    let s := fetched cl m k.pc h.fetches s
    match fetchTrap cl m h k s with
    | some (code, adr) =>
      .next (raiseTrap cl m c code k.pc k.slot adr (if code = trapMEMUE then localUe cl m adr s else s))
    | none =>
      match stackTrap h k with
      | some code => .next (trapHere cl m c code 0 s)
      | none => f c (begun cl m again h.short s)

/-- An instruction that changes its context's bank alone: `f` acts on the bank, then the PC advances. -/
def issueBank (cl m : Nat) (h : Shape) (f : Ctx → Ctx) (s : State) : Host.Outcome State Fault Refusal :=
  issue cl m h s (fun c s => .next (onCtx cl m c (fun k => advance h (f k)) s))

/-! ### Stack items -/

/-- Item n of the data stack (0 is T). -/
def item (n : Nat) (k : Ctx) : Half := k.ds.getD n 0

/-- The bank with `n` items popped and the list pushed (first element becomes T). -/
def restack (n : Nat) (l : List Half) (k : Ctx) : Ctx := { k with ds := l ++ k.ds.drop n }

def pushD (x : Half) (k : Ctx) : Ctx := { k with ds := x :: k.ds }

/-- A one-operand operation with its flags. -/
def unary (f : Half → Half → Half × Half) (k : Ctx) : Ctx :=
  let (r, st) := f (item 0 k) k.st
  { restack 1 [r] k with st := st }

/-- A two-operand operation, a below b on top, with its flags. -/
def binary (f : Half → Half → Half → Half × Half) (k : Ctx) : Ctx :=
  let (r, st) := f (item 1 k) (item 0 k) k.st
  { restack 2 [r] k with st := st }

/-! ### Targets (R252) -/

/-- Page target of the long word at `a`. -/
def pageTarget (a : Nat) (k : BitVec 11) : Nat := a / 2048 * 2048 + k.toNat

/-- A transfer to `t` by the instruction of context c, a `g` to the predictors: FETCH where the target or a return address
lies outside local RAM (R253), otherwise `f` acts on the bank, the PC is the target and the fetch buffer is discarded. -/
def transfer (g : Guess) (cl m c : Nat) (t : Int) (ret : Option Nat) (f : Ctx → Ctx) (s : State) : State :=
  if t < 0 ∨ 0x8000 ≤ t then trapHere cl m c trapFETCH (low 16 t) s
  else
    let a := (theCtx cl m c s).pc
    let learn := teach cl m (resolve g c a true t.toNat)
    match ret with
    | some r =>
      if 0x8000 ≤ r then trapHere cl m c trapFETCH (r % 65536) s
      else redirect cl m (teach cl m (pushRet c (some r)) (learn
        (onCtx cl m c (fun k => goTo t.toNat { f k with rs := BitVec.ofNat 16 r :: k.rs }) s)))
    | none => redirect cl m (learn (onCtx cl m c (fun k => goTo t.toNat (f k)) s))

/-! ### MR (R248, R263, R321, R322) -/

/-- Does hardware share MR lazily in this mode (R322)? -/
def lazyMr (s : State) : Bool :=
  s.mode != .load && s.mode != .proof && s.mode != .calibrate && s.mode != .safe

/-- Context c claims MR (R321; R322 in its modes). -/
def claimMr (cl m c : Nat) (s : State) : State :=
  if lazyMr s then
    onCell cl m (fun x =>
      if x.owner = some c ∨ x.owner = none then { x with owner := some c, live := true }
      else
        let o := x.owner.getD 0
        let x := if x.live then
          { x with save := Sparse.set 0 x.save o x.mr, valid := setBitN x.valid o, mrsave := min 0xFFFF (x.mrsave + 1) }
          else x
        let x := if bitN x.valid c then
          { x with mr := Sparse.get 0 x.save c, valid := clrBitN x.valid c } else x
        { x with owner := some c, live := true }) s
  else onCell cl m (fun x => { x with owner := some c, live := true, valid := clrBitN x.valid c }) s

/-- Marks MR registers written by c (R322): `which` lists 0 MRL, 1 MRH, 2 MRG. -/
def markDirty (cl m c : Nat) (which : List Nat) (s : State) : State :=
  if lazyMr s then s
  else onCell cl m (fun x => { x with dirty := which.foldl (fun d i => setBitN d (3 * c + i)) x.dirty }) s

/-- An instruction that claims MR, a multiply, or a read or write that waits for the multiplies before it (R290): `f` acts
on the bank and MR and answers both; `dirty` lists the parts it writes. -/
def issueMr (cl m : Nat) (h : Shape) (mul : Bool) (dirty : List Nat) (f : Ctx → BitVec 40 → Ctx × BitVec 40) (s : State) :
    Host.Outcome State Fault Refusal :=
  issue cl m h s (fun c s =>
    let s := markDirty cl m c dirty (claimMr cl m c (if mul then mulIssued cl m s else mulWait cl m s))
    .next (onCell cl m (fun x =>
      let (k, v) := f (ctxOf x c) x.mr
      putCtx c (advance h k) { x with mr := v }) s))

def mrl (v : BitVec 40) : Half := v.extractLsb' 0 16
def mrh (v : BitVec 40) : Half := v.extractLsb' 16 16
/-- MRG sign-extended (R260). -/
def mrg (v : BitVec 40) : Half := (v.extractLsb' 32 8).signExtend 16

/-- MR with `w` bits at `lo` set from `x`. -/
def putMr (v : BitVec 40) (lo w : Nat) (x : Half) : BitVec 40 :=
  BitVec.ofNat 40 (v.toNat - bitsN v.toNat lo w * 2 ^ lo + x.toNat % 2 ^ w * 2 ^ lo)

end Sys2Proof.Machine
end

