-- ==== Sys2Proof/Machine/Ctl.lean ====
section
/-! DEFINITION. The commands of the event controller and the scheduler (R311 to R340) and the scheduling instructions WAIT,
YIELD, DONE and TRET (R274, R317, R319, R326). -/

namespace Sys2Proof.Machine

/-! ### Starting, stopping, restarting (R312, R313, R328) -/

/-- Contexts of `mask` are started; a cell with a context to run does not sleep (log entry 60). -/
def startReq (cl m mask : Nat) (s : State) : State :=
  let s := (bitList mask 7).foldl (fun s c => startCtx cl m c s) s
  let s := if mask % 128 = 0 then s else onCell cl m (fun x => { x with asleep := false }) s
  reschedule cl m s

/-- Contexts of `mask` are stopped. -/
def stopReq (cl m mask : Nat) (s : State) : State :=
  runBest cl m ((bitList mask 7).foldl (fun s c =>
    if (theCtx cl m c s).state = .stopped then s else stopCtx cl m c s) s)

/-- A cell is restarted. -/
def cellRestart (cl m : Nat) (s : State) : State :=
  let s := (List.range 7).foldl (fun s c => stopCtx cl m c s) s
  let s := onCell cl m (fun x =>
    { dropMr 7 (putCtx 7 { ctxInit 7 with winbase := (ctxOf x 7).winbase } x) with
      stopped := false, asleep := false, running := none, switching := false, trapq := [], handling := none
      handledStopped := false, valid := 0 }) s
  startSet cl m (wb (R.EVC_CELL cl m) 31 false s)

/-- A write of EVC_CELLm: STARTREQ, STOPREQ, CRESTART. A restart wins over the requests of the same write, and a stop over
a start of the same context (log entry 60). -/
def writeEvcCell (cl m : Nat) (v : Word) (s : State) : State :=
  if bit v 24 then cellRestart cl m s
  else stopReq cl m (fld v 16 7) (startReq cl m (fld v 8 7) s)

/-- STARTREQ (R312). -/
def execStartreq (w : Writer) (cl m : Fin 16) (mask : BitVec 7) (s : State) : Host.Outcome State Fault Refusal :=
  if reaches w (R.cluster cl) s then .next (respond 0 0 (startReq cl m mask.toNat s)) else .next (turnedAway w s)

/-- STOPREQ (R313). -/
def execStopreq (w : Writer) (cl m : Fin 16) (mask : BitVec 7) (s : State) : Host.Outcome State Fault Refusal :=
  if reaches w (R.cluster cl) s then .next (respond 0 0 (stopReq cl m mask.toNat s)) else .next (turnedAway w s)

/-- CRESTART (R328). -/
def execCrestart (w : Writer) (cl m : Fin 16) (s : State) : Host.Outcome State Fault Refusal :=
  if reaches w (R.cluster cl) s then .next (respond 0 0 (cellRestart cl m s)) else .next (turnedAway w s)

/-! ### PEND and MASK (R331) -/

/-- First source of a high or low register. -/
def hiBase (hi : Bool) : Nat := if hi then 32 else 0

/-- Rank of a writer at the controller of cluster `cl` (R331): a cell of the cluster writes in its I/O page, every other
writer over the fabric. -/
def writerRank (w : Writer) (cl : Nat) : Nat :=
  match w with
  | .ctx cl' m _ => if cl' = cl then cellRank m else fabricRank
  | _ => fabricRank

/-- PENDSET: a software source is asserted, so that an edge on a pending one is merged; any other source has its stored
bit set. -/
def pendSet (rk cl : Nat) (hi : Bool) (v : Word) (s : State) : State :=
  (bitList v.toNat 32).foldl (fun s j =>
    let i := hiBase hi + j
    if rankOk cl i rk s = false then s
    else if 25 ≤ i ∧ i < 32 then pendEdge cl i rk s
    else setPend cl i rk s) s

/-- A source that is no longer pending is not offered again ahead of others. -/
def pendClr (rk cl : Nat) (hi : Bool) (v : Word) (s : State) : State :=
  (bitList v.toNat 32).foldl (fun s j =>
    let i := hiBase hi + j
    if rankOk cl i rk s = false then s
    else
      let s := putRank cl i rk (wb64 (R.EVC_PENDSETL cl) (R.EVC_PENDSETH cl) i false s)
      if pendOf cl i s then s else forgetPending cl i s) s

/-- The MASK bits of `v` that the writer may change. -/
def maskGrant (rk cl : Nat) (hi : Bool) (v : Word) (s : State) : List Nat :=
  (bitList v.toNat 32).filter (fun j => rankOk cl (64 + hiBase hi + j) rk s)

/-- The value with those bits set. -/
def bitsWord (l : List Nat) : Word := BitVec.ofNat 32 (l.foldl setBitN 0)

/-- The MASK register at `v`, and the rank of the write noted for the bits of `l`. -/
def maskPut (rk cl : Nat) (hi : Bool) (l : List Nat) (v : Word) (s : State) : State :=
  l.foldl (fun s j => putRank cl (64 + hiBase hi + j) rk s) (wr (if hi then R.EVC_MASKSETH cl else R.EVC_MASKSETL cl) v s)

def maskSet (rk cl : Nat) (hi : Bool) (v : Word) (s : State) : State :=
  let l := maskGrant rk cl hi v s
  maskPut rk cl hi l (rd (if hi then R.EVC_MASKSETH cl else R.EVC_MASKSETL cl) s ||| bitsWord l) s

def maskClr (rk cl : Nat) (hi : Bool) (v : Word) (s : State) : State :=
  let l := maskGrant rk cl hi v s
  maskPut rk cl hi l (rd (if hi then R.EVC_MASKSETH cl else R.EVC_MASKSETL cl) s &&& ~~~bitsWord l) s

/-- EVC_PENDSET (R331). -/
def execEvcPendset (w : Writer) (cl : Fin 16) (hi : Bool) (v : Word) (s : State) : Host.Outcome State Fault Refusal :=
  if reaches w (R.cluster cl) s then .next (respond 0 0 (pendSet (writerRank w cl) cl hi v s)) else .next (turnedAway w s)

/-- EVC_PENDCLR (R331). -/
def execEvcPendclr (w : Writer) (cl : Fin 16) (hi : Bool) (v : Word) (s : State) : Host.Outcome State Fault Refusal :=
  if reaches w (R.cluster cl) s then .next (respond 0 0 (pendClr (writerRank w cl) cl hi v s)) else .next (turnedAway w s)

/-- EVC_MASKSET (R331). -/
def execEvcMaskset (w : Writer) (cl : Fin 16) (hi : Bool) (v : Word) (s : State) : Host.Outcome State Fault Refusal :=
  if reaches w (R.cluster cl) s then .next (respond 0 0 (maskSet (writerRank w cl) cl hi v s)) else .next (turnedAway w s)

/-- EVC_MASKCLR (R331). -/
def execEvcMaskclr (w : Writer) (cl : Fin 16) (hi : Bool) (v : Word) (s : State) : Host.Outcome State Fault Refusal :=
  if reaches w (R.cluster cl) s then .next (respond 0 0 (maskClr (writerRank w cl) cl hi v s)) else .next (turnedAway w s)

/-! ### Switch, delivery, timeout, sleep -/

/-- Do the controllers and schedulers run in this mode (R437, R460)? -/
def ctlRuns (s : State) : Bool := s.mode.fromProof && s.mode != .sleep

/-- The word at the incoming PC is fetched in the second switch cycle of Steady mode (R318). -/
def incoming (cl m : Nat) (s : State) : State :=
  match (cellOf cl m s).running with
  | some r =>
    let pc := (theCtx cl m r s).pc
    if risingOf cl m s || decide (0x8000 ≤ pc) then s
    else onFetch cl m (fun f => { f with buf := [{ adr := pc, word := ramWord cl m pc s }] }) (countFetch cl m pc 1 s)
  | none => s

/-- CONTEXT_SWITCH (R318): the switch to the running context ends; the source or 0xFFFF due is pushed. -/
def execContextSwitch (cl m : Fin 16) (s : State) : Host.Outcome State Fault Refusal :=
  let x := cellOf cl m s
  match x.running with
  | some r =>
    if x.switching && cellsIssue s then
      .next (incoming cl m (onCell cl m (fun x =>
        let k := ctxOf x r
        let k := match k.due with
          | some e => { pushD e k with due := none }
          | none => k
        putCtx r k { x with switching := false, switches := min 0xFFFF (x.switches + 1) }) s))
    else .next s
  | none => .next s

/-- EVENT_DELIVERY (R332). -/
def execEventDelivery (cl : Fin 16) (s : State) : Host.Outcome State Fault Refusal :=
  if ctlRuns s then .next (tryDeliver cl (offered cl s) s) else .next s

/-- The source that the controller would deliver to context c of cell m in this core cycle. -/
def dueSource (cl m c : Nat) (s : State) : Option Nat :=
  (offered cl s).find? (fun i =>
    match (scanOrder cl i s).find? (fun e => waitsFor cl i e s && mayWake cl i e s) with
    | some e => e == m && tgtOf cl i e s % 8 == c
    | none => false)

/-- A WAIT times out: RC is 0 and 0xFFFF is pushed as the context resumes (R274), unless the delivery of source `o` falls in
the same core cycle: it is made, with RC left at 0 (R332). -/
def timedOut (cl m c : Nat) (o : Option Nat) (s : State) : State :=
  let t := onCtx cl m c (fun k => { k with rc := 0, tmo := false, phase := 0 }) s
  match o with
  | some i => deliver cl i m t
  | none => reschedule cl m (onCtx cl m c (fun k => { k with state := .ready, due := some 0xFFFF }) t)

/-- A WAIT times out in the present core cycle. -/
def timeOut (cl m c : Nat) (s : State) : State := timedOut cl m c (dueSource cl m c s) s

/-- WAIT_TIMEOUT (R274): the step of RC that reaches 0. -/
def execWaitTimeout (cl m : Fin 16) (c : Fin 7) (s : State) : Host.Outcome State Fault Refusal :=
  let k := theCtx cl m c s
  if ctlRuns s && k.state == .waiting && k.tmo && decide (k.rc.toNat ≤ 1) then .next (timeOut cl m c s) else .next s

/-- One core cycle of a context that waits with TMO: RC counts down by one every 16. -/
def waitCycle (cl m c : Nat) (s : State) : State :=
  let k := theCtx cl m c s
  if k.state == .waiting && k.tmo then
    if k.phase + 1 < 16 then onCtx cl m c (fun k => { k with phase := k.phase + 1 }) s
    else if k.rc.toNat ≤ 1 then timeOut cl m c s
    else onCtx cl m c (fun k => { k with phase := 0, rc := k.rc - 1 }) s
  else s

/-- One core cycle of every WAIT with TMO. -/
def waitsCore (s : State) : State :=
  if ctlRuns s then
    s.cells.foldl (fun s e => (List.range 8).foldl (fun s c => waitCycle (e.1 / 16) (e.1 % 16) c s) s) s
  else s

/-- One core cycle of every instruction that waits for its store buffer (R310). -/
def stallsCore (s : State) : State :=
  if cellsIssue s then
    s.cells.foldl (fun s e => if (issuing (e.1 / 16) (e.1 % 16) s).isSome then stallCycle (e.1 / 16) (e.1 % 16) s else s) s
  else s

/-- CELL_SLEEP (R334). -/
def execCellSleep (cl m : Fin 16) (s : State) : Host.Outcome State Fault Refusal :=
  let x := cellOf cl m s
  if ctlRuns s && rb (R.EVC_CELL_CFG cl m) 0 s && !x.asleep && cellIdle x && decide (x.sbuf = [])
      && decide (x.idleSince.getD 0 + 16 ≤ coreCycle s) then
    .next (onCell cl m (fun x => { x with asleep := true }) s)
  else .next s

/-! ### WAIT, YIELD, DONE, TRET -/

/-- Is source `i` deliverable to context `c` of cell `m`, were it waiting on its set `e`? -/
def dueFor (cl m c e i : Nat) (s : State) : Bool :=
  tgtOf cl i m s == 8 + c && bitN (setOf cl m c e s) i

/-- The running context leaves the cell to wait. -/
def suspend (cl m c e : Nat) (tmo : Bool) (s : State) : State :=
  runBest cl m (onCell cl m (fun x =>
    unrun c (putCtx c { ctxOf x c with state := .waiting, wset := e, tmo := tmo, phase := 0 } x)) s)

/-- What a WAIT by context c on set `e` does once service has ended, given the source it may have at once: that source
resumes the context; RC 0 with TMO times out at once; otherwise the context waits. -/
def waitServed (cl m c e : Nat) (tmo : Bool) (src : Option Nat) (s : State) : State :=
  match src with
  | some i =>
    s |> claimSource cl i
      |> wf (R.EVC_SRC cl i) 10 4 m
      |> addSat (R.EVC_DELIV cl) 0 16 1
      |> onCtx cl m c (fun k => { pushD (BitVec.ofNat 16 i) k with svc := some i, given := coreCycle s })
      |> reschedule cl m
  | none =>
    if tmo && (theCtx cl m c s).rc == 0 then reschedule cl m (onCtx cl m c (pushD 0xFFFF) s)
    else suspend cl m c e tmo s

/-- WAIT by context c (0 to 6) on set `e`: service ends, then the wait. -/
def waitOn (cl m c e : Nat) (tmo : Bool) (s : State) : State :=
  let s := endService cl m c (onCtx cl m c (advance { words := 1 }) s)
  waitServed cl m c e tmo ((offered cl s).find? (fun i => dueFor cl m c e i s)) s

/-- Long op WAIT ends service and suspends the context until a delivery from its event set or a timeout (R274, R319,
R320). -/
def execLvWait (cl m : Fin 16) (k : BitVec 11) (s : State) : Host.Outcome State Fault Refusal :=
  issue cl m { pushes := 1, words := 1 } s (fun c s =>
    if c = 7 ∨ bitsN k.toNat 4 7 ≠ 0 then .next (trapHere cl m c trapILLOP 0 s)
    else .next (waitOn cl m c (bitsN k.toNat 0 3) (bitN k.toNat 3) s))

/-- Extended op YIELD offers the cell to a ready context of equal priority group (R317, R320). -/
def execLvYield (cl m : Fin 16) (s : State) : Host.Outcome State Fault Refusal :=
  issue cl m { words := 1 } s (fun c s =>
    let s := onCtx cl m c (advance { words := 1 }) s
    let l := (readyCtxs cl m s).filter (fun x => groupOf cl m x s == groupOf cl m c s)
    if c = 7 then .next s
    else
      match leastBy (fun x => keyOf cl m x s) l with
      | some x => .next (giveCell cl m x (yieldCell cl m s))
      | none => .next s)

/-- Extended op DONE ends service of the current event source (R319, R320). -/
def execLvDone (cl m : Fin 16) (s : State) : Host.Outcome State Fault Refusal :=
  issue cl m { words := 1 } s (fun c s =>
    let s := onCtx cl m c (advance { words := 1 }) s
    if c = 7 then .next s else .next (reschedule cl m (endService cl m c s)))

/-- The action of TRET on the trapped context h (R326; R313: STOP where it was stopped meanwhile). -/
def trapAction (cl m h : Nat) (s : State) : State :=
  let x := cellOf cl m s
  let act := if x.handledStopped then 0 else x.trapact.toNat % 4
  match act with
  | 1 => onCtx cl m h (fun k => { k with state := .ready, pc := x.trappc.toNat, slot := x.trapsl.toNat % 4 }) s
  | 2 => startCtx cl m h s
  | _ => stopCtx cl m h s

/-- Extended op TRET applies the trap action to the trapped context and returns context 7 to TRAPIDLE (R326); the next
queued trap is taken at once (R324). -/
def execLvTret (cl m : Fin 16) (s : State) : Host.Outcome State Fault Refusal :=
  issue cl m { words := 1 } s (fun c s =>
    if c ≠ 7 then .next (trapHere cl m c trapILLOP 0 s)
    else
      let s := match (cellOf cl m s).handling with
        | some h => trapAction cl m h s
        | none => s
      let s := onCell cl m (fun x =>
        unrun 7 (putCtx 7 { ctxInit 7 with winbase := (ctxOf x 7).winbase } { x with handling := none, handledStopped := false })) s
      match (cellOf cl m s).trapq with
      | t :: r => .next (takeTrap cl m t (onCell cl m (fun x => { x with trapq := r }) s))
      | [] => .next (runBest cl m s))

end Sys2Proof.Machine
end

