-- ==== Sys2Proof/Machine/Ports.lean ====
section
/-! DEFINITION. The cluster ports that a register write acts on: the pair port (R464, R465), event and trace posts (R417),
the watchdog (R471), the die-link retrain (R405), START and STOP of a DMA channel (R372, R378, R379). -/

namespace Sys2Proof.Machine

/-- Key of the high word of a pair that is not a fabric register: a word of the I/O page (R355). -/
def ioWordKey (a : Nat) : Nat := 0x2000000000 + a

/-! ### Pair port (R465) -/

def pairOf (cl k : Nat) (s : State) : PairCh := Sparse.get {} s.pair (cl * 4 + k)
def putPair (cl k : Nat) (x : PairCh) (s : State) : State := { s with pair := Sparse.set {} s.pair (cl * 4 + k) x }

/-- The peer cluster of channel `k`: PEER0, or PEER1. -/
def peerOf (cl k : Nat) (second : Bool) (s : State) : Nat := rf (R.CX_PAIR_CFG cl k) (if second then 4 else 0) 4 s

/-- A value on its way from cluster `cl` to peer `p`: it lands in IN0 where `p` names `cl` as PEER0, in IN1 where as
PEER1. -/
def pairToward (cl k : Nat) (v : Word) (p : Nat) (s : State) : State :=
  let x := pairOf p k s
  if peerOf p k false s = cl then putPair p k { x with line0 := x.line0 ++ [v] } s
  else if peerOf p k true s = cl then putPair p k { x with line1 := x.line1 ++ [v] } s
  else s

/-- A 32-bit value sent to both peers. -/
def pairSendValue (cl k : Nat) (v : Word) (s : State) : State :=
  let p0 := peerOf cl k false s
  let p1 := peerOf cl k true s
  pairToward cl k v p1 (pairToward cl k v p0 s)

/-- A write of CX_PAIRc_OUTH by `w` (R356): with OUTL staged the value is whole, else OUTL acts as 0. -/
def pairOutHigh (w : Writer) (cl k : Nat) (v : Half) (s : State) : State :=
  let (l, s) := stageTake w (ioWordKey (0xC121 + 8 * k)) s
  pairSendValue cl k (BitVec.ofNat 32 (v.toNat * 65536 + l.getD 0)) s

/-- PAIR_SEND (R465). -/
def execPairSend (cl m : Fin 16) (c : Fin 8) (k : Fin 4) (v : Half) (s : State) : Host.Outcome State Fault Refusal :=
  if mayOut cl m s then .next (pairOutHigh (.ctx cl m c) cl k v s) else .next s

/-- The place of a channel's STAT among what a core cycle sets (R16). -/
def pairKey (cl k : Nat) : Nat := 0x2000000000 + cl * 4 + k

/-- A value lands (R465). -/
def pairLand (cl k : Nat) (from1 : Bool) (v : Word) (s : State) : State :=
  let x := pairOf cl k s
  let s := if (if from1 then x.in1f else x.in0f) then noteSet (pairKey cl k) 2 s else s
  putPair cl k
    (if from1 then { x with in1 := v, in1f := true, ovr := x.ovr || x.in1f }
     else { x with in0 := v, in0f := true, ovr := x.ovr || x.in0f }) s

/-- PAIR_VALUE_ARRIVAL (R465): the oldest value on the lines from one peer. -/
def execPairValueArrival (cl : Fin 16) (k : Fin 4) (from1 uncorrectable : Bool) (s : State) :
    Host.Outcome State Fault Refusal :=
  let x := pairOf cl k s
  match if from1 then x.line1 else x.line0 with
  | [] => .next s
  | v :: r =>
    let s := putPair cl k (if from1 then { x with line1 := r } else { x with line0 := r }) s
    if uncorrectable then .next (noteSet (pairKey cl k) 3 (putPair cl k { pairOf cl k s with err := true } s))
    else .next (pairLand cl k from1 v s)

/-- The value of IN0 or IN1. -/
def pairIn (cl k : Nat) (in1 : Bool) (s : State) : Word :=
  let x := pairOf cl k s
  if in1 then x.in1 else x.in0

def pairInKey (k : Nat) (in1 : Bool) : Nat := ioWordKey (0xC123 + 8 * k + (if in1 then 2 else 0))

/-- A read of the low word of IN0 or IN1 latches the high word (R357). -/
def pairInLow (w : Writer) (cl k : Nat) (in1 : Bool) (s : State) : Half × State :=
  let v := pairIn cl k in1 s
  (BitVec.ofNat 16 (fld v 0 16), latchPut w [(pairInKey k in1, fld v 16 16)] s)

/-- INF of IN0 or IN1 cleared. -/
def pairClear (cl k : Nat) (in1 : Bool) (s : State) : State :=
  let x := pairOf cl k s
  putPair cl k (if in1 then { x with in1f := false } else { x with in0f := false }) s

/-- A read of the high word returns the latched value, or the current one, and clears INF. -/
def pairInHigh (w : Writer) (cl k : Nat) (in1 : Bool) (s : State) : Half × State :=
  let v := pairIn cl k in1 s
  let (l, s) := latchTake w (pairInKey k in1) s
  (BitVec.ofNat 16 (l.getD (fld v 16 16)), pairClear cl k in1 s)

/-- PAIR_INPUT_READ (R465). -/
def execPairInputRead (cl m : Fin 16) (c : Fin 8) (k : Fin 4) (in1 : Bool) (s : State) :
    Host.Outcome State Fault Refusal :=
  if cellsIssue s then
    let (v, s) := pairInHigh (.ctx cl m c) cl k in1 s
    .next (respond (v.zeroExtend 32) 0 s)
  else .next s

/-- A write of TIL_PAIRREP (R465, R470, R472): the TILE alarm of CODE; PAIRFAIL and PAIRNONE follow the use of the spare
cell (REDLOST.PAIR). -/
def pairRep (v : Word) (s : State) : State :=
  let code := fld v 0 8
  let s := tileAlarm code { cluster := fld v 8 4, unit := fld v 12 4 } s
  if code = 0x35 ∨ code = 0x36 then redLost 13 s else s

/-- A write of CX_PAIRc_REP: forwarded to TIL_PAIRREP; with STOP and TGT the named context of the peer stops. -/
def pairRepWord (cl k : Nat) (v : Half) (s : State) : State :=
  let n := v.toNat
  let target := if bitN n 6 then peerOf cl k (bitN n 7) s else cl
  let cell := bitsN n 8 4
  let prog := rf (R.CX_PAIR_CFG cl k) 16 16 s
  let s := pairRep (BitVec.ofNat 32 (bitsN n 0 6 + target * 256 + cell * 4096 + prog * 65536)) s
  if bitN n 15 && bitN n 6 then stopReq target cell (2 ^ bitsN n 12 3) s else s

/-- PAIR_REPORT (R465). -/
def execPairReport (cl m : Fin 16) (_c : Fin 8) (k : Fin 4) (v : Half) (s : State) : Host.Outcome State Fault Refusal :=
  if mayOut cl m s then .next (pairRepWord cl k v s) else .next s

/-- CX_PAIRc_STAT as a read shows it. -/
def pairStat (cl k : Nat) (s : State) : Half :=
  let x := pairOf cl k s
  let c := rd (R.CX_PAIR_CFG cl k) s
  BitVec.ofNat 16 (b2n x.in0f + b2n x.in1f * 2 + b2n x.ovr * 4 + b2n x.err * 8 + fld c 8 2 * 16 + fld c 10 1 * 64
    + fld c 0 4 * 256 + fld c 4 4 * 4096)

/-- A write of CX_PAIRc_STAT: OVR and ERR are W1C, but for one set in this core cycle (R16). -/
def pairStatWrite (cl k : Nat) (v : Half) (s : State) : State :=
  let x := pairOf cl k s
  let now := setNow (pairKey cl k) s
  putPair cl k { x with ovr := x.ovr && (!v.getLsbD 2 || now.getLsbD 2), err := x.err && (!v.getLsbD 3 || now.getLsbD 3) } s

/-! ### Event and trace posts (R417, R418) -/

/-- Cell and context of a writer: 0 where it is no cell. -/
def posterOf (w : Writer) (cl : Nat) : Nat × Nat × Nat :=
  match w with
  | .ctx cl' m c => (cl'.val, m.val, c.val)
  | _ => (cl, 0, 0)

/-- A write of ASP_EVPOST in cluster `cl`. -/
def postCell (w : Writer) (cl : Nat) (v : Word) (s : State) : State :=
  let (a, m, c) := posterOf w cl
  postEvent 0 a m c (fld v 0 24) s

/-- A write of ASP_TRPOST: a trace copy begins, or is discarded while the cluster's earlier one runs. -/
def postTrace (w : Writer) (cl : Nat) (v : Word) (s : State) : State :=
  let (_, m, c) := posterOf w cl
  match Sparse.get none s.ingress.traces cl with
  | some _ => addSat R.ASP_DROP 16 16 1 s
  | none =>
    { s with ingress := { s.ingress with
        traces := Sparse.set none s.ingress.traces cl (some (m, c, fld v 0 19, fld v 24 7 + 1)) } }

/-- ASP_EVPOST (R417). -/
def execAspEvpost (w : Writer) (cl : Fin 16) (v : Word) (s : State) : Host.Outcome State Fault Refusal :=
  if reservedHit (R.ASP_EVPOST cl) v then .fault (.reservedBit (R.ASP_EVPOST cl))
  else if reaches w (R.ASP_EVPOST cl) s then .next (respond 0 0 (postCell w cl v s)) else .next (turnedAway w s)

/-- ASP_TRPOST (R417). -/
def execAspTrpost (w : Writer) (cl : Fin 16) (v : Word) (s : State) : Host.Outcome State Fault Refusal :=
  if reservedHit (R.ASP_TRPOST cl) v then .fault (.reservedBit (R.ASP_TRPOST cl))
  else if reaches w (R.ASP_TRPOST cl) s then .next (respond 0 0 (postTrace w cl v s)) else .next (turnedAway w s)

/-- Words `o` up of the cluster's pantry, `n` of them; the offset wraps at the pantry's end. -/
def traceWords (cl o : Nat) : Nat → State → List Byte
  | 0, _ => []
  | n + 1, s => readBytes (pantryBase cl + 2 * (o % 524288)) 2 s ++ traceWords cl (o + 1) n s

/-- TRACE_COPY_COMPLETE (R417): the payload is padded with zeros to a multiple of 8 bytes; corrected and uncorrectable words
it reads are counted and reported (R348). -/
def execTraceCopyComplete (cl : Fin 16) (s : State) : Host.Outcome State Fault Refusal :=
  match Sparse.get none s.ingress.traces cl with
  | none => .next s
  | some (m, c, o, n) =>
    if carries 2 (clusterNode cl) s = false then .next s
    else
    let body := traceWords cl o n s
    let pad := List.replicate ((8 - body.length % 8) % 8) (0 : Byte)
    let read := fun (w : Nat) => (List.range n).any (fun j => decide ((pantryBase cl + 2 * ((o + j) % 524288)) / 8 * 8 = w))
    let s := (s.ue.filter read).foldl (fun s w => pantryUe cl w s) s
    let s := (s.ce.filter read).foldl (fun s _ => pantryCe cl s) s
    .next (pushTrace { pt := 0x42, arg := cl.val + m * 16 + c * 256, payload := body ++ pad }
      { s with ingress := { s.ingress with traces := Sparse.set none s.ingress.traces cl none } })

/-! ### Watchdog (R471) -/

def wdPeriod (s : State) : Nat := rf R.TIL_WDCFG 0 24 s

/-- µs since the count was last restarted (4,000 units of 250 ps). -/
def wdElapsed (s : State) : Nat := (s.time - s.wdAt) / 4000

/-- TIL_WDOG as a read shows it: 0 while PERIOD is 0. -/
def wdCount (s : State) : Nat := wdPeriod s - wdElapsed s

def wdRestart (s : State) : State := { s with wdAt := s.time }

/-- WATCHDOG_RESTART (R471): the value written is not used. -/
def execWatchdogRestart (w : Writer) (v : Word) (s : State) : Host.Outcome State Fault Refusal :=
  if reservedHit R.TIL_WDOG v then .fault (.reservedBit R.TIL_WDOG)
  else if reaches w R.TIL_WDOG s then .next (respond 0 0 (wdRestart s)) else .next (turnedAway w s)

/-- WATCHDOG_EXPIRY (R471). -/
def execWatchdogExpiry (s : State) : Host.Outcome State Fault Refusal :=
  if s.mode.fromProof && decide (wdPeriod s ≠ 0 ∧ wdPeriod s ≤ wdElapsed s) then
    .next (tileAlarm 0x37 {} (wdRestart s))
  else .next s

/-! ### Die-link retrain (R405) -/

/-- The link leaves service and trains; a retrain is counted. Replay buffers and credits are kept. -/
def retrainLink (s : State) : State :=
  addSat R.DLK_REPLAY 16 16 1
    { s with dlk := { s.dlk with trained := false, training := true, up0 := false, up1 := false, nakRun := 0, early := [] } }

/-- DIE_LINK_RETRAIN (R405, R422). -/
def execDieLinkRetrain (w : Writer) (s : State) : Host.Outcome State Fault Refusal :=
  if reaches w R.DLK_ALM s then .next (retrainLink (respond 0 0 s)) else .next (turnedAway w s)

/-! ### DMA: START and STOP (R372, R378, R379) -/

def dmaOf (cl : Nat) (s : State) : DmaEng := Sparse.get {} s.dma cl
def putDma (cl : Nat) (x : DmaEng) (s : State) : State := { s with dma := Sparse.set {} s.dma cl x }

def dmaBusy (cl k : Nat) (s : State) : Bool := rb (R.DMA_STAT cl k) 0 s

/-- The engine lets go of channel `k`. -/
def dmaRelease (cl k : Nat) (s : State) : State :=
  let s := wb (R.DMA_STAT cl k) 1 false s
  if (dmaOf cl s).unit = some k then putDma cl { olds := (dmaOf cl s).olds } s else s

/-- What the channel's transfer has overwritten is forgotten. -/
def dmaForget (cl k : Nat) (s : State) : State :=
  let x := dmaOf cl s
  putDma cl { x with olds := x.olds.filter (fun e => e.1 / 2 ^ 36 != k) } s

/-- The channel ends (R378): `i` the status bit (3 DONE, 4 ABORTED), BUSY clears, its source where DONEEV. -/
def dmaEnd (cl k i : Nat) (s : State) : State :=
  let s := dmaForget cl k (dmaRelease cl k (wb (R.DMA_STAT cl k) 0 false (wb (R.DMA_STAT cl k) i true s)))
  if rb (R.DMA_CTL cl k) 2 s then assertSource cl (16 + k) s else s

/-- ERR and ECODE with the alarm DMAERR (R378, R383). -/
def dmaErr (cl k code : Nat) (s : State) : State :=
  raiseAlarm 61 { cluster := cl, unit := k, code := code }
    (wf (R.DMA_STAT cl k) 6 2 code (wb (R.DMA_STAT cl k) 5 true s))

/-- Is a parameter that R372 requires even odd, or REQSRC reserved? -/
def dmaBad (cl k : Nat) (s : State) : Bool :=
  rb (R.DMA_SRCL cl k) 0 s || rb (R.DMA_DSTL cl k) 0 s || rb (R.DMA_COUNT cl k) 0 s
  || rb (R.DMA_SSHAPE cl k) 0 s || rb (R.DMA_DSHAPE cl k) 0 s || rb (R.DMA_SSTRIDE cl k) 0 s
  || rb (R.DMA_DSTRIDE cl k) 0 s || decide (25 ≤ rf (R.DMA_CTL cl k) 3 5 s)

/-- START on an idle channel. A refused START moves nothing (R372). -/
def dmaBegin (cl k : Nat) (s : State) : State :=
  if dmaBad cl k s then dmaErr cl k 3 s
  else
    let s := wr (R.DMA_REMAIN cl k) (rd (R.DMA_COUNT cl k) s) s
    if rd (R.DMA_COUNT cl k) s = 0 then dmaEnd cl k 3 s
    else wb (R.DMA_STAT cl k) 0 true s

/-- STOP: a busy channel ends with ABORTED, REMAIN as it stands; an idle one is not touched. -/
def dmaHalt (cl k : Nat) (s : State) : State := if dmaBusy cl k s then dmaEnd cl k 4 s else s

/-- Does the unit refuse this write of DMA_k_CTL (R372)? -/
def dmaRefuses (cl k : Nat) (v : Word) (s : State) : Bool :=
  bit v 0 && !dmaBusy cl k s && dmaBad cl k (codedWrite (R.DMA_CTL cl k) v s)

/-- A write of DMA_k_CTL: on a busy channel the parameters and START are discarded with WREJ and STOP acts; on an idle one
the parameters are taken and START acts. -/
def dmaCtlWrite (cl k : Nat) (v : Word) (s : State) : State :=
  let a := R.DMA_CTL cl k
  if dmaBusy cl k s then
    let s := wb (R.DMA_STAT cl k) 8 true s
    if bit v 1 then dmaHalt cl k s else s
  else
    let s := codedWrite a v s
    if bit v 0 then dmaBegin cl k s else s

/-- A write of another parameter register of the channel. -/
def dmaParamWrite (cl k a : Nat) (v : Word) (s : State) : State :=
  if dmaBusy cl k s then wb (R.DMA_STAT cl k) 8 true s else codedWrite a v s

/-- DMA_START (R372, R379): a write of DMA_k_CTL with START. -/
def execDmaStart (w : Writer) (cl : Fin 16) (k : Fin 4) (v : Word) (s : State) : Host.Outcome State Fault Refusal :=
  if bit v 0 = false then .next s
  else if reservedHit (R.DMA_CTL cl k) v then .fault (.reservedBit (R.DMA_CTL cl k))
  else if reaches w (R.DMA_CTL cl k) s then .next (respond 0 (if dmaRefuses cl k v s then 1 else 0) (dmaCtlWrite cl k v s))
  else .next (turnedAway w s)

/-- DMA_STOP (R378, R379). -/
def execDmaStop (w : Writer) (cl : Fin 16) (k : Fin 4) (s : State) : Host.Outcome State Fault Refusal :=
  if reaches w (R.DMA_CTL cl k) s then .next (respond 0 0 (dmaHalt cl k s)) else .next (turnedAway w s)

end Sys2Proof.Machine
end

