-- ==== Sys2Proof/Machine/RegRead.lean ====
section
/-! DEFINITION. Reads of registers: the value a read shows (R14, R15), where it is computed from other state, and what the
read does: RC fields, read latches, read windows (R15, R67, R178, R357). -/

namespace Sys2Proof.Machine

/-! ### Values computed at the read -/

def w32 (n : Nat) : Word := BitVec.ofNat 32 n

/-- Clusters with a commit of either kind accepted and not yet taken (R101, R110). -/
def pendMask (s : State) : Nat := s.cmp.pend.foldl (fun m p => Nat.lor m p.mask) 0

/-- A commit status register: RESULT and OUT as kept, PENDMASK (R110). -/
def commitStatus (a : Nat) (s : State) : Word := putFld (rd a s) 16 16 (pendMask s)

/-- The read offset of the enabled slice furthest behind CMP_STR_WP (R87); CMP_STR_WP where none is enabled. -/
def slowestRp (s : State) : Nat :=
  ((List.range 16).filter (fun cl => sliceEn cl s)).foldl (fun r cl =>
    let x := (sliceOf cl s).rp
    if strBehind r s < strBehind x s then x else r) (strWp s)

/-- TIL_MODE (R472). -/
def modeWord (s : State) : Word := w32 (s.mode.num + s.prev.num * 16 + s.cause * 256)

def viewTil (o : Nat) (a : Nat) (s : State) : Word :=
  if o = 0x4 then modeWord s
  else if o = 0x14 then forceBits s
  else if o = 0x28 then w32 (wdCount s)
  else rd a s

/-- The family member of `a` and its offset within the stride, where `a` lies in the family. -/
def famOf (base stride count o : Nat) : Option (Nat × Nat) :=
  if base ≤ o ∧ (o - base) / stride < count then some ((o - base) / stride, (o - base) % stride) else none

def viewPos (o : Nat) (a : Nat) (s : State) : Word :=
  let p := low 48 (pOf s)
  let h := low 40 s.pos.hwm
  let t := s.time % 2 ^ 56
  if o = 0x14 then w32 p
  else if o = 0x18 then w32 (p / 2 ^ 32)
  else if o = 0x1C ∨ o = 0x24 then w32 h
  else if o = 0x20 ∨ o = 0x28 then w32 (h / 2 ^ 32)
  else if o = 0x3C then w32 t
  else if o = 0x40 then w32 (t / 2 ^ 32)
  else
    match famOf 0x100 0x20 4 o, famOf 0x600 0x20 8 o with
    | some (n, 0xC), _ => putFld (rd a s) 0 8 (widthOf n s)
    | _, some (k, 0x14) => w32 (low 16 (regOf k s).c)
    | _, _ => rd a s

def viewCmp (o : Nat) (a : Nat) (s : State) : Word :=
  if o = 0x1C then commitStatus a s
  else if o = 0x2C then w32 (slowestRp s)
  else if o = 0x34 then (List.range 16).foldl (fun v cl => v ||| rd (R.CLC_ASTAT cl) s) 0
  else rd a s

def viewNzl (o : Nat) (a : Nat) (s : State) : Word :=
  if o = 0x1C then commitStatus a s
  else if o = 0x24 then queryData (rd R.NZL_QRY s) s
  else if o = 0x30 then w32 (lostCount s)
  else rd a s

/-- The RX equaliser (R203): with a locked lane the eye margin is free, and so are the settings in use while no program
sets them. -/
def viewHlk (o : Nat) (a : Nat) (s : State) : Word :=
  match famOf 0x600 0x10 8 o with
  | some (r, e) =>
    let lock := rb (R.HLK_RX_EQ r) 8 s
    let own := rb (R.HLK_RX_EQ r) 0 s || !s.mode.fromProof
    if e = 0 then
      let v := if lock then putFld (rd a s) 16 8 (Config.freeNat s.fresh) else rd a s
      if own then v else putFld v 1 4 (Config.freeNat (s.fresh + 1))
    else if own then rd a s
    else putFld 0 0 30 (Config.freeNat (s.fresh + 2))
  | none => rd a s

/-- WAV_VOv_STAT (R245). -/
def voiceStat (v : Nat) (s : State) : Word :=
  let x := voiceOf v s
  w32 (x.j % 64 + b2n x.run * 64 + x.q.length % 16 * 256 + low 16 (fdiv x.lvl 256) * 65536)

def viewWav (o : Nat) (a : Nat) (s : State) : Word :=
  match famOf 0x100 0x10 64 o, famOf 0x800 0x40 32 o with
  | some (v, 0xC), _ => voiceStat v s
  | _, some (c, 0x14) => w32 ((outOf c s).gain % 65536)
  | _, _ => rd a s

/-- FAB_C0Q depends on the fabric's timing, which is left out (log entry 11): free. -/
def viewFab (o : Nat) (a : Nat) (s : State) : Word :=
  if o = 0x18 ∧ s.mode.fromProof then Config.freeWord s.fresh &&& 0xFFFFFF else rd a s

/-- DLK_STAT (R422). -/
def linkStat (s : State) : Word :=
  let d := s.dlk
  w32 (d.rate % 4 + b2n d.up0 * 4 + b2n d.up1 * 8 + b2n d.x80 * 16 + b2n d.x81 * 32 + b2n d.training * 64)

/-- MAXRATE reads 16 GT/s until LOAD ends (R402). -/
def viewDlk (o : Nat) (a : Nat) (s : State) : Word :=
  if o = 0x4 then linkStat s
  else if o = 0 ∧ s.mode.fromProof = false then putFld (rd a s) 0 2 3
  else rd a s

/-- A partition's occupancy in 128-byte units; how a part of a unit counts is free. -/
def units128 (n i : Nat) (s : State) : Nat :=
  n / 128 + (if n % 128 = 0 then 0 else b2n (Config.freeBool (s.fresh + i)))

/-- Is ingress held: before PROOF ends (R402)? -/
def ingressHeld (s : State) : Bool := s.mode == .cold || s.mode == .load || s.mode == .proof

/-- ASP_STAT (R423). -/
def aspStat (s : State) : Word :=
  w32 (b2n (ingressHeld s && (s.dlk.stream != [] || s.dlk.content != [])) + b2n s.ingress.content.isSome * 2
    + b2n s.ingress.waiting * 4)

def viewAsp (o : Nat) (a : Nat) (s : State) : Word :=
  let map := fun base => ((List.range 32).map (fun t => if (coalOf (base + t) s).count = 0 then 0 else 2 ^ t)).sum
  if o = 0x4 then aspStat s
  else if o = 0xC then
    w32 (units128 (queueBytes s.egress.rsp) 0 s + units128 (queueBytes s.egress.alarm) 1 s * 256
      + units128 (queueBytes s.egress.event) 2 s * 65536 + units128 (queueBytes s.egress.trace) 3 s * 16777216)
  else if o = 0x10 then w32 (map 0)
  else if o = 0x14 then w32 (map 32)
  else if 0x100 ≤ o ∧ o < 0x200 then w32 (coalOf ((o - 0x100) / 4) s).count
  else rd a s

/-- STA_FUSE (R448): SIGEN and the blown rollback bits. -/
def fuseStat (s : State) : Word :=
  w32 (bitsN s.jtag.fuses.toNat 0 1 + (bitList (bitsN s.jtag.fuses.toNat 1 32) 32).length * 256)

def viewSta (o : Nat) (a : Nat) (s : State) : Word :=
  if o = 0x4 then fuseStat s
  else if 0xA0 ≤ o ∧ o < 0xC0 then w32 (bitsN s.jtag.fuses.toNat (33 + 8 * (o - 0xA0)) 32)
  else rd a s

/-- The bits of 32 sources from `base` up. -/
def sourceBits (base : Nat) (f : Nat → Bool) : Word :=
  w32 ((List.range 32).map (fun j => b2n (f (base + j)) * 2 ^ j)).sum

/-- EVC_RAW of a source (R339): its level, or its edge latch. -/
def rawOf (cl i : Nat) (s : State) : Bool :=
  if isLevel i then levelOf cl i s else hasLatch i && bitN (Sparse.get 0 s.evLatch cl) i

/-- EVC_CELLm (R339): STOPPED, and RUN from PROOF onward. -/
def cellWord (cl m : Nat) (s : State) : Word :=
  let run := ((List.range 8).map (fun c => b2n (s.mode.fromProof && (theCtx cl m c s).state != .stopped) * 2 ^ c)).sum
  putFld (rd (R.EVC_CELL cl m) s) 0 8 run

/-- EVC_SRCs (R339). -/
def srcWord (cl i : Nat) (s : State) : Word :=
  let v := putBit (putBit (rd (R.EVC_SRC cl i) s) 8 (isLevel i)) 9 (hasLatch i)
  putBit (putBit v 14 (pendOf cl i s)) 15 (actOf cl i s)

def viewEvc (cl o : Nat) (a : Nat) (s : State) : Word :=
  if o = 0xC08 ∨ o = 0xC10 then sourceBits 0 (fun i => pendOf cl i s)
  else if o = 0xC0C ∨ o = 0xC14 then sourceBits 32 (fun i => pendOf cl i s)
  else if o = 0xC20 then rd (R.EVC_MASKSETL cl) s
  else if o = 0xC24 then rd (R.EVC_MASKSETH cl) s
  else if o = 0xC30 then sourceBits 0 (fun i => rawOf cl i s)
  else if o = 0xC34 then sourceBits 32 (fun i => rawOf cl i s)
  else if 0xC40 ≤ o ∧ o < 0xC80 then cellWord cl ((o - 0xC40) / 4) s
  else if 0xD00 ≤ o ∧ o < 0xE00 then srcWord cl ((o - 0xD00) / 4) s
  else rd a s

/-- CMP_PSTAT (R111): RECOMP while a line that a commit sent back is being composed again or has yet to be (R102, R129), and
while a line is recomposed after a lockstep mismatch (R106). -/
def proofStat (cl : Nat) (s : State) : Word :=
  let x := sliceOf cl s
  let again := match x.again with
    | some t =>
      (match x.cur with
        | some i => decide (i ≤ t)
        | none => match nextDue x.last s with
          | some i => decide (i ≤ t)
          | none => false)
    | none => false
  let again := again || x.redo
  w32 (b2n (proofPend cl s).isSome + b2n again * 2)

/-- TMR_n_STAT (R380). -/
def timerStat (cl n : Nat) (s : State) : Word :=
  let x := tmrOf cl n s
  putFld (rd (R.TMR_STAT cl n) s) 5 3 (b2n x.pbuf.isSome + b2n x.shadow.isSome * 2 + b2n (tOut cl n s) * 4)

def viewCluster (cl o : Nat) (a : Nat) (s : State) : Word :=
  if o < 0x1000 then viewEvc cl o a s
  else if o = 0x1014 then proofStat cl s
  else if o = 0x1030 ∨ o = 0x1418 then commitStatus a s
  else if o = 0x1408 then queryData (rd (R.CLN_QRY cl) s) s
  else if o = 0x141C then rd R.NZL_SQ_WP s
  else if o = 0x1420 then rd R.NZL_SQ_RP s
  else
    match famOf 0x1600 0x20 8 o with
    | some (n, 0x14) => timerStat cl n s
    | _ =>
      match rowAt a with
      | some r => if r.ps && rb (R.CLC_CTL cl) 1 s then proofOf a s else rd a s
      | none => 0

/-- The value that a read of the register at `a` shows. Queue depths, which follow from timing, are free (log
entry 11). -/
def view (a : Nat) (s : State) : Word :=
  let o := a % 0x10000
  if a < 0x310000000 then
    match (a - 0x300000000) / 0x10000 with
    | 0 => viewTil o a s
    | 1 => viewPos o a s
    | 2 => viewCmp o a s
    | 3 => viewNzl o a s
    | 7 => viewHlk o a s
    | 8 => viewWav o a s
    | 9 => viewFab o a s
    | 10 => viewDlk o a s
    | 11 => viewAsp o a s
    | 12 => viewSta o a s
    | _ => rd a s
  else viewCluster ((a - 0x310000000) / 0x10000) o a s

/-! ### Register couples (R355, R357) -/

/-- Is `a` the low register of a couple that the spec describes as staged with a high word that commits the pair? -/
def stagedLow (a : Nat) : Bool :=
  let o := a % 0x10000
  if a < 0x310000000 then
    match (a - 0x300000000) / 0x10000 with
    | 1 => (match famOf 0x600 0x20 8 o, famOf 0x1000 0x10 256 o with
      | some (_, 0xC), _ => true
      | _, some (_, 0) => true
      | _, _ => false)
    | 2 => o == 0x10
    | 3 => o == 0x10
    | 7 => o == 0x10
    | _ => false
  else psPairLow o || o == 0x1024 || o == 0x140C

/-- Is `a` a low register whose read alone latches the high one: p, the time base, the last line composed or stored, the
last mode change, the last address error? -/
def latchingLow (a : Nat) : Bool :=
  a == R.POS_PL || a == R.POS_TIMEL || a == R.COD_LASTL || a == R.TIL_MCHGL || a == R.FAB_AERRL
  || (decide (0x310000000 ≤ a) && a % 0x10000 == 0x100C)

/-- The registers that a read of `a` latches for the reader (R67, R178, R357). -/
def latchedBy (a : Nat) : List Nat :=
  if stagedLow a || latchingLow a then [a + 4]
  else if a = R.COD_MODES0 then [R.COD_MODES1, R.COD_MODES2, R.COD_LSIZE]
  else
    match famOf 0x400 0x20 16 (a % 0x10000) with
    | some (_, 4) => if (a - 0x300000000) / 0x10000 = 1 ∧ a < 0x310000000 then [a + 4, a + 8, a + 12] else []
    | _ => []

/-! ### RC (R15) -/

/-- The stored register with the RC fields among the bits of `m` back at their Reset value: LST_OCCMAX at O. -/
def clearRc (a : Nat) (m : Word) (s : State) : State :=
  match rowAt a with
  | some r =>
    let c := BitVec.ofNat 32 r.rc &&& m
    if c = 0 then s
    else
      let back := if a = R.LST_OCCMAX then w32 (occupancy s) else regReset a
      clearFields a c back s
  | none => s

/-! ### A read of one register -/

/-- Event input whose TSL, or whose PH, lies at `a` (R67). -/
def evTsl (a : Nat) : Option Nat := ixOf (R.POS_EV_TSL 0) 0x20 16 a
def evPh (a : Nat) : Option Nat := ixOf (R.POS_EV_PH 0) 0x20 16 a

/-- The nozzle whose fields a read of NZL_QDAT at `a` returns is read in its bank, a table register in its table (R140). -/
def readTable (a : Nat) (s : State) : State :=
  if s.lst.tabErr = [] then s
  else
    let query := fun (q : Word) => if nozzleNamed (fld q 24 6) (fld q 0 17) s then
      readNoz (bit q 31) (fld q 24 6) (fld q 0 17) s else s
    if a = R.NZL_QDAT then query (rd R.NZL_QRY s)
    else if 0x310000000 ≤ a ∧ a % 0x10000 = 0x1408 then query (rd (R.CLN_QRY ((a - 0x310000000) / 0x10000)) s)
    else readWord (.table a) s

/-- A read of the register at `a` by `w`, keyed by the address `k` it was named with (R392). A high register that the
reader has latched reads its latched value. -/
def readAt (w : Writer) (k a : Nat) (s : State) : Word × State :=
  let (held, s) := latchTake w k s
  let v := match held with
    | some x => w32 x
    | none => beforeEvents a (view a s) s
  let s := readTable a (clearRc a 0xFFFFFFFF { s with fresh := s.fresh + 4 })
  let s := match evTsl a with
    | some e => putEv e { evOf e s with window := true } s
    | none => s
  let s := match evPh a with
    | some e => closeCapture e s
    | none => s
  let l := latchedBy a
  (v, if l = [] then s else latchPut w (l.map (fun b => (k + b - a, (view b s).toNat))) s)

/-- A register block that exists (R7, R8, R391, R392). -/
def isBlock (a : Nat) (s : State) : Bool :=
  match placeOf a with
  | .tileReg => decide ((a - 0x300000000) / 0x10000 < 14)
  | .clusterReg i => addressed i s != []
  | _ => false

/-- The registers that the fabric address `a` of a register block reaches (R8, R11). -/
def reached (a : Nat) (s : State) : List Nat :=
  match placeOf a with
  | .tileReg => if (rowAt a).isSome then [a] else []
  | .clusterReg i => ((addressed i s).map (fun cl => R.cluster cl + a % 0x10000)).filter (fun b => (rowAt b).isSome)
  | _ => []

/-- The registers of an alias read one after another, each for itself, and the OR of their values (R10, R392). -/
def readMany (w : Writer) : List Nat → State → Word × State
  | [], s => (0, s)
  | b :: r, s =>
    let x := readAt w (0x4000000000 + b) b s
    let y := readMany w r x.2
    (x.1 ||| y.1, y.2)

/-- What a read through an alias latches for the reader: the OR of the registers that a read of each would latch. -/
def latchMany (w : Writer) (a : Nat) (l : List Nat) (s : State) : State :=
  let hs := latchedBy (l.headD 0)
  if hs = [] then s
  else latchPut w (hs.map (fun h => (a + h - l.headD 0,
    (l.foldl (fun v b => v ||| view (b + h - l.headD 0) s) (0 : Word)).toNat))) s

/-- A read at `a` that reaches the registers `l` (R10 to R12): their OR; an address error where there are none. -/
def readOver (w : Writer) (a : Nat) (l : List Nat) (s : State) : Word × State :=
  match l with
  | [] => (0, addressError a s)
  | [b] => readAt w a b s
  | l =>
    let r := readMany w l s
    let x := latchTake w a r.2
    (match x.1 with
      | some h => w32 h
      | none => r.1, latchMany w a l x.2)

/-- A 32-bit read of the register space at the aligned address `a`. -/
def readReg (w : Writer) (a : Nat) (s : State) : Word × State := readOver w a (reached a s) s

end Sys2Proof.Machine
end

