-- ==== Sys2Proof/Machine/WaveCmds.lean ====
section
/-! DEFINITION. The waveform block's samples and its JESD204B link (R223 to R244). -/

namespace Sys2Proof.Machine

/-! ### Registers a write changes only from a later sample on (R230) -/

/-- The register as the sample at `t` sees it: the value before the first write less than one sample old. -/
def waveReg (a t : Nat) (s : State) : Word :=
  match s.wav.late.find? (fun e => e.1 == a && decide (t < e.2.2 + 100)) with
  | some (_, v, _) => v
  | none => rd a s

/-- A write of one of those registers: it acts on the first sample at least 25 ns later. -/
def waveWrite (a : Nat) (v : Word) (s : State) : State :=
  let s := { s with wav := { s.wav with late := s.wav.late.filter (fun e => decide (s.time < e.2.2 + 200)) ++ [(a, rd a s, s.time)] } }
  wr a v s

/-! ### A voice (R224, R228) -/

/-- Quotient rounded to nearest, ties toward plus infinity. -/
def nearestUp (n d : Int) : Int := fdiv (2 * n + d) (2 * d)

/-- Segment `j` of voice `v` at sample instant `t`. -/
def segAt (v j t : Nat) (s : State) : Word :=
  waveReg (R.WAV_SEG ((fld (waveReg (R.WAV_VO_BASE v) t s) 0 12 + j) % 4096)) t s

/-- The loop of R228: segments that end at or before `e` are passed. -/
def passSegs (v len e t : Nat) (s : State) : (fuel : Nat) → Voice → Voice
  | 0, x => x
  | n + 1, x =>
    if x.j < len then
      let w := segAt v x.j t s
      if x.tau + fld w 17 15 ≤ e then
        passSegs v len e t s n
          { x with j := x.j + 1, tau := x.tau + fld w 17 15, lj := if bit w 16 then x.lj else sext 16 (fld w 0 16) * 256 }
      else x
    else x

/-- The running cycle at sample instant `t`. -/
def runCycle (v t : Nat) (s : State) (x : Voice) : Voice :=
  let len := fld (waveReg (R.WAV_VO_CFG v) t s) 16 6 + 1
  let e := t - x.t0
  let y := passSegs v len e t s 64 x
  if len ≤ y.j then { y with run := false, lvl := if x.j < y.j then y.lj else y.lvl }
  else
    let w := segAt v y.j t s
    if bit w 16 then { y with lvl := y.lj }
    else { y with lvl := y.lj + nearestUp ((sext 16 (fld w 0 16) * 256 - y.lj) * ((e - y.tau : Nat) : Int)) (fld w 17 15) }

/-- Voice `v` at sample instant `t`, and whether a cycle was cut. A disabled voice holds its level (R245). -/
def sampleVoice (v t : Nat) (s : State) : Voice × Bool :=
  let x := voiceOf v s
  if rb (R.WAV_VO_CFG v) 8 s then
    let ready := x.q.filter (fun o => decide (o ≤ t))
    match ready with
    | [] => (if x.run then runCycle v t s x else x, false)
    | o :: r =>
      let k := if rb (R.WAV_VO_CFG v) 14 s then rf (R.WAV_TS_K (rf (R.WAV_VO_CFG v) 10 4 s)) 0 16 s else 16384
      let y := { x with q := x.q.filter (fun o => !decide (o ≤ t)), run := true, t0 := r.foldl max o, j := 0, tau := 0, lj := x.lvl, k := k }
      (runCycle v t s y, x.run || r != [])
  else (x, false)

/-- VOICE_EVALUATE for every voice, with CYCCUT. -/
def sampleVoices (t : Nat) (s : State) : State :=
  (List.range 64).foldl (fun s v =>
    let (x, cut) := sampleVoice v t s
    let s := putVoice v x s
    if cut then alarmBit R.WAV_STAT 0 44 { line := s.pos.hwm, idx := v } s else s) s

/-! ### An output channel (R232 to R234) -/

/-- The gain of the sample (R233); a tie of the rounding is free. -/
def stepGain (c : Nat) (s : State) : State :=
  let x := outOf c s
  if x.i < x.ramp then
    let n : Int := (x.g0 : Int) * x.ramp + ((x.g1 : Int) - x.g0) * ((x.i + 1 : Nat) : Int)
    let q := fdiv n x.ramp
    let rem2 := 2 * imod n x.ramp
    let up : Int := if (x.ramp : Int) < rem2 then 1 else if rem2 = x.ramp ∧ Config.freeBool s.fresh then 1 else 0
    drawn (putOut c { x with i := x.i + 1, gain := (q + up).toNat } s)
  else putOut c { x with gain := x.g1 } s

/-- x of R232 in units of 2^-51. -/
def mix (c t : Nat) (s : State) : Int :=
  let sum := ((List.range 4).map (fun j =>
    let w := waveReg (R.WAV_OUT_SRC c j) t s
    let v := voiceOf (fld w 0 6) s
    if bit w 6 then sext 16 (fld w 16 16) * ((v.k : Int) * v.lvl) else 0)).sum
  (outOf c s).gain * sum

/-- num ÷ 2^exp in lowest terms. -/
def reduceDyadic : (exp num : Nat) → Nat × Nat
  | 0, num => (num, 0)
  | e + 1, num => if num % 2 = 0 then reduceDyadic e (num / 2) else (num, e + 1)

/-- The limiter (R234): the envelope gain after the sample and the sample itself, with its clamp's doing. -/
def limit (c t : Nat) (x : Int) (s : State) : Nat × Nat × Int × Bool :=
  let o := outOf c s
  let ceil := waveReg (R.WAV_OUT_CEIL c) t s
  let lim := waveReg (R.WAV_OUT_LIM c) t s
  let cp := fld ceil 0 16
  let cn := fld ceil 16 16
  let top := if x < 0 then cn else cp
  let gs := if x = 0 then 65536 else min 65536 (top * 2 ^ 67 / x.natAbs)
  let (num, exp) :=
    if bit lim 16 then
      let sh := if gs * 2 ^ o.exp < o.num * 65536 then fld lim 0 4 else min 20 (fld lim 8 5)
      let g : Int := (o.num * 2 ^ (16 + sh) : Nat)
      let d : Int := ((gs * 2 ^ o.exp : Nat) : Int) - ((o.num * 65536 : Nat) : Int)
      reduceDyadic (o.exp + 16 + sh) (g + d).toNat
    else (1, 0)
  let m := (2 * (x.natAbs * num) + 2 ^ (51 + exp)) / 2 ^ (52 + exp)
  let y : Int := if x < 0 then -m else m
  let z := clampI (-(cn : Int)) cp y
  (num, exp, z, z != y)

/-- OUTPUT_MIX and LIMITER_STEP for channel `c`: gain, mix, limiter, OSTAT, CLIP. -/
def sampleOut (c t : Nat) (s : State) : State × Int :=
  let s := stepGain c s
  let (num, exp, y, clip) := limit c t (mix c t s) s
  let s := putOut c { outOf c s with num := num, exp := exp } s
  let s := if num < 2 ^ exp then addSat (R.WAV_OUT_OSTAT c) 0 16 1 s else s
  let s := if clip then
      let first := rf (R.WAV_OUT_OSTAT c) 16 16 s == 0
      let s := addSat (R.WAV_OUT_OSTAT c) 16 16 1 s
      if first then alarmBit R.WAV_STAT 2 46 { idx := c } s else s
    else s
  (s, y)

/-! ### The vote (R244) -/

/-- Copy `c` disagrees at this sample. -/
def vote (c : Nat) (s : State) : State :=
  let w := rf R.WAV_VOTE 0 3 s
  if bitN w c = false ∨ rb R.TIL_FORCE 4 s then s
  else
    let s := addSat R.WAV_VOTE 8 8 1 s
    if (bitList w 3).length = 3 then
      let again := match Sparse.get none s.wav.dissent c with
        | some n => decide (s.wav.n ≤ n + 2 ^ 20)
        | none => false
      let s := alarmBit R.WAV_STAT 6 50 {} s
      let s := { s with wav := { s.wav with dissent := Sparse.set none s.wav.dissent c (some s.wav.n) } }
      if again then redLost 5 (alarmBit R.WAV_STAT 7 51 {} (wf R.WAV_VOTE 0 3 (clrBitN w c) s)) else s
    else forceSafe 0xC (alarmBit R.WAV_STAT 8 52 {} (wb R.TIL_FORCE 4 true s))

/-! ### The link (R238, R241, R243) -/

/-- Physical lane and inversion of logical lane `l` (WAV_JLANE). -/
def physLane (l : Nat) (s : State) : Nat × Bool :=
  let p := rf R.WAV_JLANE (2 * l) 2 s
  (p, rb R.WAV_JLANE (8 + p) s)

/-- POS_TIME at which the frame of the sample at `t` begins to leave: 300 ns after it (R238). -/
def leavesAt (t : Nat) : Nat := t + 1200

/-- One logical lane's frame: its characters in order, and the lane after it. -/
def laneFrame (scr endMulti : Bool) (x : JLane) (octets : List Byte) : List (Bool × Byte) × JLane :=
  let (l, reg) := if scr then scrambleAll x.scr octets else (octets, x.scr)
  let z := lastChar scr endMulti x.last (l.getLastD 0)
  (l.dropLast.map (fun b => (false, b)) ++ [z], { scr := reg, last := if z.1 && !scr then none else some (l.getLastD 0) })

/-- The frame of a sample leaves: converter i in its lane's octets, most significant octet first. -/
def sendSample (ys : List Int) (t : Nat) (s : State) : State :=
  let (l, m, _) := jesdShape (rf R.WAV_CFG 0 2 s)
  let endMulti := (leavesAt t + 100) % 3200 == s.wav.lmfc
  let per := m / l
  let out := (List.range l).map (fun j =>
    laneFrame (rb R.WAV_CFG 2 s) endMulti (Sparse.get {} s.wav.lanes j) (sampleOctets ((ys.drop (per * j)).take per)))
  let lanes := (List.range l).map (fun j =>
    ((physLane j s).1, (physLane j s).2, ((out.getD j ([], {})).1)))
  emit (.samples s.wav.n (ys.take m) (leavesAt t) lanes)
    { s with wav := { s.wav with
      lanes := (List.range l).foldl (fun acc j => Sparse.set {} acc j ((out.getD j ([], {})).2)) s.wav.lanes } }

/-- The ILAS begins on every lane: 4 multiframes, 128 sample instants. The scramblers start from a free state. -/
def ilasStart (s : State) : State :=
  let mode := rf R.WAV_CFG 0 2 s
  let ls := List.range (jesdShape mode).1
  let s := ls.foldl (fun s l => emit (.ilas (physLane l s).1 (physLane l s).2
    (ilasConfig mode (rf R.WAV_JID 0 8 s) (rf R.WAV_JID 8 4 s) l (rb R.WAV_CFG 2 s))) s) (emit (.jesd 2) s)
  wf R.WAV_JSTAT 1 2 2 { s with
    fresh := s.fresh + 4
    wav := { s.wav with
      ilas := 128
      lanes := ls.foldl (fun acc l => Sparse.set {} acc l { scr := Config.freeNat (s.fresh + l) % 2 ^ 15 }) [] } }

/-- What the link does with the sample at `t`: in code group synchronisation with SYNC~ released the ILAS begins with the
frame that leaves on an LMFC boundary; its samples are lost; in the data state the frame leaves. -/
def linkSample (ys : List Int) (t : Nat) (s : State) : State :=
  let s := if rf R.WAV_JSTAT 1 2 s = 1 ∧ rb R.WAV_JSTAT 0 s ∧ leavesAt t % 3200 = s.wav.lmfc then ilasStart s else s
  match rf R.WAV_JSTAT 1 2 s with
  | 2 =>
    let s := { s with wav := { s.wav with ilas := s.wav.ilas - 1 } }
    if s.wav.ilas = 0 then emit (.jesd 3) (wf R.WAV_JSTAT 1 2 3 s) else s
  | 3 => sendSample ys t s
  | _ => s

/-- Does the block make samples (R239)? -/
def samplesRun (s : State) : Bool := s.mode.fromProof && s.mode != .sleep && !s.waking

/-- WAVEFORM_SAMPLE (R223, R228, R232 to R234, R244): a sample at the phase SPH; `dissent` names a copy that disagrees. -/
def execWaveformSample (dissent : Option (Fin 3)) (s : State) : Host.Outcome State Fault Refusal :=
  if samplesRun s && s.time % 100 == rf R.WAV_JSTAT 4 7 s && s.wav.lastT != some s.time then
    let t := s.time
    let s := { s with wav := { s.wav with lastT := some t, n := s.wav.n + 1 } }
    let s := sampleVoices t s
    let (s, ys) := (List.range 32).foldl (fun (acc : State × List Int) c =>
      let (s, y) := sampleOut c t acc.1
      (s, acc.2 ++ [y])) (s, [])
    let s := match dissent with
      | some c => vote c s
      | none => s
    let zero := s.mode == .proof || s.mode == .safe || rb R.TIL_FORCE 4 s
    let ys := if zero then ys.map (fun _ => 0) else ys
    .next (linkSample ys t s)
  else .next s

/-- A write of WAV_OUTc_GAIN (R233): a ramp from the present gain. -/
def writeGain (c : Nat) (v : Word) (s : State) : State :=
  let x := outOf c s
  putOut c { x with g0 := x.gain, g1 := fld v 0 16, ramp := fld v 16 16, i := 0 } (wr (R.WAV_OUT_GAIN c) v s)

/-- OUTPUT_GAIN_WRITE (R233). -/
def execOutputGainWrite (w : Writer) (c : Fin 32) (v : Word) (s : State) : Host.Outcome State Fault Refusal :=
  if reaches w (R.WAV_OUT_GAIN c) s then .next (respond 0 0 (writeGain c v s)) else .next (turnedAway w s)

/-- A write of WAV_TSs_K (R236): OVR, and the program's k while OVR is set. -/
def writeFactor (x : Nat) (v : Word) (s : State) : State :=
  let s := wb (R.WAV_TS_K x) 16 (bit v 16) s
  if bit v 16 then wf (R.WAV_TS_K x) 0 16 (clampK x (fld v 0 16) s) s else s

/-- TEMPERATURE_STALE (R237): no reading for TSTALE ms. -/
def execTemperatureStale (k : Fin 16) (s : State) : Host.Outcome State Fault Refusal :=
  let lim := rf (R.WAV_TS_SRC k) 16 16 s
  if s.mode.fromProof && lim != 0 && !rb (R.WAV_TS_K k) 17 s
      && decide (Sparse.get 0 s.wav.sens k + lim * 4000000 ≤ s.time) then
    .next (alarmBit R.WAV_STAT 3 47 { idx := k } (wb (R.WAV_TS_K k) 17 true s))
  else .next s

/-! ### SYSREF and the link (R241 to R243) -/

/-- The REFCLK edge SYSDLY cycles (10 ns each) after the one at which SYSREF is sampled. -/
def sysrefInstant (s : State) : Nat := s.time + 40 * min 79 (rf R.WAV_CFG 8 8 s)

/-- SYSREF_EDGE (R242). -/
def execSysrefEdge (s : State) : Host.Outcome State Fault Refusal :=
  if samplesRun s then
    let aligned := rb R.WAV_JSTAT 3 s
    let t := sysrefInstant s
    if s.wav.realign ∨ (aligned = false ∧ s.mode = .proof) then
      .next ({ s with wav := { s.wav with realign := false, lmfc := t % 3200 } }
        |> wb R.WAV_JSTAT 3 true |> wf R.WAV_JSTAT 4 7 (t % 100))
    else if aligned = true ∧ t % 3200 ≠ s.wav.lmfc then .next (alarmBit R.WAV_STAT 4 48 {} s)
    else .next s
  else .next s

/-- A write of WAV_CTL.REALIGN (R242): kept in IDLE, discarded elsewhere. -/
def requestRealign (s : State) : State :=
  if s.mode = .idle then { s with wav := { s.wav with realign := true } } else s

/-- REALIGN (R242). -/
def execRealign (w : Writer) (s : State) : Host.Outcome State Fault Refusal :=
  if reaches w R.WAV_CFG s then .next (respond 0 0 (requestRealign s)) else .next (turnedAway w s)

/-- Is the link up in this mode (R239)? In PROOF it still trains. -/
def linkUpMode (s : State) : Bool := samplesRun s && s.mode != .proof

/-- RESYNCHRONISATION (R243): SYNC~ is held low. A link past code group synchronisation runs it again; in a mode with the
link up that is counted and raises JSYNC. -/
def execResynchronisation (s : State) : Host.Outcome State Fault Refusal :=
  let t := wb R.WAV_JSTAT 0 false s
  if samplesRun s && decide (2 ≤ rf R.WAV_JSTAT 1 2 s) then
    .next (jesdStart (if linkUpMode s then alarmBit R.WAV_STAT 5 49 {} (addSat R.WAV_JSTAT 16 16 1 t) else t))
  else .next t

/-- WSYNC_N_RELEASE (R241): SYNC~ is high; code group synchronisation ends at the next LMFC boundary (linkSample). -/
def execWsyncNRelease (s : State) : Host.Outcome State Fault Refusal := .next (wb R.WAV_JSTAT 0 true s)

end Sys2Proof.Machine
end

