-- ==== Sys2Proof/Machine/RegWrite.lean ====
section
/-! DEFINITION. Writes of registers: the register named decides what the write does (R15, R16, R99, R356, R392), and the
status it is answered with (R390). -/

namespace Sys2Proof.Machine

/-- What an access leaves: the state, the STATUS it draws (R390), and the register in a reserved bit of which it carried
1, if any (R14). -/
structure Bus where
  s : State
  stat : Nat := 0
  bad : Option Nat := none
  deriving DecidableEq, Repr

/-- The outcome of a command that made the access. -/
def outcomeOf (b : Bus) : Host.Outcome State Fault Refusal :=
  match b.bad with
  | some a => .fault (.reservedBit a)
  | none => .next (respond 0 b.stat b.s)

/-- Rank of a STATUS (R408): ERR, SEALED, POISON, OK. -/
def rankOf (st : Nat) : Nat :=
  match st with
  | 1 => 3
  | 3 => 2
  | 2 => 1
  | _ => 0

def worse (x y : Nat) : Nat := if rankOf x < rankOf y then y else x

/-! ### Single registers -/

def writeTil (o a : Nat) (v : Word) (s : State) : State :=
  if o = 0x8 then requestMode (fld v 0 4) s
  else if o = 0x28 then wdRestart s
  else if o = 0x38 then pairRep v s
  else codedWrite a v s

/-- POS_CTL (R79): FONOW, DECRST, REBASE. -/
def writePosCtl (v : Word) (s : State) : State :=
  let s := if bit v 0 then requestFailover s else s
  let s := if bit v 1 then returnDecoder s else s
  if bit v 2 then rebaseNow s else s

def writePos (o a : Nat) (v : Word) (s : State) : State :=
  if o = 0 then writePosCtl v s
  else
    match famOf 0x100 0x20 4 o, famOf 0x600 0x20 8 o with
    | some (n, 0xC), _ => writeGf n v s
    | _, some (k, 0) => writeRegCtl k v s
    | _, some (k, 0x14) => putReg k { regOf k s with target := sext 16 (fld v 0 16) } s
    | _, _ => codedWrite a v s

def writeCmp (o a : Nat) (v : Word) (s : State) : State :=
  if o = 0x18 then issueCommit false 16 (fld v 0 16) s
  else if o = 0x28 then setStreamWp v.toNat s
  else if o = 0x30 then (if bit v 0 then resetStream s else s)
  else codedWrite a v s

def writeNzl (o a : Nat) (v : Word) (s : State) : State :=
  if o = 0 then writeNzlCfg v s
  else if o = 0xC then applyUpd v s
  else if o = 0x18 then (if bit v 0 then issueCommit true 16 0 s else s)
  else codedWrite a v s

/-- A write of COD_BUD (R161). -/
def writeBud (v : Word) (s : State) : State :=
  let old := budWord s
  let s := codedWrite R.COD_BUD v s
  { s with lst := { s.lst with bud := (coreCycle s + 1, old) } }

def writeHlk (o a : Nat) (v : Word) (s : State) : State :=
  if o = 0x18 then requestSwitch (bit v 0) s
  else
    match famOf 0x100 0x20 8 o with
    | some (k, 8) => if bit v 0 then retrainPort k s else s
    | _ => codedWrite a v s

def writeWav (o a : Nat) (v : Word) (s : State) : State :=
  if o = 0x18 then (if bit v 0 then requestRealign s else s)
  else if 0x4000 ≤ o then waveWrite a v s
  else
    match famOf 0x100 0x10 64 o, famOf 0x800 0x40 32 o, famOf 0x1000 0x20 16 o with
    | some (_, e), _, _ => if e = 0 ∨ e = 4 then waveWrite a v s else codedWrite a v s
    | _, some (c, e), _ =>
      if e = 0x10 then writeGain c v s
      else if e < 0x10 ∨ e = 0x18 ∨ e = 0x1C then waveWrite a v s
      else codedWrite a v s
    | _, _, some (x, e) => if e = 0x10 then writeFactor x v s else codedWrite a v s
    | _, _, _ => codedWrite a v s

/-- SYN_CTL (R449): NEWEPOCH, ALIGN. -/
def writeSynCtl (v : Word) (s : State) : State :=
  let s := if bit v 0 then newEpoch s else s
  if bit v 1 then requestAlign s else s

def writeTile (o a : Nat) (v : Word) (s : State) : State :=
  match (a - 0x300000000) / 0x10000 with
  | 0 => writeTil o a v s
  | 1 => writePos o a v s
  | 2 => writeCmp o a v s
  | 3 => writeNzl o a v s
  | 5 => if a = R.COD_BUD then writeBud v s else codedWrite a v s
  | 7 => writeHlk o a v s
  | 8 => writeWav o a v s
  | 10 => if o = 8 then (if bit v 0 then retrainLink s else s) else codedWrite a v s
  | 13 => if o = 0x10 then writeSynCtl v s else codedWrite a v s
  | _ => codedWrite a v s

def writeEvc (rk cl o a : Nat) (v : Word) (s : State) : State :=
  if o = 0xC08 then pendSet rk cl false v s
  else if o = 0xC0C then pendSet rk cl true v s
  else if o = 0xC10 then pendClr rk cl false v s
  else if o = 0xC14 then pendClr rk cl true v s
  else if o = 0xC18 then maskSet rk cl false v s
  else if o = 0xC1C then maskSet rk cl true v s
  else if o = 0xC20 then maskClr rk cl false v s
  else if o = 0xC24 then maskClr rk cl true v s
  else if 0xC40 ≤ o ∧ o < 0xC80 then writeEvcCell cl ((o - 0xC40) / 4) v s
  else codedWrite a v s

def writeTmr (cl o a : Nat) (v : Word) (s : State) : State :=
  match famOf 0x1600 0x20 8 o, famOf 0x1700 0x40 4 o with
  | some (n, 4), _ => writeCnt cl n v s
  | some (n, 8), _ => writePer cl n v s
  | _, some (k, e) =>
    if e = 0 then dmaCtlWrite cl k v s
    else if e = 0x1C then s
    else if 8 ≤ e then dmaParamWrite cl k a v s
    else codedWrite a v s
  | _, _ => codedWrite a v s

/-- A write of TMR_SLRATIO (R367, R380): the loader's is the ratio in force until one is measured. -/
def writeRatio (w : Writer) (cl : Nat) (v : Word) (s : State) : State :=
  let s := codedWrite (R.TMR_SLRATIO cl) v s
  if w = .loader then { s with slowRatio := Sparse.set 0 s.slowRatio cl v.toNat } else s

def writeCluster (w : Writer) (cl o a : Nat) (v : Word) (s : State) : State :=
  if o < 0x1000 then writeEvc (writerRank w cl) cl o a v s
  else if o = 0x102C then issueCommit false cl (fld v 0 16) s
  else if o = 0x1400 then applyUpd v s
  else if o = 0x1414 then (if bit v 0 then issueCommit true cl 0 s else s)
  else if o = 0x1420 then codedWrite R.NZL_SQ_RP v s
  else if o = 0x15F0 then writeRatio w cl v s
  else if 0x1600 ≤ o ∧ o < 0x1800 then writeTmr cl o a v s
  else if o = 0x1920 then postCell w cl v s
  else if o = 0x1924 then postTrace w cl v s
  else
    match rowAt a with
    | some r => if r.ps then writeProof cl a v s else codedWrite a v s
    | none => s

/-- A 32-bit write of the register at `a`, no low or high register of a staged couple. -/
def writeOne (w : Writer) (a : Nat) (v : Word) (s : State) : State :=
  if a < 0x310000000 then writeTile (a % 0x10000) a v s
  else writeCluster w ((a - 0x310000000) / 0x10000) (a % 0x10000) a v s

/-! ### Couples (R356) -/

/-- The couple whose high register is `h` written in one core cycle: with no low value the low register keeps its own. -/
def commitCouple (h : Nat) (l : Option Nat) (v : Word) (s : State) : State :=
  match ixOf (R.POS_CMP_VH 0) 0x10 256 h with
  | some j => commitCompare j (sext 48 (l.getD (rd (h - 4) s).toNat + fld v 0 16 * 2 ^ 32)) s
  | none =>
    let put := fun (a : Nat) (v : Word) (s : State) =>
      match rowAt a with
      | some r => if r.ps then writeProof ((a - 0x310000000) / 0x10000) a v s else codedWrite a v s
      | none => s
    let s := match l with
      | some x => put (h - 4) (w32 x) s
      | none => s
    put h v s

/-! ### The register space -/

/-- Is the write at `a` a START that the DMA unit refuses (R372, R390)? -/
def startRefused (a : Nat) (v : Word) (s : State) : Bool :=
  if a < 0x310000000 then false
  else
    match famOf 0x1700 0x40 4 (a % 0x10000) with
    | some (k, 0) => dmaRefuses ((a - 0x310000000) / 0x10000) k v s
    | _ => false

/-- A 32-bit write of the register space at the aligned address `a` (R9, R11, R16, R392). The stage of a couple named by
an alias is taken once, at the high write, for every cluster. -/
def writeReg (w : Writer) (a : Nat) (v : Word) (s : State) : Bus :=
  match reached a s with
  | [] => { s := addressError a s }
  | b :: r =>
    match (b :: r).find? (fun x => reservedHit x v) with
    | some x => { s := s, bad := some x }
    | none =>
      let hit := (b :: r).any (fun x => sealedHit x v s)
      let refused := (b :: r).any (fun x => startRefused x v s)
      let s := if stagedLow b then stagePut w (a + 4) v.toNat s
        else if stagedLow (b - 4) then
          let (l, s) := stageTake w a s
          (b :: r).foldl (fun s x => commitCouple x l v s) s
        else (b :: r).foldl (fun s x => writeOne w x v s) s
      if refused then { s := s, stat := 1 } else if hit then { s := postEvent 2 0 0 0 a s, stat := 3 } else { s := s }

/-- One access that covers the low and the high register of a couple at `a` (R356): both are written, the stage stays. -/
def writeBoth (a : Nat) (lo hi : Word) (s : State) : Bus :=
  match (reached (a + 4) s).find? (fun x => reservedHit x hi) with
  | some x => { s := s, bad := some x }
  | none => { s := (reached (a + 4) s).foldl (fun s x => commitCouple x (some lo.toNat) hi s) s }

/-- Does the aligned 8-byte span at `a` cover a staged couple? -/
def coversCouple (a : Nat) (s : State) : Bool :=
  a % 8 == 0 && (match reached a s with
    | b :: _ => stagedLow b
    | [] => false)

/-- Words of a request to a register block, one access each, a couple as one (R408). -/
def writeWords (w : Writer) : (a : Nat) → List Word → Bus → Bus
  | _, [], b => b
  | a, [v], b =>
    let c := writeReg w a v b.s
    { c with stat := worse b.stat c.stat, bad := b.bad.orElse (fun _ => c.bad) }
  | a, v :: u :: r, b =>
    if coversCouple a b.s then
      let c := writeBoth a v u b.s
      writeWords w (a + 8) r { c with stat := worse b.stat c.stat, bad := b.bad.orElse (fun _ => c.bad) }
    else
      let c := writeReg w a v b.s
      writeWords w (a + 4) (u :: r) { c with stat := worse b.stat c.stat, bad := b.bad.orElse (fun _ => c.bad) }

/-- REGISTER_WRITE (R11, R12, R15): a write of the register space; at an unmapped address it is discarded with an address
error. An address in a memory names no register. -/
def execRegisterWrite (w : Writer) (a : BitVec 36) (v : Word) (s : State) : Host.Outcome State Fault Refusal :=
  let a := a.toNat
  if isRegPlace a = false ∧ placeOf a ≠ .nowhere then .next s
  else if reaches w a s then
    if a % 4 ≠ 0 ∧ isBlock a s then .next (respond 0 1 s) else outcomeOf (writeReg w a v s)
  else .next (turnedAway w s)

/-- RC_FIELD_READ (R15, R16): a read of a register with RC fields. -/
def execRcFieldRead (w : Writer) (a : BitVec 36) (s : State) : Host.Outcome State Fault Refusal :=
  let a := a.toNat
  if (reached a s).any (fun b => (rowAt b).any (fun r => r.rc != 0)) && hears w a s then
    let (v, s) := readReg w a s
    .next (respond v 0 s)
  else .next s

end Sys2Proof.Machine
end

