-- ==== Sys2Proof/Machine/IoPage.lean ====
section
/-! DEFINITION. The I/O page of a cell: what each word reaches (R13, R111, R142, R310, R338, R339, R380, R381, R424,
R465), reads and writes of its words (R355 to R357, R365), and the commands that name a register pair. -/

namespace Sys2Proof.Machine

/-- What a word of the I/O page reaches: half of a 32-bit register of the own cluster, or a word of the cell's own. -/
inductive IoWord
  | reg (a : Nat) (hi : Bool)
  | cx (w : Nat)
  deriving DecidableEq, Repr

/-- The register of the own cluster whose half lies at word `w` of a page block that begins at `w0` and shows the register
at offset `o0` first. -/
def ioReg (cl w0 o0 w : Nat) : IoWord :=
  let a := R.cluster cl + o0 + (w - w0) / 2 * 4
  if (rowAt a).isSome then .reg a ((w - w0) % 2 == 1) else .cx w

/-- The reach of word `w` in a cell of cluster `cl`. -/
def ioWord (cl w : Nat) : IoWord :=
  if 0xC200 ≤ w ∧ w < 0xC400 then ioReg cl 0xC200 0xC00 w
  else if 0xC400 ≤ w ∧ w < 0xC600 then ioReg cl 0xC400 0x1000 w
  else if 0xC600 ≤ w ∧ w < 0xC612 then ioReg cl 0xC600 0x1400 w
  else if 0xC700 ≤ w ∧ w < 0xC800 then ioReg cl 0xC700 0x1600 w
  else if 0xC800 ≤ w ∧ w < 0xC820 then ioReg cl 0xC800 0x1900 w
  else .cx w

/-! ### Words of the cell -/

/-- The bits that a word defines; the rest are reserved (R14). Words that no chapter assigns discard any write (R266). -/
def cxDefined (w c : Nat) : Nat :=
  if w = 0xC001 then 0xFF
  else if w = 0xC108 then 0x7
  else if w = 0xC140 ∨ w = 0xC141 ∨ w = 0xC144 ∨ w = 0xC145 ∨ w = 0xC176 then 0xFFF
  else if w = 0xC142 then 0xFF7F
  else if w = 0xC143 then 0xFF1F
  else if w = 0xC170 then 0x87FF
  else if (w = 0xC172 ∨ w = 0xC175) ∧ c = 7 then 0x3
  else
    match famOf 0xC120 8 4 w, famOf 0xC150 4 8 w with
    | some (_, 6), _ => 0xFF7F
    | _, some (_, 2) => 0xFF
    | _, _ => 0xFFFF

/-- Codes of the context states (R311). -/
def CtxState.code (x : CtxState) : Nat :=
  match x with
  | .stopped => 0
  | .ready => 1
  | .running => 2
  | .waiting => 3
  | .trapped => 4
  | .trapidle => 5

def ctxStates (cl m base : Nat) (s : State) : Half :=
  BitVec.ofNat 16 ((List.range 4).map (fun c => (theCtx cl m (base + c) s).state.code * 8 ^ c)).sum

/-- CX_SVC of the reading context (R338). -/
def svcWord (cl m c : Nat) (s : State) : Half :=
  match (theCtx cl m c s).svc with
  | some i => BitVec.ofNat 16 (i + 64 + prioOf cl m c s * 256)
  | none => BitVec.ofNat 16 (prioOf cl m c s * 256)

/-- CX_MROWN. -/
def mrownWord (x : Cell) : Half :=
  BitVec.ofNat 16 (x.owner.getD 0 + b2n x.live * 8 + b2n x.owner.isNone * 16 + x.valid * 256)

/-- CX_TRAPQ. -/
def trapqWord (cl m : Nat) (s : State) : Half :=
  BitVec.ofNat 16 (((List.range 8).map (fun c => b2n ((theCtx cl m c s).state == .trapped) * 2 ^ c)).sum
    + (cellOf cl m s).trapq.length * 256)

/-- A word of the event sets as the reading context sees it (R338): context 7 waits on none (R327) and has none. -/
def setWord (cl m c j : Nat) (s : State) : Half :=
  if c = 7 then 0 else setWordOf cl m c j s

/-- A counter of stalls, aborts, misses or pairs (R310). -/
def stallCount (w : Nat) (f : Fetch) : Nat :=
  match w with
  | 0xC104 => f.fstall
  | 0xC105 => f.bstall
  | 0xC106 => f.ustall
  | 0xC107 => f.abort
  | 0xC109 => f.icmiss
  | 0xC10A => f.brmiss
  | _ => f.pairs

/-- The counter at word `w` back at 0. -/
def stallClear (w : Nat) (f : Fetch) : Fetch :=
  match w with
  | 0xC104 => { f with fstall := 0 }
  | 0xC105 => { f with bstall := 0 }
  | 0xC106 => { f with ustall := 0 }
  | 0xC107 => { f with abort := 0 }
  | 0xC109 => { f with icmiss := 0 }
  | 0xC10A => { f with brmiss := 0 }
  | _ => { f with pairs := 0 }

/-- Is `w` one of those words? -/
def isStall (w : Nat) : Bool := decide ((0xC104 ≤ w ∧ w < 0xC108) ∨ (0xC109 ≤ w ∧ w < 0xC10C))

/-- The value of a word of the cell. -/
def cxView (cl m c w : Nat) (s : State) : Half :=
  let x := cellOf cl m s
  if w = 0xC000 then BitVec.ofNat 16 (winBase cl m c s)
  else if w = 0xC001 then BitVec.ofNat 16 (winBase cl m c s / 65536)
  else if w = 0xC100 then BitVec.ofNat 16 (fld (rd R.STA_MCVER s) 0 16)
  else if w = 0xC102 then BitVec.ofNat 16 (coreCycle s - s.gated)
  else if w = 0xC103 then BitVec.ofNat 16 ((coreCycle s - s.gated) / 65536)
  else if isStall w then BitVec.ofNat 16 (stallCount w x.fetch)
  else if w = 0xC108 then BitVec.ofNat 16 x.sbuf.length
  else if w = 0xC140 then ctxStates cl m 0 s
  else if w = 0xC141 then ctxStates cl m 4 s
  else if w = 0xC142 then svcWord cl m c s
  else if w = 0xC143 then mrownWord x
  else if w = 0xC144 then BitVec.ofNat 16 (x.dirty % 4096)
  else if w = 0xC145 then BitVec.ofNat 16 (x.dirty / 4096 % 4096)
  else if w = 0xC146 then BitVec.ofNat 16 x.mrsave
  else if w = 0xC147 then BitVec.ofNat 16 x.switches
  else if w = 0xC170 then x.trapcode
  else if w = 0xC171 then x.trappc
  else if w = 0xC172 then x.trapsl
  else if w = 0xC173 then x.trapadr
  else if w = 0xC174 then x.trapst
  else if w = 0xC175 then x.trapact
  else if w = 0xC176 then trapqWord cl m s
  else if 0xC180 ≤ w ∧ w < 0xC1E0 then setWord cl m c ((w - 0xC180) % 32) s
  else
    match famOf 0xC120 8 4 w, famOf 0xC150 4 8 w with
    | some (k, 6), _ => pairStat cl k s
    | some (k, e), _ =>
      if e = 2 ∨ e = 4 then BitVec.ofNat 16 (fld (pairIn cl k (e == 4) s) 0 16)
      else if e = 3 ∨ e = 5 then BitVec.ofNat 16 (fld (pairIn cl k (e == 5) s) 16 16)
      else 0
    | _, some (j, e) =>
      let v := Sparse.get 0 x.save j
      if e = 0 then mrl v else if e = 1 then mrh v else if e = 2 then BitVec.ofNat 16 (v.toNat / 2 ^ 32) else 0
    | _, _ => 0

/-- A read of a word of the cell by its context c: RC words clear, low words latch their high words, high words take the
latch, and the high words of the pair port free their value (R310, R338, R357, R465). -/
def cxRead (cl m : Fin 16) (c : Fin 8) (w : Nat) (s : State) : Half × State :=
  let v := cxView cl m c w s
  let s := { s with fresh := s.fresh + 1 }
  let wr := Writer.ctx cl m c
  if w = 0xC000 ∨ w = 0xC102 then (v, latchPut wr [(ioWordKey (w + 1), (cxView cl m c (w + 1) s).toNat)] s)
  else if w = 0xC001 ∨ w = 0xC103 then
    let (l, s) := latchTake wr (ioWordKey w) s
    (match l with
      | some h => BitVec.ofNat 16 h
      | none => v, s)
  else if isStall w then (v, onFetch cl m (stallClear w) s)
  else if w = 0xC146 then (v, onCell cl m (fun x => { x with mrsave := 0 }) s)
  else if w = 0xC147 then (v, onCell cl m (fun x => { x with switches := 0 }) s)
  else
    match famOf 0xC120 8 4 w with
    | some (k, e) =>
      if e = 2 ∨ e = 4 then pairInLow wr cl k (e == 4) s
      else if e = 3 ∨ e = 5 then pairInHigh wr cl k (e == 5) s
      else (v, s)
    | none => (v, s)

/-- A word of an event set of context c changes (R338): RW, set and clear address. -/
def setWrite (cl m c w : Nat) (v : Half) (s : State) : State :=
  if c = 7 then s
  else
    let j := (w - 0xC180) % 32
    let old := setWordOf cl m c j s
    let new := if w < 0xC1A0 then v else if w < 0xC1C0 then old ||| v else old &&& ~~~v
    onCtx cl m c (fun k => { k with sets := Sparse.insert (Sparse.erase k.sets j) j new }) s

/-- CX_WINBASE of context c written: both halves, or the high one alone (R352, R356, R381). -/
def winWrite (cl m c : Nat) (l : Option Nat) (v : Half) (s : State) : State :=
  let lo := l.getD (winBase cl m c s % 65536)
  onCtx cl m c (fun k => { k with winbase := some (lo + v.toNat % 256 * 65536) }) s

/-- A write of a word of the cell by its context c. -/
def cxWrite (cl m : Fin 16) (c : Fin 8) (w : Nat) (v : Half) (s : State) : State :=
  let wr := Writer.ctx cl m c
  if w = 0xC000 then stagePut wr (ioWordKey 0xC001) v.toNat s
  else if w = 0xC001 then
    let (l, s) := stageTake wr (ioWordKey 0xC001) s
    winWrite cl m c l v s
  else if w = 0xC144 then
    onCell cl m (fun x => { x with dirty := x.dirty - Nat.land x.dirty (v.toNat % 4096) }) s
  else if w = 0xC145 then
    onCell cl m (fun x => { x with dirty := x.dirty - Nat.land x.dirty (v.toNat % 4096 * 4096) }) s
  else if w = 0xC171 ∧ c = 7 then onCell cl m (fun x => { x with trappc := v }) s
  else if w = 0xC172 ∧ c = 7 then onCell cl m (fun x => { x with trapsl := v }) s
  else if w = 0xC175 ∧ c = 7 then onCell cl m (fun x => { x with trapact := v }) s
  else if 0xC180 ≤ w ∧ w < 0xC1E0 then setWrite cl m c w v s
  else
    match famOf 0xC120 8 4 w with
    | some (k, e) =>
      if e = 0 then stagePut wr (ioWordKey (w + 1)) v.toNat s
      else if e = 1 then pairOutHigh wr cl k v s
      else if e = 6 then pairStatWrite cl k v s
      else if e = 7 then pairRepWord cl k v s
      else s
    | none => s

/-! ### Halves of registers -/

/-- The timer whose CAP lies at `a`. -/
def capTimer (cl a : Nat) : Option Nat := ixOf (R.TMR_CAP cl 0) 0x20 8 a

/-- A read of the low word of the register at `a` (R357, R365): RC fields clear, the high word is latched; of a couple's
low register its high register too. -/
def ioReadLow (w : Writer) (cl a : Nat) (s : State) : Half × State :=
  let (v, s) := readAt w a a s
  let s := match capTimer cl a with
    | some n => openCap cl n s
    | none => s
  let rest := if latchedBy a = [] then [] else Sparse.get [] s.latches (Writer.key w)
  (BitVec.ofNat 16 (fld v 0 16), latchPut w ((ioHigh a, fld v 16 16) :: rest) s)

/-- A read of its high word: the latched value, or with the latch free the current one, whose RC fields then clear. -/
def ioReadHigh (w : Writer) (cl a : Nat) (s : State) : Half × State :=
  let v := beforeEvents a (view a s) s
  let (l, s) := latchTake w (ioHigh a) { s with fresh := s.fresh + 4 }
  let s := match capTimer cl a with
    | some n => closeCap cl n s
    | none => s
  match l with
  | some h => (BitVec.ofNat 16 h, s)
  | none => (BitVec.ofNat 16 (fld v 16 16), clearRc a 0xFFFF0000 s)

/-- The low word that a write of the high word alone leaves: the value held, 0 in W1S, W1C and WO fields (R356). -/
def lowKept (a : Nat) (s : State) : Nat :=
  match rowAt a with
  | some r =>
    let v := if r.ps then proofOf a s else view a s
    fld (v &&& BitVec.ofNat 32 (r.rw ||| r.sl)) 0 16
  | none => 0

/-- A write of the high word of the register at `a` (R356). -/
def ioWriteHigh (w : Writer) (a : Nat) (v : Half) (s : State) : Bus :=
  let (l, s) := stageTake w (ioHigh a) s
  writeReg w a (BitVec.ofNat 32 (l.getD (lowKept a s) + v.toNat * 65536)) s

/-! ### Words of the I/O page -/

/-- A read of word `w` by context c of cell m. -/
def ioRead (cl m : Fin 16) (c : Fin 8) (w : Nat) (s : State) : Half × State :=
  match ioWord cl w with
  | .reg a false => ioReadLow (.ctx cl m c) cl a s
  | .reg a true => ioReadHigh (.ctx cl m c) cl a s
  | .cx w => cxRead cl m c w s

/-- A write of word `w` by context c of cell m. -/
def ioWrite (cl m : Fin 16) (c : Fin 8) (w : Nat) (v : Half) (s : State) : Bus :=
  match ioWord cl w with
  | .reg a false => { s := stagePut (.ctx cl m c) (ioHigh a) v.toNat s }
  | .reg a true => ioWriteHigh (.ctx cl m c) a v s
  | .cx w =>
    if v.toNat ≠ Nat.land v.toNat (cxDefined w c) then { s := s, bad := some w }
    else { s := cxWrite cl m c w v s }

/-- One access that covers the words `w`, even, and `w` + 1 (R267, R356, R357): a register whole, leaving stage and latch of
its words; a pair of the cell's own likewise; two words of their own otherwise. -/
def ioRead2 (cl m : Fin 16) (c : Fin 8) (w : Nat) (s : State) : (Half × Half) × State :=
  match ioWord cl w with
  | .reg a _ =>
    let (v, s) := readAt (.ctx cl m c) a a s
    ((BitVec.ofNat 16 (fld v 0 16), BitVec.ofNat 16 (fld v 16 16)), s)
  | .cx _ =>
    let v := (cxView cl m c w s, cxView cl m c (w + 1) s)
    if w = 0xC000 ∨ w = 0xC102 then (v, s)
    else
      match famOf 0xC120 8 4 w with
      | some (k, e) =>
        if e = 2 ∨ e = 4 then (v, pairClear cl k (e == 4) s)
        else (v, s)
      | none =>
        let (lo, s) := cxRead cl m c w s
        let (hi, s) := cxRead cl m c (w + 1) s
        ((lo, hi), s)

def ioWrite2 (cl m : Fin 16) (c : Fin 8) (w : Nat) (lo hi : Half) (s : State) : Bus :=
  match ioWord cl w with
  | .reg a _ =>
    writeReg (.ctx cl m c) a (BitVec.ofNat 32 (lo.toNat + hi.toNat * 65536)) s
  | .cx _ =>
    if w = 0xC000 then
      if hi.toNat < 256 then { s := winWrite cl m c (some lo.toNat) hi s } else { s := s, bad := some 0xC001 }
    else
      match famOf 0xC120 8 4 w with
      | some (k, 0) => { s := pairSendValue cl k (BitVec.ofNat 32 (lo.toNat + hi.toNat * 65536)) s }
      | _ =>
        let b := ioWrite cl m c w lo s
        let d := ioWrite cl m c (w + 1) hi b.s
        { d with bad := b.bad.orElse (fun _ => d.bad) }

/-! ### Commands that name a pair (R355 to R357) -/

/-- Is word `w` the low word of a pair of the cell's own words? -/
def cxPairLow (w : Nat) : Bool :=
  w == 0xC000 || w == 0xC102
  || (match famOf 0xC120 8 4 w with
      | some (_, e) => e == 0 || e == 2 || e == 4
      | none => false)

/-- Does `w` name a pair of the I/O page of cluster `cl` by its low word? -/
def ioPair (cl w : Nat) : Bool :=
  w % 2 == 0 && (match ioWord cl w with
    | .reg _ _ => true
    | .cx w => cxPairLow w)

/-- Does the fabric address name a couple by its low register? -/
def fabPair (a : Nat) (s : State) : Bool :=
  a % 4 == 0 && (match reached a s with
    | b :: _ => stagedLow b
    | [] => false)

/-- PAIR_LOW_WRITE (R356): staged; the register does not change. -/
def execPairLowWrite (w : Writer) (p : PairAddr) (v : Word) (s : State) : Host.Outcome State Fault Refusal :=
  match p, w with
  | .fab a, w =>
    if fabPair a.toNat s then
      if reaches w a.toNat s then outcomeOf (writeReg w a.toNat v s) else .next (turnedAway w s)
    else .next s
  | .io a, .ctx cl m c =>
    if ioPair cl a.toNat && mayOut cl m s then outcomeOf (ioWrite cl m c a.toNat (v.setWidth 16) s) else .next s
  | .io _, _ => .next s

/-- PAIR_HIGH_WRITE (R356): commits the pair where the stage holds it. -/
def execPairHighWrite (w : Writer) (p : PairAddr) (v : Word) (s : State) : Host.Outcome State Fault Refusal :=
  match p, w with
  | .fab a, w =>
    if fabPair a.toNat s then
      if reaches w a.toNat s then outcomeOf (writeReg w (a.toNat + 4) v s) else .next (turnedAway w s)
    else .next s
  | .io a, .ctx cl m c =>
    if ioPair cl a.toNat && mayOut cl m s then outcomeOf (ioWrite cl m c (a.toNat + 1) (v.setWidth 16) s) else .next s
  | .io _, _ => .next s

/-- PAIR_LOW_READ (R357): the value in effect, the high value latched. -/
def execPairLowRead (w : Writer) (p : PairAddr) (s : State) : Host.Outcome State Fault Refusal :=
  match p, w with
  | .fab a, w =>
    if fabPair a.toNat s && hears w a.toNat s then
      let (v, s) := readReg w a.toNat s
      .next (respond v 0 s)
    else .next s
  | .io a, .ctx cl m c =>
    if ioPair cl a.toNat && cellsIssue s then
      let (v, s) := ioRead cl m c a.toNat s
      .next (respond (v.setWidth 32) 0 s)
    else .next s
  | .io _, _ => .next s

/-- PAIR_HIGH_READ (R357): the latched value, which the read frees, or the current one. -/
def execPairHighRead (w : Writer) (p : PairAddr) (s : State) : Host.Outcome State Fault Refusal :=
  match p, w with
  | .fab a, w =>
    if fabPair a.toNat s && hears w a.toNat s then
      let (v, s) := readReg w (a.toNat + 4) s
      .next (respond v 0 s)
    else .next s
  | .io a, .ctx cl m c =>
    if ioPair cl a.toNat && cellsIssue s then
      let (v, s) := ioRead cl m c (a.toNat + 1) s
      .next (respond (v.setWidth 32) 0 s)
    else .next s
  | .io _, _ => .next s

end Sys2Proof.Machine
end

