-- ==== Sys2Proof/Machine/Access.lean ====
section
/-! DEFINITION. Accesses over the fabric to memory (R7, R11, R12, R343, R348, R386, R390): what a read returns with its
STATUS, what a write does. A 64-byte block is one destination (R389). -/

namespace Sys2Proof.Machine

/-- The 64-byte blocks, or parts of them, that `n` bytes at `a` cover: address and length of each. -/
def spans (a n : Nat) : List (Nat × Nat) :=
  (List.range ((a % 64 + n + 63) / 64)).map (fun i =>
    let lo := max a (a / 64 * 64 + 64 * i)
    (lo, min (a + n) (a / 64 * 64 + 64 * i + 64) - lo))

/-- What a read of the uncorrectable word at `w` raises, memory by memory (R175, R348, R382, R386). -/
def ueRead (w : Nat) (s : State) : State :=
  match placeOf w with
  | .lineStore => lineStoreUe w s
  | .tileStore => tileUe s
  | .pantry cl => pantryUe cl w s
  | .localRam cl m => localUe cl m (w % 0x10000 / 2) s
  | _ => s

/-- What a corrected read of the word at `w` counts: pantry, local RAM and tile store (R348, R382, R386); of the line store
the scrubber's corrections alone count (log entry 116). -/
def ceRead (w : Nat) (s : State) : State :=
  match placeOf w with
  | .tileStore => tileCe s
  | .pantry cl => pantryCe cl s
  | .localRam cl _ => localCe cl s
  | _ => s

/-- The words in error that `n` bytes at `a` touch. -/
def uesIn (a n : Nat) (s : State) : List Nat := s.ue.filter (fun w => decide (w < a + n ∧ a < w + eccSize w))

/-- What a read of memory brings: bytes, STATUS, state. -/
structure Got where
  bytes : List Byte
  stat : Nat
  s : State
  deriving DecidableEq, Repr

/-- Is the line store without power or under the clear of its wake (R460, R461)? -/
def storeOff (s : State) : Bool := s.mode == .sleep

/-- A read of memory words: bytes and STATUS; every corrected and every uncorrectable word it meets is reported. -/
def readWordsAt (a n : Nat) (s : State) : Got :=
  let bad := uesIn a n s
  { bytes := readBytes a n s, stat := if bad = [] then 0 else 2
    s := (cesIn a n s).foldl (fun s w => ceRead w s) (bad.foldl (fun s w => ueRead w s) s) }

/-- A read within one block: no memory there reads zeros with an address error (R11), a register block refuses (R12), and
so does the line store in SLEEP (R460). -/
def readSpan (a n : Nat) (s : State) : Got :=
  match placeOf a with
  | .lineStore =>
    if storeOff s then { bytes := List.replicate n 0, stat := 1, s := s } else readWordsAt a n s
  | .nowhere => { bytes := List.replicate n 0, stat := 0, s := addressError a s }
  | .tileReg => { bytes := List.replicate n 0, stat := if isBlock a s then 1 else 0, s := if isBlock a s then s else addressError a s }
  | .clusterReg _ =>
    { bytes := List.replicate n 0, stat := if isBlock a s then 1 else 0, s := if isBlock a s then s else addressError a s }
  | _ => readWordsAt a n s

/-- A read of memory. -/
def memRead (a n : Nat) (s : State) : Got :=
  (spans a n).foldl (fun g p =>
    let h := readSpan p.1 p.2 g.s
    { bytes := g.bytes ++ h.bytes, stat := worse g.stat h.stat, s := h.s }) { bytes := [], stat := 0, s := s }

/-- A write within one block. -/
def writeSpan (a : Nat) (l : List Byte) (s : State) : State × Nat :=
  match placeOf a with
  | .lineStore => if storeOff s then (s, 1) else (writeBytes a l s, 0)
  | .nowhere => (addressError a s, 0)
  | .tileReg => if isBlock a s then (s, 1) else (addressError a s, 0)
  | .clusterReg _ => if isBlock a s then (s, 1) else (addressError a s, 0)
  | _ => (writeBytes a l s, 0)

/-- A write of memory, and its STATUS. -/
def memWrite (a : Nat) (l : List Byte) (s : State) : State × Nat :=
  (spans a l.length).foldl (fun r p =>
    let (s, st) := writeSpan p.1 (slice l (p.1 - a) p.2) r.1
    (s, worse r.2 st)) (s, 0)

/-- A read of any place by `w`: an aligned 32-bit access of a register block reads its register (R12). -/
def fabRead (w : Writer) (a n : Nat) (s : State) : Got :=
  if isBlock a s ∧ a % 4 = 0 ∧ n = 4 then
    let (v, s) := readReg w a s
    { bytes := leBytes 4 v.toNat, stat := 0, s := s }
  else memRead a n s

/-- A write of any place by `w`. -/
def fabWrite (w : Writer) (a : Nat) (l : List Byte) (s : State) : Bus :=
  if isBlock a s ∧ a % 4 = 0 ∧ l.length = 4 then writeReg w a (BitVec.ofNat 32 (leNat l)) s
  else
    let (s, st) := memWrite a l s
    { s := s, stat := st }

end Sys2Proof.Machine
end

