-- ==== Sys2Proof/Machine/Dma.lean ====
section
/-! DEFINITION. The DMA engine of a cluster (R372 to R378): addresses, accesses, units, and how a channel ends. The
accesses of a unit run in the core cycles that pass, as RATE lets them (R377); a command that reports the unit's end runs
what is left of it (log entry 62). -/

namespace Sys2Proof.Machine

/-! ### Addresses (R373) -/

/-- One side of a channel. -/
structure Side where
  base : Nat
  llen : Nat
  lcnt : Nat
  stride : Int
  deriving DecidableEq, Repr

def srcSide (cl k : Nat) (s : State) : Side :=
  { base := (rd (R.DMA_SRCL cl k) s).toNat + rf (R.DMA_SRCH cl k) 0 4 s * 2 ^ 32
    llen := rf (R.DMA_SSHAPE cl k) 0 16 s
    lcnt := rf (R.DMA_SSHAPE cl k) 16 16 s
    stride := sext 32 (rd (R.DMA_SSTRIDE cl k) s).toNat }

def dstSide (cl k : Nat) (s : State) : Side :=
  { base := (rd (R.DMA_DSTL cl k) s).toNat + rf (R.DMA_DSTH cl k) 0 4 s * 2 ^ 32
    llen := rf (R.DMA_DSHAPE cl k) 0 16 s
    lcnt := rf (R.DMA_DSHAPE cl k) 16 16 s
    stride := sext 32 (rd (R.DMA_DSTRIDE cl k) s).toNat }

/-- Address of byte `k` on one side. -/
def Side.addr (x : Side) (k : Nat) : Nat :=
  if x.llen = 0 then (x.base + k) % 2 ^ 36
  else
    let l := k / x.llen
    let l := if x.lcnt = 0 then l else l % x.lcnt
    low 36 ((x.base : Int) + l * x.stride + (k % x.llen : Nat))

/-- Bytes from `k` to the line end on one side, `n` where it has no lines. -/
def Side.room (x : Side) (k n : Nat) : Nat := if x.llen = 0 then n else min n (x.llen - k % x.llen)

/-- Length of the access at byte `k` with `n` bytes left (R374): at most 64, within a 64-byte block and a line of both
sides, 4 where a side is a register block. -/
def accessLen (x y : Side) (k n : Nat) (s : State) : Nat :=
  let a := x.addr k
  let b := y.addr k
  let m := min (min (x.room k n) (y.room k n)) (min (64 - a % 64) (64 - b % 64))
  if isBlock a s || isBlock b s then min m 4 else m

/-! ### Units (R374, R375) -/

/-- Where a byte that the transfer itself has overwritten is read, the copy carries either value (R374). -/
def eitherBytes (k : Nat) (olds : Tab (Option Byte)) (fresh : Nat) : (a : Nat) → List Byte → List Byte
  | _, [] => []
  | a, x :: r =>
    (match Sparse.get none olds (k * 2 ^ 36 + a) with
      | some o => if Config.freeBool (fresh + r.length) then o else x
      | none => x) :: eitherBytes k olds fresh (a + 1) r

/-- The bytes about to be overwritten are kept as they were, where they are not kept already. -/
def keepOlds (k : Nat) (s : State) : (a : Nat) → List Byte → Tab (Option Byte) → Tab (Option Byte)
  | _, [], l => l
  | a, _ :: r, l =>
    let i := k * 2 ^ 36 + a
    keepOlds k s (a + 1) r (if (Sparse.get none l i).isSome then l else Sparse.set none l i (some (mb a s)))

/-- What an access leaves: the state, and the register in a reserved bit of which it wrote 1, if any. -/
structure Ran where
  s : State
  bad : Option Nat := none
  deriving DecidableEq, Repr

/-- BURST in bytes (R380). -/
def burstBytes (cl k : Nat) (s : State) : Nat :=
  let b := rf (R.DMA_CTL cl k) 16 12 s
  2 * (if b = 0 ∨ 2048 < b then 2048 else b)

def reqsrc (cl k : Nat) (s : State) : Nat := rf (R.DMA_CTL cl k) 3 5 s

/-- Has channel `k` a unit ready (R375, R376)? -/
def dmaReady (cl k : Nat) (s : State) : Bool :=
  let r := reqsrc cl k s
  dmaBusy cl k s
    && (if r = 0 then true else if r ≤ 8 then rb (R.DMA_STAT cl k) 2 s else (evOf (r - 9) s).level)

/-- Core cycles from one access of the channel, a read and its write, to the next: two accesses of the RATE in 64 core
cycles (R377, R380). -/
def accessGap (cl k : Nat) (s : State) : Nat :=
  let r := rf (R.DMA_CTL cl k) 8 7 s
  ceilDiv 128 (if r = 0 ∨ 64 < r then 64 else r)

/-- The unit of channel `k` begins. -/
def unitBegin (cl k : Nat) (s : State) : State :=
  let s := wb (R.DMA_STAT cl k) 2 false (wb (R.DMA_STAT cl k) 1 true s)
  let left := (rd (R.DMA_REMAIN cl k) s).toNat
  putDma cl { unit := some k, left := if reqsrc cl k s = 0 then left else min left (burstBytes cl k s)
              wait := accessGap cl k s, olds := (dmaOf cl s).olds } s

/-- Does the fabric carry the next access of channel `k` (R400)? -/
def unitCarried (cl k : Nat) (s : State) : Bool :=
  let at_ := (rd (R.DMA_COUNT cl k) s).toNat - (rd (R.DMA_REMAIN cl k) s).toNat
  let w := Writer.dma (Fin.ofNat 16 cl) (Fin.ofNat 4 k)
  carried w ((srcSide cl k s).addr at_) s && carried w ((dstSide cl k s).addr at_) s

/-- Has the engine accesses of its unit still to make? One that the fabric does not carry never ends. -/
def unitGoes (cl : Nat) (s : State) : Bool :=
  match (dmaOf cl s).unit with
  | some k => (dmaOf cl s).met == .none_ && unitCarried cl k s
  | none => false

/-- The next access of the unit (R373, R374, R378): a read, the write of what it brought, and how the unit ends with it. -/
def unitAccess (cl : Fin 16) (s : State) : Ran :=
  let x := dmaOf cl s
  match x.unit with
  | none => { s := s }
  | some k =>
    let remain := (rd (R.DMA_REMAIN cl k) s).toNat
    let at_ := (rd (R.DMA_COUNT cl k) s).toNat - remain
    let src := srcSide cl k s
    let dst := dstSide cl k s
    let len := accessLen src dst at_ x.left s
    let a := src.addr at_
    let d := dst.addr at_
    let ends := fun (m : DmaMet) (s : State) => putDma cl { dmaOf cl s with met := m } s
    let g := fabRead (.dma cl (Fin.ofNat 4 k)) a len s
    if g.stat = 1 ∨ g.stat = 2 then { s := ends (.err g.stat) g.s }
    else
      let bytes := if isRegPlace a then g.bytes else eitherBytes k x.olds g.s.fresh a g.bytes
      let olds := if isRegPlace d then x.olds else keepOlds k g.s d bytes x.olds
      let b := fabWrite (.dma cl (Fin.ofNat 4 k)) d bytes { g.s with fresh := g.s.fresh + 64 }
      if b.bad.isSome then { s := s, bad := b.bad }
      else if b.stat = 1 then { s := ends (.err 1) b.s }
      else
        let s := wr (R.DMA_REMAIN cl k) (w32 (remain - len)) b.s
        let s := putDma cl { dmaOf cl s with left := x.left - len, wait := accessGap cl k s, olds := olds } s
        { s := if x.left ≤ len then ends (if remain ≤ len then .done else .burst) s else s }

/-- The rest of the unit. -/
def unitRest (cl : Fin 16) : (fuel : Nat) → State → Ran
  | 0, s => { s := s }
  | f + 1, s =>
    if unitGoes cl s then
      let r := unitAccess cl s
      if r.bad.isSome then r else unitRest cl f r.s
    else { s := s }

/-- A command that reports the unit's end finds what is left of it done. -/
def unitDone (cl : Fin 16) (s : State) : Ran := unitRest cl ((dmaOf cl s).left + 1) s

/-- A core cycle of the engine of cluster `cl`: an access where RATE lets it. An access that carries 1 in a reserved bit,
which the spec leaves open (R14), is left to the command that reports the unit's end. -/
def dmaCycle (cl : Fin 16) (s : State) : State :=
  if unitGoes cl s then
    let x := dmaOf cl s
    if 1 < x.wait then putDma cl { x with wait := x.wait - 1 } s
    else
      let r := unitAccess cl s
      if r.bad.isSome then s else r.s
  else s

/-- A core cycle of every DMA engine. -/
def dmaCore (s : State) : State :=
  if ctlRuns s then s.dma.foldl (fun s e => dmaCycle (Fin.ofNat 16 e.1) s) s else s

/-- DMA_UNIT_START (R375, R376). -/
def execDmaUnitStart (cl : Fin 16) (s : State) : Host.Outcome State Fault Refusal :=
  if (dmaOf cl s).unit = none && ctlRuns s then
    match (List.range 4).find? (fun k => dmaReady cl k s) with
    | some k => .next (unitBegin cl k s)
    | none => .next s
  else .next s

/-- The outcome of a command that reports the unit's end: it finds the unit at that end, or nothing of the kind has
happened. -/
def unitEnd (cl : Fin 16) (k : Nat) (s : State) (f : DmaMet → State → Option State) : Host.Outcome State Fault Refusal :=
  if (dmaOf cl s).unit = some k && ctlRuns s then
    let r := unitDone cl s
    match r.bad with
    | some a => .fault (.reservedBit a)
    | none =>
      match f (dmaOf cl r.s).met r.s with
      | some t => .next t
      | none => .next s
  else .next s

/-- DMA_BURST_END (R375): RUN clears; the engine chooses its next unit. -/
def execDmaBurstEnd (cl : Fin 16) (s : State) : Host.Outcome State Fault Refusal :=
  let k := (dmaOf cl s).unit.getD 0
  unitEnd cl k s (fun m t => if m = .burst then some (dmaRelease cl k t) else none)

/-- DMA_COMPLETE (R378). -/
def execDmaComplete (cl : Fin 16) (k : Fin 4) (s : State) : Host.Outcome State Fault Refusal :=
  unitEnd cl k s (fun m t => if m = .done then some (dmaEnd cl k 3 t) else none)

/-- DMA_ERROR (R378): ERR and ECODE, BUSY clears, source 16 + k always. -/
def execDmaError (cl : Fin 16) (k : Fin 4) (s : State) : Host.Outcome State Fault Refusal :=
  unitEnd cl k s (fun m t =>
    match m with
    | .err code => some (assertSource cl (16 + k) (dmaForget cl k (dmaRelease cl k (wb (R.DMA_STAT cl k) 0 false (dmaErr cl k code t)))))
    | _ => none)

end Sys2Proof.Machine
end

