-- ==== Sys2Proof/Machine/Fabric.lean ====
section
/-! DEFINITION. Faults in the tile fabric (R399): uncorrectable flits and failed lanes, crossbar mismatches, self-tests and
fences. Slots, queues, routes and grants are timing, which is left out (log entry 11). -/

namespace Sys2Proof.Machine

/-- Core cycles within which faults count together. -/
def faultWindow : Nat := 1048576

/-- A bit of FAB_STAT with its alarm (R425: type 62) and FAB_FAULT. -/
def fabricFault (i node port lane code : Nat) (s : State) : State :=
  s |> wr R.FAB_FAULT (w32 (node + port * 32 + lane * 256))
    |> alarmBit R.FAB_STAT i 62 { idx := node, unit := port, code := code }

/-- HOP_REPLAY (R399): an uncorrectable flit on a lane is sent again; the fourth within 2^20 core cycles fails the lane. -/
def execHopReplay (node : Fin 20) (port : Fin 5) (lane : Fin 4) (s : State) : Host.Outcome State Fault Refusal :=
  let l := (node.val, port.val, lane.val)
  if s.fab.lanes.contains l || s.mode == .cold then .next s
  else
    let now := coreCycle s
    let errs := (l, now) :: s.fab.flitErrs.filter (fun e => decide (now < e.2 + faultWindow))
    if (errs.filter (fun e => e.1 == l)).length < 4 then .next { s with fab := { s.fab with flitErrs := errs } }
    else
      .next (redLost 6 (fabricFault 0 node port lane 1
        { s with fab := { s.fab with flitErrs := errs.filter (fun e => e.1 != l), lanes := l :: s.fab.lanes } }))

/-- The output port and lane that FAB_FAULT and the alarm give for a crossbar fault: the rule names a node only, so they are
free. -/
def faultPort (s : State) : Nat := Config.freeNat s.fresh % 5
def faultLane (s : State) : Nat := Config.freeNat (s.fresh + 1) % 4

/-- A crossbar fault of a node. -/
def crossbarFault (i node code : Nat) (s : State) : State :=
  fabricFault i node (faultPort s) (faultLane s) code { s with fresh := s.fresh + 2 }

/-- No crossbar of the node is left: NOXB forces SAFE (R400, R456). -/
def noCrossbar (node : Nat) (s : State) : State :=
  forceSafe 0xD (wb R.TIL_FORCE 5 true (redLost 7 (crossbarFault 3 node 4
    { s with fab := { s.fab with testing := s.fab.testing.filter (fun x => x != node)
                                 copies := Sparse.set 2 s.fab.copies node 0 } })))

/-- CROSSBAR_MISMATCH (R399): a second mismatch within 2^20 core cycles starts the self-test; one within 2^20 core cycles
after a self-test that both crossbars passed counts as both failing, as R107 has it of a lane (log entry 79: DEDUCED). A node
on one crossbar compares nothing. -/
def execCrossbarMismatch (node : Fin 20) (s : State) : Host.Outcome State Fault Refusal :=
  if Sparse.get 2 s.fab.copies node.val = 2 && !s.fab.testing.contains node.val && s.mode != .cold then
    let now := coreCycle s
    let last := Sparse.get 0 s.fab.lastMis node.val
    let tested := Sparse.get 0 s.fab.passed node.val
    let s := crossbarFault 1 node 2 s
    if tested ≠ 0 ∧ now < tested - 1 + faultWindow then .next (noCrossbar node s)
    else if last ≠ 0 ∧ now < last - 1 + faultWindow then
      .next { s with fab := { s.fab with testing := node.val :: s.fab.testing
                                         lastMis := Sparse.set 0 s.fab.lastMis node.val 0 } }
    else .next { s with fab := { s.fab with lastMis := Sparse.set 0 s.fab.lastMis node.val (now + 1) } }
  else .next s

/-- CROSSBAR_SELF_TEST_END (R399, with the outcomes of R107): both pass, and the node goes on in lockstep; one fails and is fenced; both fail, NOXB forces SAFE (R456). -/
def execCrossbarSelfTestEnd (node : Fin 20) (pass0 pass1 : Bool) (s : State) : Host.Outcome State Fault Refusal :=
  if s.fab.testing.contains node.val then
    let n := b2n pass0 + b2n pass1
    let s := { s with fab := { s.fab with
      testing := s.fab.testing.filter (fun x => x != node.val)
      copies := Sparse.set 2 s.fab.copies node.val n } }
    match n with
    | 2 => .next { s with fab := { s.fab with passed := Sparse.set 0 s.fab.passed node.val (coreCycle s + 1) } }
    | 1 => .next (redLost 7 (crossbarFault 2 node 3 s))
    | _ => .next (noCrossbar node s)
  else .next s

end Sys2Proof.Machine
end

