-- ==== Sys2Proof/Machine/Jtag.lean ====
section
/-! DEFINITION. The test port and the fuses (R475, R483 to R485). A command is the instruction loaded and, where it acts,
its Update-DR. -/

namespace Sys2Proof.Machine

/-- The instruction register holds `code`; the data register selected has captured `dr`. -/
def jtagSelect (code : Nat) (dr : BitVec 336) (s : State) : State := { s with jtag := { s.jtag with ir := code, dr := dr } }

/-- EXTEST (R483): the scanned pins take what is shifted in. -/
def execExtest (bsr : BitVec 336) (s : State) : Host.Outcome State Fault Refusal :=
  let s := jtagSelect 0 bsr s
  .next { s with jtag := { s.jtag with bsr := bsr } }

/-- IDCODE (R483). -/
def execIdcode (s : State) : Host.Outcome State Fault Refusal := .next (jtagSelect 1 0x14816B4F s)

/-- SAMPLE/PRELOAD (R483): the pins are captured, the boundary-scan register is loaded, nothing else changes. -/
def execSamplePreload (pins bsr : BitVec 336) (s : State) : Host.Outcome State Fault Refusal :=
  let s := jtagSelect 2 pins s
  .next { s with jtag := { s.jtag with bsr := bsr } }

/-- The fuse register as captured: the fuses and BUSY (R485). -/
def fuseCapture (s : State) : BitVec 336 :=
  BitVec.ofNat 336 (s.jtag.fuses.toNat + b2n (s.jtag.prog != []) * 2 ^ 290)

/-- FUSERD (R485). -/
def execFuserd (s : State) : Host.Outcome State Fault Refusal := .next (jtagSelect 0x10 (fuseCapture s) s)

/-- FUSEPGM (R485): in COLD the bits of the mask are blown in increasing order; elsewhere nothing. -/
def execFusepgm (mask : BitVec 290) (s : State) : Host.Outcome State Fault Refusal :=
  let s := jtagSelect 0x11 (fuseCapture s) s
  .next (if s.mode = .cold then
    { s with jtag := { s.jtag with prog := s.jtag.prog ++ bitList mask.toNat 290 } } else s)

/-- May fuse bit `i` be blown: no key hash bit once KEYLOCK is (R485). -/
def mayBlow (i : Nat) (s : State) : Bool := !(decide (33 ≤ i ∧ i ≤ 288) && s.jtag.fuses.getLsbD 289)

/-- FUSE_BIT_PROGRAMMED (R485): the bit in progress is blown, the next begins. Outside COLD only a bit begun in COLD is. -/
def execFuseBitProgrammed (s : State) : Host.Outcome State Fault Refusal :=
  match s.jtag.prog with
  | [] => .next s
  | i :: r =>
    let f := if mayBlow i s then s.jtag.fuses ||| BitVec.ofNat 290 (2 ^ i) else s.jtag.fuses
    .next { s with jtag := { s.jtag with fuses := f, prog := r } }

/-- BYPASS, and every unassigned code (R483). -/
def execBypass (s : State) : Host.Outcome State Fault Refusal := .next (jtagSelect 0xFF 0 s)

/-- TAP_RESET (R475): Test-Logic-Reset; EXTEST lets go of the pins. -/
def execTapReset (s : State) : Host.Outcome State Fault Refusal := .next { s with jtag := { s.jtag with ir := 1 } }

end Sys2Proof.Machine
end

