-- ==== Sys2Proof/Machine/LevainAlu.lean ====
section
/-! DEFINITION. Levain-16, the operations that touch no memory (R256 to R265, R277): stack, arithmetic, shifts,
multiplier, divider, transfers, traps. One meaning a command, over the forms of Operands and the results of Flags. -/

namespace Sys2Proof.Machine

/-- A trap raised after a completed instruction of one word: the saved PC lies after it (R277). -/
def trapAfter (cl m c code : Nat) (s : State) : State :=
  let s := onCtx cl m c (advance { words := 1 }) s
  trapHere cl m c code 0 s

/-- A division (R264, R265): quotient above remainder left on the stack, DIVZ raised after it where DZT is set. -/
def divide (cl m c : Nat) (f : Half → Half → Half → Half → Half × Half × Half) (s : State) : State :=
  let k := theCtx cl m c s
  let (q, r, st) := f (item 2 k) (item 1 k) (item 0 k) k.st
  let s' := onCtx cl m c (fun k => { restack 3 [r, q] k with st := st }) s
  if item 0 k = 0 ∧ stDZT k.st then trapAfter cl m c trapDIVZ s'
  else onCtx cl m c (advance { words := 1 }) s'

/-- A conditional transfer, a `g` to the predictors: `f` acts on the bank; taken to `t`, otherwise on to the next word. A taken transfer outside
local RAM has no effect but its trap (R253). -/
def branch (g : Guess) (cl m c : Nat) (h : Shape) (taken : Bool) (t : Int) (f : Ctx → Ctx) (s : State) : State :=
  if taken then transfer g cl m c t none f s
  else teach cl m (resolve g c (theCtx cl m c s).pc false 0) (onCtx cl m c (fun k => advance h (f k)) s)

/-- Short op NOP does nothing (R256). -/
def execLvNop (cl m : Fin 16) (s : State) : Host.Outcome State Fault Refusal :=
  issueBank cl m { short := some (.p 0 false) } id s

/-- Short op DUP duplicates T (R256). -/
def execLvDup (cl m : Fin 16) (s : State) : Host.Outcome State Fault Refusal :=
  issueBank cl m { pops := 1, pushes := 2, short := some (.p 1 false) } (fun k => restack 1 [item 0 k, item 0 k] k) s

/-- Short op DROP removes T (R256). -/
def execLvDrop (cl m : Fin 16) (s : State) : Host.Outcome State Fault Refusal :=
  issueBank cl m { pops := 1, short := some (.p 1 false) } (restack 1 []) s

/-- Short op SWAP exchanges T and N (R256). -/
def execLvSwap (cl m : Fin 16) (s : State) : Host.Outcome State Fault Refusal :=
  issueBank cl m { pops := 2, pushes := 2, short := some (.p 1 false) } (fun k => restack 2 [item 1 k, item 0 k] k) s

/-- Short op OVER pushes a copy of N (R256). -/
def execLvOver (cl m : Fin 16) (s : State) : Host.Outcome State Fault Refusal :=
  issueBank cl m { pops := 2, pushes := 3, short := some (.p 1 false) } (fun k => restack 2 [item 1 k, item 0 k, item 1 k] k) s

/-- Short op ROT rotates the third item to the top (R256). -/
def execLvRot (cl m : Fin 16) (s : State) : Host.Outcome State Fault Refusal :=
  issueBank cl m { pops := 3, pushes := 3, short := some (.p 1 false) } (fun k => restack 3 [item 2 k, item 0 k, item 1 k] k) s

/-- Short op ADD adds the top two items and sets C, V and Z (R262). -/
def execLvAdd (cl m : Fin 16) (s : State) : Host.Outcome State Fault Refusal :=
  issueBank cl m { pops := 2, pushes := 1, short := some (.p 1 true) } (binary (fun a b st => addF a b 0 st)) s

/-- Short op SUB subtracts the top from the second item and sets C, V and Z (R262). -/
def execLvSub (cl m : Fin 16) (s : State) : Host.Outcome State Fault Refusal :=
  issueBank cl m { pops := 2, pushes := 1, short := some (.p 1 true) } (binary (fun a b st => subF a b 0 st)) s

/-- Short op AND forms the bitwise and, setting Z (R256). -/
def execLvAnd (cl m : Fin 16) (s : State) : Host.Outcome State Fault Refusal :=
  issueBank cl m { pops := 2, pushes := 1, short := some (.p 1 true) } (binary (fun a b st => logicF (a &&& b) st)) s

/-- Short op OR forms the bitwise or, setting Z (R256). -/
def execLvOr (cl m : Fin 16) (s : State) : Host.Outcome State Fault Refusal :=
  issueBank cl m { pops := 2, pushes := 1, short := some (.p 1 true) } (binary (fun a b st => logicF (a ||| b) st)) s

/-- Short op XOR forms the bitwise exclusive or, setting Z (R256). -/
def execLvXor (cl m : Fin 16) (s : State) : Host.Outcome State Fault Refusal :=
  issueBank cl m { pops := 2, pushes := 1, short := some (.p 1 true) } (binary (fun a b st => logicF (a ^^^ b) st)) s

/-- Short op NOT complements T, setting Z (R256). -/
def execLvNot (cl m : Fin 16) (s : State) : Host.Outcome State Fault Refusal :=
  issueBank cl m { pops := 1, pushes := 1, short := some (.p 1 true) } (unary (fun a st => logicF (~~~a) st)) s

/-- Short op NEG negates T, setting C, V and Z (R262). -/
def execLvNeg (cl m : Fin 16) (s : State) : Host.Outcome State Fault Refusal :=
  issueBank cl m { pops := 1, pushes := 1, short := some (.p 1 true) } (unary (fun a st => subF 0 a 0 st)) s

/-- Short op INC adds one to T, setting C, V and Z (R262). -/
def execLvInc (cl m : Fin 16) (s : State) : Host.Outcome State Fault Refusal :=
  issueBank cl m { pops := 1, pushes := 1, short := some (.p 1 true) } (unary (fun a st => addF a 1 0 st)) s

/-- Short op B> pushes B (R256). -/
def execLvFromB (cl m : Fin 16) (s : State) : Host.Outcome State Fault Refusal :=
  issueBank cl m { pushes := 1, short := some (.p 1 false) } (fun k => pushD k.b k) s

/-- Short op SHL shifts left logically by n mod 32 (R261). -/
def execLvShl (cl m : Fin 16) (s : State) : Host.Outcome State Fault Refusal :=
  issueBank cl m { pops := 2, pushes := 1, short := some (.p 1 true) } (binary (fun a b st => shlF a b st)) s

/-- Short op SHR shifts right logically by n mod 32 (R261). -/
def execLvShr (cl m : Fin 16) (s : State) : Host.Outcome State Fault Refusal :=
  issueBank cl m { pops := 2, pushes := 1, short := some (.p 1 true) } (binary (fun a b st => shrF a b st)) s

/-- Short op SAR shifts right arithmetically by n mod 32 (R261). -/
def execLvSar (cl m : Fin 16) (s : State) : Host.Outcome State Fault Refusal :=
  issueBank cl m { pops := 2, pushes := 1, short := some (.p 1 true) } (binary (fun a b st => sarF a b st)) s

/-- Short op >A pops T into A (R256). -/
def execLvToA (cl m : Fin 16) (s : State) : Host.Outcome State Fault Refusal :=
  issueBank cl m { pops := 1, short := some (.p 3 true) } (fun k => { restack 1 [] k with a := item 0 k }) s

/-- Short op A> pushes A (R256). -/
def execLvFromA (cl m : Fin 16) (s : State) : Host.Outcome State Fault Refusal :=
  issueBank cl m { pushes := 1, short := some (.p 1 false) } (fun k => pushD k.a k) s

/-- Short op >B pops T into B (R256). -/
def execLvToB (cl m : Fin 16) (s : State) : Host.Outcome State Fault Refusal :=
  issueBank cl m { pops := 1, short := some (.p 5 true) } (fun k => { restack 1 [] k with b := item 0 k }) s

/-- Short op >RT moves T onto the return stack (R256). -/
def execLvToRt (cl m : Fin 16) (s : State) : Host.Outcome State Fault Refusal :=
  let h : Shape := { pops := 1, rpushes := 1, short := some (.p 1 false) }
  issue cl m h s (fun c s =>
    .next (teach cl m (pushRet c none)
      (onCtx cl m c (fun k => advance h { restack 1 [] k with rs := item 0 k :: k.rs }) s)))

/-- Short op RT> pops the return stack to T (R256). -/
def execLvFromRt (cl m : Fin 16) (s : State) : Host.Outcome State Fault Refusal :=
  let h : Shape := { pushes := 1, rpops := 1, short := some (.p 1 false) }
  issue cl m h s (fun c s =>
    .next (teach cl m (popRet c)
      (onCtx cl m c (fun k => advance h { pushD (k.rs.headD 0) k with rs := k.rs.drop 1 }) s)))

/-- Extended op NIP removes N (R260). -/
def execLvNip (cl m : Fin 16) (s : State) : Host.Outcome State Fault Refusal :=
  issueBank cl m { pops := 2, pushes := 1, words := 1 } (fun k => restack 2 [item 0 k] k) s

/-- Extended op TUCK copies T below N (R260). -/
def execLvTuck (cl m : Fin 16) (s : State) : Host.Outcome State Fault Refusal :=
  issueBank cl m { pops := 2, pushes := 3, words := 1 } (fun k => restack 2 [item 0 k, item 1 k, item 0 k] k) s

/-- Extended op 2DUP duplicates the top two items (R260). -/
def execLvTwoDup (cl m : Fin 16) (s : State) : Host.Outcome State Fault Refusal :=
  issueBank cl m { pops := 2, pushes := 4, words := 1 } (fun k => restack 2 [item 0 k, item 1 k, item 0 k, item 1 k] k) s

/-- Extended op 2DROP removes the top two items (R260). -/
def execLvTwoDrop (cl m : Fin 16) (s : State) : Host.Outcome State Fault Refusal :=
  issueBank cl m { pops := 2, words := 1 } (restack 2 []) s

/-- Extended op -ROT rotates the top item to third place (R260). -/
def execLvMinusRot (cl m : Fin 16) (s : State) : Host.Outcome State Fault Refusal :=
  issueBank cl m { pops := 3, pushes := 3, words := 1 } (fun k => restack 3 [item 1 k, item 2 k, item 0 k] k) s

/-- Extended op DEPTH pushes the data stack depth (R260). -/
def execLvDepth (cl m : Fin 16) (s : State) : Host.Outcome State Fault Refusal :=
  issueBank cl m { pushes := 1, words := 1 } (fun k => pushD (BitVec.ofNat 16 k.ds.length) k) s

/-- Extended op RDEPTH pushes the return stack depth (R260). -/
def execLvRdepth (cl m : Fin 16) (s : State) : Host.Outcome State Fault Refusal :=
  issueBank cl m { pushes := 1, words := 1 } (fun k => pushD (BitVec.ofNat 16 k.rs.length) k) s

/-- Extended op RT@ pushes a copy of RT (R260). -/
def execLvRtCopy (cl m : Fin 16) (s : State) : Host.Outcome State Fault Refusal :=
  issueBank cl m { pushes := 1, rpops := 1, rpushes := 1, words := 1 } (fun k => pushD (k.rs.headD 0) k) s

/-- Long op LIT pushes its sign-extended 11-bit literal (R257). -/
def execLvLit (cl m : Fin 16) (k : BitVec 11) (s : State) : Host.Outcome State Fault Refusal :=
  issueBank cl m { pushes := 1, words := 1 } (pushD (k.signExtend 16)) s

/-- Far form FLIT pushes W (R259). -/
def execLvFlit (cl m : Fin 16) (k : Half) (s : State) : Host.Outcome State Fault Refusal :=
  issueBank cl m { pushes := 1, words := 2 } (pushD k) s

/-- Extended op ADC adds with carry (R262). -/
def execLvAdc (cl m : Fin 16) (s : State) : Host.Outcome State Fault Refusal :=
  issueBank cl m { pops := 2, pushes := 1, words := 1 } (binary (fun a b st => addF a b (b2n (stC st)) st)) s

/-- Extended op SBC subtracts with borrow (R262). -/
def execLvSbc (cl m : Fin 16) (s : State) : Host.Outcome State Fault Refusal :=
  issueBank cl m { pops := 2, pushes := 1, words := 1 } (binary (fun a b st => subF a b (b2n (stC st)) st)) s

/-- Extended op DEC subtracts one from T (R262). -/
def execLvDec (cl m : Fin 16) (s : State) : Host.Outcome State Fault Refusal :=
  issueBank cl m { pops := 1, pushes := 1, words := 1 } (unary (fun a st => subF a 1 0 st)) s

/-- Extended op ABS forms the absolute value of T (R262). -/
def execLvAbs (cl m : Fin 16) (s : State) : Host.Outcome State Fault Refusal :=
  issueBank cl m { pops := 1, pushes := 1, words := 1 } (unary (fun a st => absF a st)) s

/-- Extended op MIN forms the signed minimum (R260). -/
def execLvMin (cl m : Fin 16) (s : State) : Host.Outcome State Fault Refusal :=
  issueBank cl m { pops := 2, pushes := 1, words := 1 } (binary (fun a b st => logicF (minS a b) st)) s

/-- Extended op MAX forms the signed maximum (R260). -/
def execLvMax (cl m : Fin 16) (s : State) : Host.Outcome State Fault Refusal :=
  issueBank cl m { pops := 2, pushes := 1, words := 1 } (binary (fun a b st => logicF (maxS a b) st)) s

/-- Extended op MINU forms the unsigned minimum (R260). -/
def execLvMinu (cl m : Fin 16) (s : State) : Host.Outcome State Fault Refusal :=
  issueBank cl m { pops := 2, pushes := 1, words := 1 } (binary (fun a b st => logicF (minU a b) st)) s

/-- Extended op MAXU forms the unsigned maximum (R260). -/
def execLvMaxu (cl m : Fin 16) (s : State) : Host.Outcome State Fault Refusal :=
  issueBank cl m { pops := 2, pushes := 1, words := 1 } (binary (fun a b st => logicF (maxU a b) st)) s

/-- Extended op ROL rotates left by n mod 16 (R261). -/
def execLvRol (cl m : Fin 16) (s : State) : Host.Outcome State Fault Refusal :=
  issueBank cl m { pops := 2, pushes := 1, words := 1 } (binary (fun a b st => rolF a b st)) s

/-- Extended op ROR rotates right by n mod 16 (R261). -/
def execLvRor (cl m : Fin 16) (s : State) : Host.Outcome State Fault Refusal :=
  issueBank cl m { pops := 2, pushes := 1, words := 1 } (binary (fun a b st => rorF a b st)) s

/-- Extended op CLZ counts leading zeros (R260). -/
def execLvClz (cl m : Fin 16) (s : State) : Host.Outcome State Fault Refusal :=
  issueBank cl m { pops := 1, pushes := 1, words := 1 } (unary (fun a st => logicF (clz16 a) st)) s

/-- Extended op POPC counts set bits (R260). -/
def execLvPopc (cl m : Fin 16) (s : State) : Host.Outcome State Fault Refusal :=
  issueBank cl m { pops := 1, pushes := 1, words := 1 } (unary (fun a st => logicF (popc16 a) st)) s

/-- Extended op >RC pops T into RC (R260). -/
def execLvToRc (cl m : Fin 16) (s : State) : Host.Outcome State Fault Refusal :=
  issueBank cl m { pops := 1, words := 1 } (fun k => { restack 1 [] k with rc := item 0 k }) s

/-- Extended op RC> pushes RC (R260). -/
def execLvFromRc (cl m : Fin 16) (s : State) : Host.Outcome State Fault Refusal :=
  issueBank cl m { pushes := 1, words := 1 } (fun k => pushD k.rc k) s

/-- Extended op >ST writes the low five bits of T into ST (R260). -/
def execLvToSt (cl m : Fin 16) (s : State) : Host.Outcome State Fault Refusal :=
  issueBank cl m { pops := 1, words := 1 } (fun k => { restack 1 [] k with st := item 0 k &&& 0x1F#16 }) s

/-- Extended op ST> pushes ST (R260). -/
def execLvFromSt (cl m : Fin 16) (s : State) : Host.Outcome State Fault Refusal :=
  issue cl m { pushes := 1, words := 1 } s (fun c s =>
    let st := stWord cl m c s
    .next (onCtx cl m c (fun k => advance { words := 1 } (pushD st k)) s))

/-- Extended op A+ adds T to A (R260). -/
def execLvAAdd (cl m : Fin 16) (s : State) : Host.Outcome State Fault Refusal :=
  issueBank cl m { pops := 1, words := 1 } (fun k => { restack 1 [] k with a := k.a + item 0 k }) s

/-- Extended op B+ adds T to B (R260). -/
def execLvBAdd (cl m : Fin 16) (s : State) : Host.Outcome State Fault Refusal :=
  issueBank cl m { pops := 1, words := 1 } (fun k => { restack 1 [] k with b := k.b + item 0 k }) s

/-- Extended op PICK n pushes a copy of stack item n + 1 (R260). -/
def execLvPick (cl m : Fin 16) (n : Fin 15) (s : State) : Host.Outcome State Fault Refusal :=
  issue cl m { pops := n.val + 1, pushes := n.val + 2, words := 1 } s (fun c s =>
    .next (onCtx cl m c (fun k => advance { words := 1 } (pushD (item n.val k) k)) s))

/-- Extended op MUL sets MR to the signed product, claiming MR (R263). -/
def execLvMul (cl m : Fin 16) (s : State) : Host.Outcome State Fault Refusal :=
  issueMr cl m { pops := 2, words := 1 } true [0, 1, 2] (fun k _ => (restack 2 [] k, mulS (item 1 k) (item 0 k))) s

/-- Extended op MULU sets MR to the unsigned product (R263). -/
def execLvMulu (cl m : Fin 16) (s : State) : Host.Outcome State Fault Refusal :=
  issueMr cl m { pops := 2, words := 1 } true [0, 1, 2] (fun k _ => (restack 2 [] k, mulU (item 1 k) (item 0 k))) s

/-- Extended op MAC adds the signed product to MR (R263). -/
def execLvMac (cl m : Fin 16) (s : State) : Host.Outcome State Fault Refusal :=
  issueMr cl m { pops := 2, words := 1 } true [0, 1, 2] (fun k v => (restack 2 [] k, v + mulS (item 1 k) (item 0 k))) s

/-- Extended op MACU adds the unsigned product to MR (R263). -/
def execLvMacu (cl m : Fin 16) (s : State) : Host.Outcome State Fault Refusal :=
  issueMr cl m { pops := 2, words := 1 } true [0, 1, 2] (fun k v => (restack 2 [] k, v + mulU (item 1 k) (item 0 k))) s

/-- Extended op MSU subtracts the signed product from MR (R263). -/
def execLvMsu (cl m : Fin 16) (s : State) : Host.Outcome State Fault Refusal :=
  issueMr cl m { pops := 2, words := 1 } true [0, 1, 2] (fun k v => (restack 2 [] k, v - mulS (item 1 k) (item 0 k))) s

/-- Extended op CLRM clears MR (R263). -/
def execLvClrm (cl m : Fin 16) (s : State) : Host.Outcome State Fault Refusal :=
  issueMr cl m { words := 1 } false [0, 1, 2] (fun k _ => (k, 0)) s

/-- Extended op MRL> pushes MRL after pending multiplies complete (R263). -/
def execLvFromMrl (cl m : Fin 16) (s : State) : Host.Outcome State Fault Refusal :=
  issueMr cl m { pushes := 1, words := 1 } false [] (fun k v => (pushD (mrl v) k, v)) s

/-- Extended op MRH> pushes MRH after pending multiplies complete (R263). -/
def execLvFromMrh (cl m : Fin 16) (s : State) : Host.Outcome State Fault Refusal :=
  issueMr cl m { pushes := 1, words := 1 } false [] (fun k v => (pushD (mrh v) k, v)) s

/-- Extended op MRG> pushes MRG sign-extended (R263). -/
def execLvFromMrg (cl m : Fin 16) (s : State) : Host.Outcome State Fault Refusal :=
  issueMr cl m { pushes := 1, words := 1 } false [] (fun k v => (pushD (mrg v) k, v)) s

/-- Extended op >MRL writes MRL (R263). -/
def execLvToMrl (cl m : Fin 16) (s : State) : Host.Outcome State Fault Refusal :=
  issueMr cl m { pops := 1, words := 1 } false [0] (fun k v => (restack 1 [] k, putMr v 0 16 (item 0 k))) s

/-- Extended op >MRH writes MRH (R263). -/
def execLvToMrh (cl m : Fin 16) (s : State) : Host.Outcome State Fault Refusal :=
  issueMr cl m { pops := 1, words := 1 } false [1] (fun k v => (restack 1 [] k, putMr v 16 16 (item 0 k))) s

/-- Extended op >MRG writes MRG (R263). -/
def execLvToMrg (cl m : Fin 16) (s : State) : Host.Outcome State Fault Refusal :=
  issueMr cl m { pops := 1, words := 1 } false [2] (fun k v => (restack 1 [] k, putMr v 32 8 (item 0 k))) s

/-- Extended op RND n pushes MR rounded and saturated to 16 bits (R263). -/
def execLvRnd (cl m : Fin 16) (n : Fin 25) (s : State) : Host.Outcome State Fault Refusal :=
  issueMr cl m { pushes := 1, words := 1 } false [] (fun k v =>
    let (r, st) := rndF v n.val k.st
    ({ pushD r k with st := st }, v)) s

/-- Extended op DIV divides a signed 32-bit value by a 16-bit divisor (R264). -/
def execLvDiv (cl m : Fin 16) (s : State) : Host.Outcome State Fault Refusal :=
  issue cl m { pops := 3, pushes := 2, words := 1 } s (fun c s =>
    .next (divide cl m c divS s))

/-- Extended op DIVU divides an unsigned 32-bit value by a 16-bit divisor (R264). -/
def execLvDivu (cl m : Fin 16) (s : State) : Host.Outcome State Fault Refusal :=
  issue cl m { pops := 3, pushes := 2, words := 1 } s (fun c s =>
    .next (divide cl m c divU s))

/-- Short op RET pops the return stack to PC at slot 0 (R251). -/
def execLvRet (cl m : Fin 16) (s : State) : Host.Outcome State Fault Refusal :=
  issue cl m { rpops := 1 } s (fun c s =>
    .next (transfer .ret cl m c ((theCtx cl m c s).rs.headD 0).toNat none (fun k => { k with rs := k.rs.drop 1 }) s))

/-- Long op JMP transfers to a target in its own page (R252). -/
def execLvJmp (cl m : Fin 16) (k : BitVec 11) (s : State) : Host.Outcome State Fault Refusal :=
  issue cl m { words := 1 } s (fun c s =>
    .next (transfer .always cl m c (pageTarget (theCtx cl m c s).pc k) none id s))

/-- Long op CALL pushes the return address and transfers to a page target (R252). -/
def execLvCall (cl m : Fin 16) (k : BitVec 11) (s : State) : Host.Outcome State Fault Refusal :=
  issue cl m { rpushes := 1, words := 1 } s (fun c s =>
    let a := (theCtx cl m c s).pc
    .next (transfer .always cl m c (pageTarget a k) (some (a + 1)) id s))

/-- Long op JZ pops T and jumps to a page target if it is zero (R257). -/
def execLvJz (cl m : Fin 16) (k : BitVec 11) (s : State) : Host.Outcome State Fault Refusal :=
  issue cl m { pops := 1, words := 1 } s (fun c s =>
    let b := theCtx cl m c s
    .next (branch .cond cl m c { words := 1 } (item 0 b == 0) (pageTarget b.pc k) (restack 1 []) s))

/-- Long op JNZ pops T and jumps to a page target if it is non-zero (R257). -/
def execLvJnz (cl m : Fin 16) (k : BitVec 11) (s : State) : Host.Outcome State Fault Refusal :=
  issue cl m { pops := 1, words := 1 } s (fun c s =>
    let b := theCtx cl m c s
    .next (branch .cond cl m c { words := 1 } (item 0 b != 0) (pageTarget b.pc k) (restack 1 []) s))

/-- Long op BR.cc jumps relative when its condition holds, without popping (R258). -/
def execLvBr (cl m : Fin 16) (cc : BitVec 4) (d : BitVec 7) (s : State) : Host.Outcome State Fault Refusal :=
  let reads := if 7 ≤ cc.toNat ∧ cc.toNat ≤ 12 then 1 else 0
  issue cl m { pops := reads, pushes := reads, words := 1 } s (fun c s =>
    let b := theCtx cl m c s
    .next (branch (if cc = 0 then .always else .cond) cl m c { words := 1 } (brTest cc.toNat (item 0 b) b.st) (b.pc + d.toInt) id s))

/-- Long op LOOP decrements RC and jumps backward while RC is non-zero (R257). -/
def execLvLoop (cl m : Fin 16) (k : BitVec 11) (s : State) : Host.Outcome State Fault Refusal :=
  issue cl m { words := 1 } s (fun c s =>
    let b := theCtx cl m c s
    .next (branch .loop cl m c { words := 1 } (b.rc - 1 != 0) ((b.pc : Int) - (k.toNat : Int))
      (fun b => { b with rc := b.rc - 1 }) s))

/-- Far form FJMP transfers to the address in W (R259). -/
def execLvFjmp (cl m : Fin 16) (k : Half) (s : State) : Host.Outcome State Fault Refusal :=
  issue cl m { words := 2 } s (fun c s => .next (transfer .always cl m c k.toNat none id s))

/-- Far form FCALL pushes a + 2 and transfers to W (R259). -/
def execLvFcall (cl m : Fin 16) (k : Half) (s : State) : Host.Outcome State Fault Refusal :=
  issue cl m { rpushes := 1, words := 2 } s (fun c s =>
    .next (transfer .always cl m c k.toNat (some ((theCtx cl m c s).pc + 2)) id s))

/-- Far form FJZ pops T and jumps to W if it is zero (R259). -/
def execLvFjz (cl m : Fin 16) (k : Half) (s : State) : Host.Outcome State Fault Refusal :=
  issue cl m { pops := 1, words := 2 } s (fun c s =>
    .next (branch .cond cl m c { words := 2 } (item 0 (theCtx cl m c s) == 0) k.toNat (restack 1 []) s))

/-- Far form FJNZ pops T and jumps to W if it is non-zero (R259). -/
def execLvFjnz (cl m : Fin 16) (k : Half) (s : State) : Host.Outcome State Fault Refusal :=
  issue cl m { pops := 1, words := 2 } s (fun c s =>
    .next (branch .cond cl m c { words := 2 } (item 0 (theCtx cl m c s) != 0) k.toNat (restack 1 []) s))

/-- Extended op EXEC calls the address popped from T (R252). -/
def execLvExec (cl m : Fin 16) (s : State) : Host.Outcome State Fault Refusal :=
  issue cl m { pops := 1, rpushes := 1, words := 1 } s (fun c s =>
    let b := theCtx cl m c s
    .next (transfer .stack cl m c (item 0 b).toNat (some (b.pc + 1)) (restack 1 []) s))

/-- Extended op JMPT jumps to the address popped from T (R252). -/
def execLvJmpt (cl m : Fin 16) (s : State) : Host.Outcome State Fault Refusal :=
  issue cl m { pops := 1, words := 1 } s (fun c s =>
    .next (transfer .stack cl m c (item 0 (theCtx cl m c s)).toNat none (restack 1 []) s))

/-- Major opcode 0xF, an unlisted code or a reserved encoding raises the ILLOP trap (R277). -/
def execLvIllop (cl m : Fin 16) (s : State) : Host.Outcome State Fault Refusal :=
  issue cl m {} s (fun c s => .next (trapHere cl m c trapILLOP 0 s))

/-- Extended op TRAP n raises software trap n (R277). -/
def execLvTrap (cl m : Fin 16) (n : Fin 64) (s : State) : Host.Outcome State Fault Refusal :=
  issue cl m { words := 1 } s (fun c s => .next (trapAfter cl m c (0x40 + n.val) s))

end Sys2Proof.Machine
end

