-- ==== Sys2Proof/Machine/LevainMem.lean ====
section
/-! DEFINITION. The Levain operations that reach memory: loads, stores, atomics, string ops, REP, IFENCE (R266 to R272,
R278), and the store buffer with its drain (R287 to R289, R325). An operation that the store buffer makes wait changes
nothing, and its command is given again after a STORE_DRAIN (log entry 61). -/

namespace Sys2Proof.Machine

/-! ### Addresses (R5, R6, R267, R352) -/

/-- Fabric byte address of window word `a` under the window base `b`. -/
def windowByte (b a : Nat) : Nat := (b * 4096 + 2 * (a - 0x8000)) % 2 ^ 36

/-- The accesses of a load or store of one word, or of two words (R267): word address and number of words. -/
def accesses (a : Nat) (two : Bool) : List (Nat × Nat) :=
  if two then (if a % 2 = 0 then [(a, 2)] else [(a, 1), ((a + 1) % 65536, 1)]) else [(a, 1)]

/-- The word addresses of a load or store. -/
def wordsOf (a : Nat) (two : Bool) : List Nat := if two then [a, (a + 1) % 65536] else [a]

def isWindow (a : Nat) : Bool := decide (0x8000 ≤ a ∧ a < 0xC000)
def isIo (a : Nat) : Bool := decide (0xC000 ≤ a)

/-! ### Forwarding (R288) -/

/-- The memory word that address `a` names: a local word by its address, a window word by its fabric address. -/
def wordKey (b a : Nat) : Nat := if isWindow a then 0x100000000 + windowByte b a else a

/-- The memory words of an entry. -/
def entryKeys (e : SbEntry) : List Nat :=
  match e.fab with
  | some f => (List.range e.words.length).map (fun i => 0x100000000 + f + 2 * i)
  | none => (List.range e.words.length).map (fun i => e.addr + i)

/-- What the store buffer does to a load: nothing pending, the words of one entry, or a wait. -/
inductive Forward | memory | words (l : List Half) | wait
  deriving DecidableEq, Repr

/-- The youngest entry that holds one of the load's words gives all of them, or the load waits. -/
def forward (ks : List Nat) : List SbEntry → Forward
  | [] => .memory
  | e :: older =>
    if ks.any (fun w => (entryKeys e).contains w) then
      if ks.all (fun w => (entryKeys e).contains w) then
        .words (ks.map (fun w => e.words.getD ((entryKeys e).idxOf w) 0))
      else .wait
    else forward ks older

/-! ### Loads -/

/-- What a load brings. -/
inductive Load
  | wait
  | trap (code adr : Nat)
  | ok (l : List Half)
  deriving DecidableEq, Repr

/-- The words of a little-endian byte list. -/
def halves : List Byte → List Half
  | x :: y :: r => (y ++ x) :: halves r
  | _ => []

/-- What a load makes of a read over the fabric: DATAERR, MEMUE, or the words. -/
def gotLoad (a : Nat) (g : Got) : Load × State :=
  (if g.stat = 1 then .trap trapDATAERR a else if g.stat = 2 then .trap trapMEMUE a else .ok (halves g.bytes), g.s)

/-- A window access at `b` waits at its bank where that lies in the own cluster's pantry (R346, R382). -/
def waitAtBank (cl m b : Nat) (s : State) : State :=
  if placeOf b = .pantry cl then windowWait cl m ((b - pantryBase cl) / 0x40000) s else s

/-- A load through the window: `n` words at `b`, the byte address of `a`; it waits where the fabric does not carry it. -/
def windowLoad (cl m : Fin 16) (c : Fin 8) (a b n : Nat) (s : State) : Load × State :=
  if carried (.ctx cl m c) b s then gotLoad a (fabRead (.ctx cl m c) b (2 * n) (waitAtBank cl m b s)) else (.wait, s)

/-- One access of a load (R266, R277, R353). -/
def loadOne (cl m : Fin 16) (c : Fin 8) (a n : Nat) (s : State) : Load × State :=
  if isIo a then
    if n = 2 then
      let r := ioRead2 cl m c a s
      (.ok [r.1.1, r.1.2], r.2)
    else
      let r := ioRead cl m c a s
      (.ok [r.1], r.2)
  else if isWindow a then windowLoad cl m c a (windowByte (winBase cl m c s) a) n s
  else gotLoad a (fabRead (.ctx cl m c) (localWord cl m a) (2 * n) s)

/-- The accesses of a load in order; a trap ends them. -/
def loadAll (cl m : Fin 16) (c : Fin 8) : List (Nat × Nat) → List Half → State → Load × State
  | [], l, s => (.ok l, s)
  | (a, n) :: r, l, s =>
    match loadOne cl m c a n s with
    | (.ok v, s) => loadAll cl m c r (l ++ v) s
    | x => x

/-- A load of one word at `a`, or of two. -/
def load (cl m : Fin 16) (c : Fin 8) (a : Nat) (two : Bool) (s : State) : Load × State :=
  let x := cellOf cl m s
  match forward ((wordsOf a two).map (wordKey (winBase cl m c s))) x.sbuf.reverse with
  | .memory => loadAll cl m c (accesses a two) [] s
  | .words l => (.ok l, s)
  | .wait => (.wait, s)

/-- A load instruction: `a` the address it takes from the bank, `f` what it does to the bank with the loaded words. -/
def loadInto (cl m : Fin 16) (h : Shape) (a : Ctx → Nat) (two : Bool) (f : List Half → Ctx → Ctx) (s : State) :
    Host.Outcome State Fault Refusal :=
  issue cl m h s (fun c s =>
    let c : Fin 8 := Fin.ofNat 8 c
    let k := theCtx cl m c s
    match load cl m c (a k) two s with
    | (.wait, _) => .next (hold cl m s)
    | (.trap code adr, s) => .next (raiseTrap cl m c code k.pc k.slot adr s)
    | (.ok l, s) => .next (onCtx cl m c (fun k => advance h (f l k)) s))

/-- The first loaded word. -/
def firstOf (l : List Half) : Half := l.getD 0 0

/-! ### Stores -/

/-- The entries that a store of context `c` with window base `b` makes, I/O words apart (R287). -/
def entriesOf (b c a : Nat) (two : Bool) (l : List Half) : List SbEntry :=
  let one := fun (a : Nat) (w : List Half) =>
    if isIo a then [] else [({ c := c, addr := a, fab := if isWindow a then some (windowByte b a) else none, words := w } : SbEntry)]
  if two ∧ a % 2 = 1 then one a (l.take 1) ++ one ((a + 1) % 65536) (l.drop 1) else one a l

/-- Does a store of these words reach the I/O page? -/
def touchesIo (a : Nat) (two : Bool) : Bool := (wordsOf a two).any isIo

/-- May the store act: room for its entries (R287), an empty buffer for the I/O page (R289)? -/
def mayStore (cl m : Nat) (c a : Nat) (two : Bool) (l : List Half) (s : State) : Bool :=
  let x := cellOf cl m s
  if touchesIo a two then x.sbuf == [] else decide (x.sbuf.length + (entriesOf (winBase cl m c s) c a two l).length ≤ 4)

/-- One access to the I/O page. -/
def ioStore (cl m : Fin 16) (c : Fin 8) (a : Nat) (l : List Half) (b : Bus) : Bus :=
  if isIo a then
    let d := match l with
      | [lo, hi] => ioWrite2 cl m c a lo hi b.s
      | [v] => ioWrite cl m c a v b.s
      | _ => { s := b.s }
    { d with bad := b.bad.orElse (fun _ => d.bad) }
  else b

/-- The words of a store that may act: entries into the buffer, accesses to the I/O page, low word first. -/
def storeWords (cl m : Fin 16) (c : Fin 8) (a : Nat) (two : Bool) (l : List Half) (s : State) : Bus :=
  let es := entriesOf (winBase cl m c s) c a two l
  let s := onCell cl m (fun x => { x with sbuf := x.sbuf ++ es }) s
  if two ∧ a % 2 = 1 then
    ioStore cl m c ((a + 1) % 65536) (l.drop 1) (ioStore cl m c a (l.take 1) { s := s })
  else ioStore cl m c a l { s := s }

/-- The outcome of a store instruction. -/
def stored (b : Bus) : Host.Outcome State Fault Refusal :=
  match b.bad with
  | some a => .fault (.reservedBit a)
  | none => .next b.s

/-- A store instruction: address and words it takes from the bank, and what it leaves there. The bank and the PC change
before the write acts on anything else. -/
def storeFrom (cl m : Fin 16) (h : Shape) (a : Ctx → Nat) (two : Bool) (l : Ctx → List Half) (f : Ctx → Ctx) (s : State) :
    Host.Outcome State Fault Refusal :=
  issue cl m h s (fun c s =>
    let c : Fin 8 := Fin.ofNat 8 c
    let k := theCtx cl m c s
    if mayStore cl m c (a k) two (l k) s then
      stored (storeWords cl m c (a k) two (l k) (onCtx cl m c (fun k => advance h (f k)) s))
    else .next (hold cl m s))

/-! ### One-word loads and stores -/

/-- Short op LD loads the word at the address on top of the data stack. -/
def execLvLd (cl m : Fin 16) (s : State) : Host.Outcome State Fault Refusal :=
  loadInto cl m { pops := 1, pushes := 1, short := some (.m 0 true) } (fun k => (item 0 k).toNat) false (fun l => restack 1 [firstOf l]) s

/-- Short op ST stores a word at the address on top of the data stack. -/
def execLvSt (cl m : Fin 16) (s : State) : Host.Outcome State Fault Refusal :=
  storeFrom cl m { pops := 2, short := some (.m 0 false) } (fun k => (item 0 k).toNat) false (fun k => [item 1 k]) (restack 2 []) s

/-- Short op LDA loads the word at the address in A. -/
def execLvLda (cl m : Fin 16) (s : State) : Host.Outcome State Fault Refusal :=
  loadInto cl m { pushes := 1, short := some (.m 1 true) } (fun k => k.a.toNat) false (fun l => pushD (firstOf l)) s

/-- Short op LDA+ loads through A and then increments A. -/
def execLvLdaInc (cl m : Fin 16) (s : State) : Host.Outcome State Fault Refusal :=
  loadInto cl m { pushes := 1, short := some (.m 1 true) } (fun k => k.a.toNat) false
    (fun l k => pushD (firstOf l) { k with a := k.a + 1 }) s

/-- Short op STA stores through A. -/
def execLvSta (cl m : Fin 16) (s : State) : Host.Outcome State Fault Refusal :=
  storeFrom cl m { pops := 1, short := some (.m 1 false) } (fun k => k.a.toNat) false (fun k => [item 0 k]) (restack 1 []) s

/-- Short op STA+ stores through A and then increments A. -/
def execLvStaInc (cl m : Fin 16) (s : State) : Host.Outcome State Fault Refusal :=
  storeFrom cl m { pops := 1, short := some (.m 1 false) } (fun k => k.a.toNat) false (fun k => [item 0 k])
    (fun k => restack 1 [] { k with a := k.a + 1 }) s

/-- Short op LDB+ loads through B and then increments B. -/
def execLvLdbInc (cl m : Fin 16) (s : State) : Host.Outcome State Fault Refusal :=
  loadInto cl m { pushes := 1, short := some (.m 2 true) } (fun k => k.b.toNat) false
    (fun l k => pushD (firstOf l) { k with b := k.b + 1 }) s

/-- Short op STB+ stores through B and then increments B. -/
def execLvStbInc (cl m : Fin 16) (s : State) : Host.Outcome State Fault Refusal :=
  storeFrom cl m { pops := 1, short := some (.m 2 false) } (fun k => k.b.toNat) false (fun k => [item 0 k])
    (fun k => restack 1 [] { k with b := k.b + 1 }) s

/-- Long op IN loads the word of the I/O page that its operand names. -/
def execLvIn (cl m : Fin 16) (p : BitVec 11) (s : State) : Host.Outcome State Fault Refusal :=
  loadInto cl m { pushes := 1, words := 1 } (fun _ => 0xC000 + p.toNat) false (fun l => pushD (firstOf l)) s

/-- Long op OUT stores to it. -/
def execLvOut (cl m : Fin 16) (p : BitVec 11) (s : State) : Host.Outcome State Fault Refusal :=
  storeFrom cl m { pops := 1, words := 1 } (fun _ => 0xC000 + p.toNat) false (fun k => [item 0 k]) (restack 1 []) s

/-- Long op LDO loads at A plus its operand. -/
def execLvLdo (cl m : Fin 16) (d : BitVec 11) (s : State) : Host.Outcome State Fault Refusal :=
  loadInto cl m { pushes := 1, words := 1 } (fun k => (k.a.toNat + d.toNat) % 65536) false (fun l => pushD (firstOf l)) s

/-- Long op STO stores at A plus its operand. -/
def execLvSto (cl m : Fin 16) (d : BitVec 11) (s : State) : Host.Outcome State Fault Refusal :=
  storeFrom cl m { pops := 1, words := 1 } (fun k => (k.a.toNat + d.toNat) % 65536) false (fun k => [item 0 k])
    (restack 1 []) s

/-- Far op LDI loads at the address of its second word. -/
def execLvLdi (cl m : Fin 16) (w : Half) (s : State) : Host.Outcome State Fault Refusal :=
  loadInto cl m { pushes := 1, words := 2 } (fun _ => w.toNat) false (fun l => pushD (firstOf l)) s

/-- Far op STI stores at the address of its second word. -/
def execLvSti (cl m : Fin 16) (w : Half) (s : State) : Host.Outcome State Fault Refusal :=
  storeFrom cl m { pops := 1, words := 2 } (fun _ => w.toNat) false (fun k => [item 0 k]) (restack 1 []) s

/-! ### Two-word loads and stores (R267) -/

/-- Extended op LD2 ( addr -- lo hi ). -/
def execLvLd2 (cl m : Fin 16) (s : State) : Host.Outcome State Fault Refusal :=
  loadInto cl m { pops := 1, pushes := 2, words := 1 } (fun k => (item 0 k).toNat) true
    (fun l => restack 1 [l.getD 1 0, firstOf l]) s

/-- Extended op ST2 ( lo hi addr -- ). -/
def execLvSt2 (cl m : Fin 16) (s : State) : Host.Outcome State Fault Refusal :=
  storeFrom cl m { pops := 3, words := 1 } (fun k => (item 0 k).toNat) true (fun k => [item 2 k, item 1 k])
    (restack 3 []) s

/-! ### Atomics (R268, R347) -/

/-- An atomic of the word at the address on top of the stack: `f` makes the new word of the old one and the operand. -/
def atomic (cl m : Fin 16) (f : Half → Half → Half) (s : State) : Host.Outcome State Fault Refusal :=
  issue cl m { pops := 2, pushes := 1, words := 1 } s (fun c s =>
    let k := theCtx cl m c s
    let a := (item 0 k).toNat
    let b := windowByte (winBase cl m c s) a
    if isWindow a = false then .next (trapHere cl m c trapILLOP 0 s)
    else if (cellOf cl m s).sbuf ≠ [] then .next (hold cl m s)
    else if carried (.ctx cl m (Fin.ofNat 8 c)) b s = false then .next (hold cl m s)
    else
      match placeOf b with
      | .pantry _ =>
        let g := readWordsAt b 2 (waitAtBank cl m b s)
        if g.stat = 2 then .next (raiseTrap cl m c trapMEMUE k.pc k.slot a g.s)
        else
          let old := BitVec.ofNat 16 (leNat g.bytes)
          .next (onCtx cl m c (fun k => advance { words := 1 } (restack 2 [old] k))
            (writeN b 2 (f old (item 1 k)).toNat g.s))
      | _ => .next (trapHere cl m c trapDATAERR a s))

/-- Extended op AADD ( x addr -- old ) adds at the bank. -/
def execLvAadd (cl m : Fin 16) (s : State) : Host.Outcome State Fault Refusal := atomic cl m (fun old x => old + x) s

/-- Extended op ASWAP ( x addr -- old ) exchanges at the bank. -/
def execLvAswap (cl m : Fin 16) (s : State) : Host.Outcome State Fault Refusal := atomic cl m (fun _ x => x) s

/-- Extended op IFENCE waits until the store buffer is empty, and then discards what is fetched after it (R289, R298,
R299). -/
def execLvIfence (cl m : Fin 16) (s : State) : Host.Outcome State Fault Refusal :=
  issue cl m { words := 1 } s (fun c s =>
    if (cellOf cl m s).sbuf = [] then .next (refetch cl m (onCtx cl m c (advance { words := 1 }) s)) else .next (hold cl m s))

/-! ### String ops (R269 to R271) -/

inductive StringOp | movs | movsd | fills | cmps | scans | sums
  deriving DecidableEq, Repr

/-- How an element ends: it waits, it traps, it is performed, or it wrote a reserved bit. -/
inductive Elem
  | wait
  | trap (code adr : Nat) (s : State)
  | done (s : State)
  | bad (a : Nat)
  deriving DecidableEq, Repr

/-- Items an op needs on the stack. -/
def StringOp.shape (o : StringOp) : Shape :=
  match o with
  | .fills => { pops := 1, pushes := 1, words := 1 }
  | .scans => { pops := 1, pushes := 1, words := 1 }
  | .sums => { pops := 1, pushes := 1, words := 1 }
  | _ => { words := 1 }

/-- A store of an element at [B], after which `f` acts on the bank. -/
def storeElem (cl m : Fin 16) (c : Fin 8) (v : Half) (f : Ctx → Ctx) (s : State) : Elem :=
  let b := (theCtx cl m c s).b.toNat
  let r := storeWords cl m c b false [v] (onCtx cl m c f s)
  match r.bad with
  | some a => .bad a
  | none => .done r.s

/-- A load of an element, after which `f` goes on with the word. -/
def loadElem (cl m : Fin 16) (c : Fin 8) (a : Nat) (s : State) (f : Half → State → Elem) : Elem :=
  match load cl m c a false s with
  | (.wait, _) => .wait
  | (.trap code adr, s) => .trap code adr s
  | (.ok l, s) => f (firstOf l) s

/-- RC := RC − 1, part of every element. -/
def count (k : Ctx) : Ctx := { k with rc := k.rc - 1 }

/-- May an element store at [B]? -/
def mayStoreB (cl m : Fin 16) (c : Fin 8) (s : State) : Bool :=
  mayStore cl m c (theCtx cl m c s).b.toNat false [0] s

/-- One element (R269). -/
def element (cl m : Fin 16) (c : Fin 8) (o : StringOp) (s : State) : Elem :=
  let k := theCtx cl m c s
  match o with
  | .movs =>
    if mayStoreB cl m c s then
      loadElem cl m c k.a.toNat s (fun v s =>
        storeElem cl m c v (fun k => count { k with a := k.a + 1, b := k.b + 1 }) s)
    else .wait
  | .movsd =>
    if mayStoreB cl m c s then
      loadElem cl m c k.a.toNat s (fun v s =>
        storeElem cl m c v (fun k => count { k with a := k.a - 1, b := k.b - 1 }) s)
    else .wait
  | .fills =>
    if mayStoreB cl m c s then storeElem cl m c (item 0 k) (fun k => count { k with b := k.b + 1 }) s else .wait
  | .cmps =>
    loadElem cl m c k.a.toNat s (fun x s =>
      loadElem cl m c k.b.toNat s (fun y s =>
        .done (onCtx cl m c (fun k => count { k with a := k.a + 1, b := k.b + 1, st := (subF x y 0 k.st).2 }) s)))
  | .scans =>
    loadElem cl m c k.a.toNat s (fun x s =>
      .done (onCtx cl m c (fun k => count { k with a := k.a + 1, st := (subF x (item 0 k) 0 k.st).2 }) s))
  | .sums =>
    loadElem cl m c k.a.toNat s (fun x s =>
      .done (onCtx cl m c (fun k =>
        let (v, st) := addF (item 0 k) x 0 k.st
        count { restack 1 [v] k with a := k.a + 1, st := st }) s))

/-- An element traps: PC and slot are those of the instruction (R271, R277). -/
def elemTrap (cl m : Nat) (c code adr pc slot : Nat) (s : State) : State :=
  raiseTrap cl m c code pc slot adr (onCtx cl m c (fun k => { k with pc := pc, slot := slot }) s)

/-- A string op of its own: one element. The PC moves before a store acts on anything else. -/
def stringOp (cl m : Fin 16) (o : StringOp) (s : State) : Host.Outcome State Fault Refusal :=
  issue cl m o.shape s (fun c s =>
    let c : Fin 8 := Fin.ofNat 8 c
    let k := theCtx cl m c s
    match element cl m c o (onCtx cl m c (advance o.shape) s) with
    | .wait => .next (hold cl m s)
    | .trap code adr t => .next (elemTrap cl m c code adr k.pc k.slot t)
    | .done t => .next t
    | .bad a => .fault (.reservedBit a))

/-- Extended op MOVS. -/
def execLvMovs (cl m : Fin 16) (s : State) : Host.Outcome State Fault Refusal := stringOp cl m .movs s
/-- Extended op MOVSD. -/
def execLvMovsd (cl m : Fin 16) (s : State) : Host.Outcome State Fault Refusal := stringOp cl m .movsd s
/-- Extended op FILLS. -/
def execLvFills (cl m : Fin 16) (s : State) : Host.Outcome State Fault Refusal := stringOp cl m .fills s
/-- Extended op CMPS. -/
def execLvCmps (cl m : Fin 16) (s : State) : Host.Outcome State Fault Refusal := stringOp cl m .cmps s
/-- Extended op SCANS. -/
def execLvScans (cl m : Fin 16) (s : State) : Host.Outcome State Fault Refusal := stringOp cl m .scans s
/-- Extended op SUMS. -/
def execLvSums (cl m : Fin 16) (s : State) : Host.Outcome State Fault Refusal := stringOp cl m .sums s

/-- The string op whose word is `w` (R270: XOP codes 0x050 to 0x055). -/
def stringOf (w : Nat) : Option StringOp :=
  match w with
  | 0xB850 => some .movs
  | 0xB851 => some .movsd
  | 0xB852 => some .fills
  | 0xB853 => some .cmps
  | 0xB854 => some .scans
  | 0xB855 => some .sums
  | _ => none

/-- Does the stop rule end the loop after an element? -/
def stops (rule : Nat) (st : Half) : Bool := (rule == 1 && stZ st) || (rule == 2 && !stZ st)

/-- Does the op store? Its flags do not change, and its store may act on the context itself. -/
def StringOp.isStore (o : StringOp) : Bool :=
  match o with
  | .movs => true
  | .movsd => true
  | .fills => true
  | _ => false

/-- REP's loop. The PC stays at the REP word while elements remain, so that a wait, a trap or a preemption leaves it there
(R271); with the last element it moves on. -/
def repLoop (cl m : Fin 16) (c : Fin 8) (o : StringOp) (rule : Nat) : (fuel : Nat) → State →
    Host.Outcome State Fault Refusal
  | 0, s => .next (onCtx cl m c (advance { words := 2 }) s)
  | n + 1, s =>
    let k := theCtx cl m c s
    let last := o.isStore && (k.rc == 1 || stops rule k.st)
    if issuing cl m s ≠ some c.val then .next s
    else
      match stackTrap o.shape k with
      | some code => .next (trapHere cl m c code 0 s)
      | none =>
        match element cl m c o (if last then onCtx cl m c (advance { words := 2 }) s else s) with
        | .wait => .next (hold cl m s)
        | .trap code adr t => .next (elemTrap cl m c code adr k.pc k.slot t)
        | .bad a => .fault (.reservedBit a)
        | .done t =>
          if last then .next t
          else if o.isStore = false ∧ (k.rc = 1 ∨ stops rule (theCtx cl m c t).st = true) then
            .next (onCtx cl m c (advance { words := 2 }) t)
          else repLoop cl m c o rule n t

/-- Long op REP repeats the string op of the following word (R270), which it takes as fetched: the word stays buffered up to
the last element (R284). -/
def execLvRep (cl m : Fin 16) (k : BitVec 11) (s : State) : Host.Outcome State Fault Refusal :=
  issue cl m { words := 1, extra := 1 } s (fun c s =>
    let c : Fin 8 := Fin.ofNat 8 c
    let x := theCtx cl m c s
    let rule := bitsN k.toNat 0 2
    if rule = 3 ∨ bitsN k.toNat 2 9 ≠ 0 ∨ 0x8000 ≤ x.pc + 1 then .next (trapHere cl m c trapILLOP 0 s)
    else
      match wordAt cl m (x.pc + 1) s with
      | none => .next (raiseTrap cl m c trapMEMUE x.pc x.slot (x.pc + 1) (localUe cl m (x.pc + 1) s))
      | some w =>
        match stringOf w.toNat with
        | none => .next (trapHere cl m c trapILLOP 0 s)
        | some o => repLoop cl m c o rule x.rc.toNat s)

/-! ### Drain (R278, R287, R325) -/

/-- DATAERR of a drained store of context c: WAITING cancels its WAIT and names it; a context that is trapped or stopped
raises no further trap; in context 7 it is a fault (R325, R327). -/
def drainError (cl m c adr : Nat) (s : State) : State :=
  let k := theCtx cl m c s
  if c = 7 then (if (cellOf cl m s).stopped then s else faultIn7 cl m trapDATAERR s)
  else
    match k.state with
    | .waiting => raiseTrap cl m c trapDATAERR (k.pc - 1) 0 adr s
    | .ready => raiseTrap cl m c trapDATAERR k.pc k.slot adr s
    | .running => raiseTrap cl m c trapDATAERR k.pc k.slot adr s
    | _ => s

/-- The bytes of words, low byte first. -/
def bytesOf (l : List Half) : List Byte := l.flatMap (fun w => leBytes 2 w.toNat)

/-- Is the place of a buffer entry in reach: local RAM, or a place to which the fabric carries it (R400)? -/
def drains (cl m : Fin 16) (e : SbEntry) (s : State) : Bool :=
  match e.fab with
  | none => true
  | some f => carried (.ctx cl m (Fin.ofNat 8 e.c)) f s

/-- STORE_DRAIN (R287, R278): the oldest entry reaches its place. One that the fabric does not carry stays (R400). -/
def execStoreDrain (cl m : Fin 16) (s : State) : Host.Outcome State Fault Refusal :=
  match (cellOf cl m s).sbuf with
  | [] => .next s
  | e :: r =>
    if drains cl m e s = false then .next s
    else
    let s := onCell cl m (fun x => { x with sbuf := r }) s
    match e.fab with
    | none =>
      let s := (List.range e.words.length).foldl (fun s j => keepOld cl m (e.addr + j) s) s
      let s := writeBytes (localWord cl m e.addr) (bytesOf e.words) s
      .next ((List.range e.words.length).foldl (fun s j => cacheStore cl m (e.addr + j) (e.words.getD j 0) s) s)
    | some f =>
      let b := fabWrite (.ctx cl m (Fin.ofNat 8 e.c)) f (bytesOf e.words) (waitAtBank cl m f s)
      match b.bad with
      | some a => .fault (.reservedBit a)
      | none => .next (if b.stat = 1 then drainError cl m e.c e.addr b.s else b.s)

end Sys2Proof.Machine
end

