-- ==== Sys2Proof/Machine/DieLink.lean ====
section
/-! DEFINITION. The die link and the Asler stream protocol (R401 to R412, R415, R420): training, flits, packets, content
and stream ingress, egress. A packet command is the arrival of that packet whole; FLIT_RECEIVE makes its packets arrive in
the same way (log entry 63). -/

namespace Sys2Proof.Machine

/-! ### Training and modules (R402, R403, R405) -/

/-- A bit of DLK_ALM with its TILE alarm (R422, R425). -/
def dlkAlarm (i : Nat) (s : State) : State := tileAlarm (i + 1) {} (wb R.DLK_ALM i true s)

/-- Does the link carry packets: trained, with an ASP engine? -/
def linkUp (s : State) : Bool := s.mode != .cold && s.dlk.trained && !s.dlk.noasp

/-- Credits of the receive buffers by channel REQ, STREAM, CONTENT (R406). -/
def bufferCredits : Tab Nat := [(0, 64), (1, 256), (2, 256)]

/-- MAXRATE in force (R402). -/
def maxRate (s : State) : Nat := fld (viewDlk 0 R.DLK_CFG s) 0 2

/-- LINK_TRAINING_COMPLETE (R402): the link comes up at a rate no higher than MAXRATE; module 1 only with M1EN. At the first
link-up the whole receive buffer is granted (R406); later transmission resumes from ACKSEQ + 1 (R405). -/
def execLinkTrainingComplete (rate : Fin 4) (up0 up1 x8_0 x8_1 : Bool) (s : State) : Host.Outcome State Fault Refusal :=
  let two := rb R.DLK_CFG 2 s
  let u1 := up1 && two
  if s.dlk.training && (up0 || u1) then
    let d := s.dlk
    let s := { s with dlk := { d with
      trained := true, training := false, rate := min rate.val (maxRate s), up0 := up0, up1 := u1
      x80 := x8_0 && up0, x81 := x8_1 && u1, granted := true
      owed := if d.granted then d.owed else bufferCredits
      resend := if d.replay = [] then none else some 0 } }
    .next (if (up0 && !x8_0) && (!two || (u1 && !x8_1)) then s else dlkAlarm 2 s)
  else .next s

/-- LINK_TRAINING_TIMEOUT (R405): DLDOWN; the link keeps trying. -/
def execLinkTrainingTimeout (s : State) : Host.Outcome State Fault Refusal :=
  if s.dlk.training then .next (dlkAlarm 1 s) else .next s

/-- MODULE_DEGRADE (R403): a module falls to x8 or fails. With no module left the link trains again. -/
def execModuleDegrade (module : Fin 2) (toX8 : Bool) (s : State) : Host.Outcome State Fault Refusal :=
  let d := s.dlk
  let up := if module = 0 then d.up0 else d.up1
  if d.trained && up then
    let d := if module = 0 then
        (if toX8 then { d with x80 := true } else { d with up0 := false, x80 := false })
      else (if toX8 then { d with x81 := true } else { d with up1 := false, x81 := false })
    let alive := d.up0 || d.up1
    let d := { d with trained := alive, training := !alive, early := []
                      resend := if d.replay = [] then none else some 0 }
    .next (dlkAlarm 2 { s with dlk := d })
  else .next s

/-! ### Credits -/

/-- Credits that a packet of `n` payload bytes takes (R406). -/
def packetCredits (n : Nat) : Nat := (8 + n + 63) / 64

/-- A receive buffer of channel `c` is emptied of a packet. -/
def owe (c n : Nat) (s : State) : State :=
  { s with dlk := { s.dlk with owed := Sparse.set 0 s.dlk.owed c (Sparse.get 0 s.dlk.owed c + packetCredits n) } }

/-- An arriving packet is discarded and counted in ASP_INREJ: content in the low half, the rest in the high one. -/
def rejectIn (content : Bool) (s : State) : State := addSat R.ASP_INREJ (if content then 0 else 16) 16 1 s

/-! ### Register and memory requests (R408) -/

/-- Bytes that a packet takes in the queues. -/
def rspRoom (n : Nat) (s : State) : Bool := decide (queueBytes s.egress.rsp + 8 + n ≤ 8192)

def pushRsp (p : Packet) (s : State) : State := { s with egress := { s.egress with rsp := s.egress.rsp ++ [p] } }

/-- Is the address word malformed? -/
def badWord (w : Nat) : Bool :=
  decide (64 ≤ bitsN w 40 8) || decide (bitsN w 0 2 ≠ 0) || decide (bitsN w 36 4 ≠ 0) || decide (bitsN w 48 16 ≠ 0)

/-- Bytes of the access. -/
def accessBytes (w : Nat) : Nat := 4 * (bitsN w 40 8 + 1)

/-- A multiple of 8 bytes. -/
def pad8 (l : List Byte) : List Byte := l ++ List.replicate ((8 - l.length % 8) % 8) 0

def round8 (n : Nat) : Nat := (n + 7) / 8 * 8

/-- Response bytes a request needs, before it is performed. -/
def responseBytes (p : Packet) : Nat :=
  let w := getLE p.payload 0 8
  if p.pt = 1 ∧ badWord w = false then round8 (accessBytes w) else 0

/-- The words of a register block read one by one. -/
def requestWords (w : Writer) : (n a : Nat) → State → Got
  | 0, _, s => { bytes := [], stat := 0, s := s }
  | n + 1, a, s =>
    let (v, s) := readReg w a s
    let g := requestWords w n (a + 4) s
    { g with bytes := leBytes 4 v.toNat ++ g.bytes }

/-- Does the fabric carry every part of a request (R400)? One that it does not carry whole is lost: not performed and not
answered (log entry 125: DEDUCED). -/
def reachesAll (rid : Fin 16) (a n : Nat) (s : State) : Bool := (spans a n).all (fun p => carried (.host rid) p.1 s)

/-- RDREQ is performed: one RDRSP. -/
def performRead (rid : Fin 16) (tag w : Nat) (s : State) : State :=
  if badWord w then
    pushRsp { pt := 0x30, rid := rid, arg := tag + 65536 } (rejectIn false s)
  else
    let a := bitsN w 0 36
    if reachesAll rid a (accessBytes w) s = false then s
    else
    let g := (spans a (accessBytes w)).foldl (fun g p =>
      let h := if isBlock p.1 g.s then requestWords (.host rid) (p.2 / 4) p.1 g.s else readSpan p.1 p.2 g.s
      { bytes := g.bytes ++ h.bytes, stat := worse g.stat h.stat, s := h.s : Got }) { bytes := [], stat := 0, s := s }
    pushRsp { pt := 0x30, rid := rid, arg := tag + g.stat * 65536
              payload := if g.stat = 1 then [] else pad8 g.bytes } g.s

/-- The 32-bit words of a byte list. -/
def toWords : List Byte → List Word
  | x :: y :: z :: u :: r => w32 (leNat [x, y, z, u]) :: toWords r
  | _ => []

/-- WRREQ is performed: a WRACK where ACKREQ. In LOAD it is discarded and answered ERR (R402). -/
def performWrite (rid : Fin 16) (tag : Nat) (ackreq : Bool) (payload : List Byte) (s : State) : Bus :=
  let w := getLE payload 0 8
  let ack := fun (st : Nat) (s : State) => if ackreq then pushRsp { pt := 0x31, rid := rid, arg := tag + st * 65536 } s else s
  if badWord w ∨ payload.length ≠ round8 (8 + accessBytes w) then { s := ack 1 (rejectIn false s) }
  else if s.mode = .load then { s := ack 1 s }
  else if reachesAll rid (bitsN w 0 36) (accessBytes w) s = false then { s := s }
  else
    let a := bitsN w 0 36
    let data := payload.drop 8
    let b := (spans a (accessBytes w)).foldl (fun b p =>
      let l := slice data (p.1 - a) p.2
      if isBlock p.1 b.s then writeWords (.host rid) p.1 (toWords l) b
      else
        let (s, st) := writeSpan p.1 l b.s
        { b with s := s, stat := worse b.stat st }) ({ s := s } : Bus)
    { b with s := ack b.stat b.s }

/-- A request packet is performed. -/
def performReq (p : Packet) (s : State) : Bus :=
  let rid := Fin.ofNat 16 p.rid
  let tag := p.arg % 65536
  let b := if p.pt = 1 then { s := performRead rid tag (getLE p.payload 0 8) s : Bus }
    else performWrite rid tag (bitN p.arg 16) p.payload s
  { b with s := owe 0 p.payload.length b.s }

/-- A request arrives: it is performed, or waits behind others or for room in the RSP partition (R408). -/
def arriveReq (p : Packet) (s : State) : Bus :=
  if s.dlk.req = [] ∧ rspRoom (responseBytes p) s then performReq p s
  else { s := { s with dlk := { s.dlk with req := s.dlk.req ++ [p] } } }

/-- Waiting requests go on as the RSP partition has room. -/
def pumpReq : (fuel : Nat) → Bus → Bus
  | 0, b => b
  | n + 1, b =>
    match b.s.dlk.req with
    | [] => b
    | p :: r =>
      if rspRoom (responseBytes p) b.s then
        let c := performReq p { b.s with dlk := { b.s.dlk with req := r } }
        pumpReq n { c with bad := b.bad.orElse (fun _ => c.bad) }
      else b

/-! ### Content (R409) -/

/-- The packet is discarded with event kind 0x04 (R418). -/
def discardContent (p : Packet) (s : State) : State :=
  rejectIn true (postEvent 4 0 0 0 (p.pt + p.payload.length * 65536) s)

/-- Does a tile-store range lie outside the store or touch the stream ring? -/
def tileRangeBad (o n : Nat) (s : State) : Bool :=
  decide (2 ^ 25 < o + n) || (decide (0 < n) && decide (o < strBase s + strSize s ∧ strBase s < o + n))

/-- The ingress ring that an entry goes to: SPRREC 0, JOB 1. -/
def ringOf (p : Packet) : Nat := if p.pt = 0x12 then 0 else 1

def irSize (cl k : Nat) (s : State) : Nat := rf (R.ASP_IR_SIZE cl k) 0 16 s

/-- Units of an entry: its header and payload. -/
def entryUnits (p : Packet) : Nat := (8 + p.payload.length) / 8

/-- Does the entry fit without WP reaching RP? -/
def entryFits (p : Packet) (s : State) : Bool :=
  let cl := p.arg % 16
  let n := irSize cl (ringOf p) s
  let wp := rf (R.ASP_IR_WP cl (ringOf p)) 0 15 s
  let rp := rf (R.ASP_IR_RP cl (ringOf p)) 0 15 s
  decide ((wp + n - rp % n) % n + entryUnits p < n)

/-- The header of a packet as 8 bytes (R407). -/
def headerBytes (p : Packet) : List Byte :=
  leBytes 8 (p.pt + p.rid % 16 * 256 + p.payload.length * 65536 + p.arg * 2 ^ 32)

/-- Content written at `a` from node 2, where the ring writer and the ASP engine are; what the fabric does not carry is lost
(R400, log entry 125). -/
def writeVia (a : Nat) (l : List Byte) (s : State) : State :=
  (spans a l.length).foldl (fun s p =>
    if (nodesOf p.1 s).all (fun n => carries 2 n s) then writeBytes p.1 (slice l (p.1 - a) p.2) s else s) s

/-- The entry written into its ring, unit by unit; then WP advances. -/
def writeIngress (p : Packet) (s : State) : State :=
  let cl := p.arg % 16
  let k := ringOf p
  let n := irSize cl k s
  let base := bankWord cl 2 (4 * rf (R.ASP_IR_BASE cl k) 2 16 s)
  let wp := rf (R.ASP_IR_WP cl k) 0 15 s
  let bytes := headerBytes p ++ p.payload
  let s := (List.range (entryUnits p)).foldl (fun s i =>
    writeVia (base + 8 * ((wp + i) % n)) (slice bytes (8 * i) 8) s) s
  levelRises cl (20 + k) (levelOf cl (20 + k) s) (wf (R.ASP_IR_WP cl k) 0 15 ((wp + entryUnits p) % n) s)

/-- The records of an NZST packet, 8 bytes each (R131). -/
def nzRecords (l : List Byte) : List Nat := (List.range (l.length / 8)).map (fun i => getLE l (8 * i) 8)

/-- A content packet is performed, or waits for room in its ring. -/
def performContent (p : Packet) (s : State) : State :=
  let n := p.payload.length
  if p.pt = 0x10 ∨ p.pt = 0x11 then
    let o := 8 * (p.arg % 2 ^ 22)
    owe 2 n (if tileRangeBad o n s then discardContent p s else writeVia (tileStoreBase + o) p.payload s)
  else if p.pt = 0x13 then
    owe 2 n (if carries 2 7 s = false then s else { s with lst := { s.lst with records := s.lst.records ++ nzRecords p.payload } })
  else if irSize (p.arg % 16) (ringOf p) s ≤ entryUnits p then owe 2 n (discardContent p s)
  else if entryFits p s then owe 2 n (writeIngress p s)
  else { s with ingress := { s.ingress with content := some p } }

/-- Content goes on in order until an entry waits. -/
def pumpContent : (fuel : Nat) → State → State
  | 0, s => s
  | n + 1, s =>
    match s.ingress.content, s.dlk.content with
    | none, p :: r => pumpContent n (performContent p { s with dlk := { s.dlk with content := r } })
    | _, _ => s

/-- A content packet arrives: behind those that wait, held until PROOF ends (R402). -/
def arriveContent (p : Packet) (s : State) : State :=
  let s := { s with dlk := { s.dlk with content := s.dlk.content ++ [p] } }
  if ingressHeld s then s else pumpContent s.dlk.content.length s

/-- CONTENT_RESUME (R409). -/
def execContentResume (s : State) : Host.Outcome State Fault Refusal :=
  match s.ingress.content with
  | some p =>
    if entryFits p s then
      let s := owe 2 p.payload.length (writeIngress p { s with ingress := { s.ingress with content := none } })
      .next (pumpContent s.dlk.content.length s)
    else .next s
  | none => .next s

/-! ### Stream (R411) -/

/-- Chunks of the waiting payload are written while they have room. -/
def streamWrite : (fuel : Nat) → State → State
  | 0, s => s
  | f + 1, s =>
    let l := s.ingress.stream
    if l = [] then s
    else
      let o := s.ingress.append
      let n := min l.length (64 - o % 64)
      if strWrap (o + strSize s - slowestRp s) s + n ≤ strSize s - 64 then
        streamWrite f
          { writeVia (strAddr o s) (l.take n) s with
            ingress := { s.ingress with stream := l.drop n, append := strWrap (o + n) s } }
      else s

/-- The packet in hand: its chunks, then EOR and its credits; or SWAIT. -/
def streamGo (s : State) : State :=
  let s := streamWrite (s.ingress.stream.length + 1) s
  if s.ingress.stream = [] then
    let s := if s.ingress.eor then wr R.CMP_STR_WP (w32 (s.ingress.append / 64 * 64)) s else s
    owe 1 s.ingress.len { s with ingress := { s.ingress with waiting := false, eor := false, len := 0 } }
  else { s with ingress := { s.ingress with waiting := true } }

/-- Stream packets go on in order until a chunk waits. -/
def pumpStream : (fuel : Nat) → State → State
  | 0, s => s
  | n + 1, s =>
    match s.ingress.waiting, s.dlk.stream with
    | false, p :: r =>
      pumpStream n (streamGo
        { s with dlk := { s.dlk with stream := r }
                 ingress := { s.ingress with stream := p.payload, eor := bitN p.arg 0, len := p.payload.length } })
    | _, _ => s

/-- A stream packet arrives: behind those that wait, held until PROOF ends (R402). -/
def arriveStream (p : Packet) (s : State) : State :=
  let s := { s with dlk := { s.dlk with stream := s.dlk.stream ++ [p] } }
  if ingressHeld s then s else pumpStream s.dlk.stream.length s

/-- STREAM_CHUNK_RESUME (R411). The credits of the packet are returned once it is written. -/
def execStreamChunkResume (s : State) : Host.Outcome State Fault Refusal :=
  if s.ingress.waiting then
    let s := streamGo s
    .next (pumpStream s.dlk.stream.length s)
  else .next s

/-- PROOF ends: held content and stream packets are performed (R402). -/
def releaseIngress (s : State) : State :=
  let s := pumpContent s.dlk.content.length s
  pumpStream s.dlk.stream.length s

/-- PROOF may end by a forced mode too (R402, R456): what was held goes on in the next core cycle. -/
def releaseHeld (s : State) : State := if ingressHeld s then s else releaseIngress s

/-! ### Arrival of packets (R407) -/

/-- A packet arrives on the channel of its type; a reserved type, or one that the tile sends, is discarded. -/
def arrive (p : Packet) (b : Bus) : Bus :=
  let s := b.s
  if p.pt = 0 then b
  else if p.pt = 1 ∨ p.pt = 2 then
    let c := arriveReq p s
    { c with bad := b.bad.orElse (fun _ => c.bad) }
  else if 0x10 ≤ p.pt ∧ p.pt ≤ 0x14 then { b with s := arriveContent p s }
  else if p.pt = 0x20 then { b with s := arriveStream p s }
  else { b with s := rejectIn false s }

/-- The outcome of an arrival. -/
def arrived (p : Packet) (s : State) : Host.Outcome State Fault Refusal :=
  if linkUp s then
    let b := arrive p { s := s }
    match b.bad with
    | some a => .fault (.reservedBit a)
    | none => .next b.s
  else .next s

/-- PAD (R407): ignored. -/
def execPad (_len : Nat) (s : State) : Host.Outcome State Fault Refusal := .next s

/-- RDREQ (R408). -/
def execRdreq (rid : Fin 16) (tag : BitVec 16) (addrWord : BitVec 64) (s : State) : Host.Outcome State Fault Refusal :=
  arrived { pt := 1, rid := rid, arg := tag.toNat, payload := leBytes 8 addrWord.toNat } s

/-- WRREQ (R408). -/
def execWrreq (rid : Fin 16) (tag : BitVec 16) (ackreq : Bool) (payload : List Byte) (s : State) :
    Host.Outcome State Fault Refusal :=
  arrived { pt := 2, rid := rid, arg := tag.toNat + b2n ackreq * 65536, payload := payload } s

/-- TILEUP (R409). -/
def execTileup (off : BitVec 22) (payload : List Byte) (s : State) : Host.Outcome State Fault Refusal :=
  arrived { pt := 0x10, arg := off.toNat, payload := payload } s

/-- MAPUP (R409). -/
def execMapup (off : BitVec 22) (payload : List Byte) (s : State) : Host.Outcome State Fault Refusal :=
  arrived { pt := 0x11, arg := off.toNat, payload := payload } s

/-- SPRREC (R409): the entry's first 8 bytes copy the header; its cluster is the header's. -/
def execSprrec (cl : Fin 16) (header : BitVec 64) (payload : List Byte) (s : State) : Host.Outcome State Fault Refusal :=
  arrived { pt := 0x12, rid := bitsN header.toNat 8 4, arg := bitsN header.toNat 36 28 * 16 + cl.val, payload := payload } s

/-- NZST (R409). -/
def execNzst (payload : List Byte) (s : State) : Host.Outcome State Fault Refusal :=
  arrived { pt := 0x13, payload := payload } s

/-- JOB (R409). -/
def execJob (cl : Fin 16) (header : BitVec 64) (payload : List Byte) (s : State) : Host.Outcome State Fault Refusal :=
  arrived { pt := 0x14, rid := bitsN header.toNat 8 4, arg := bitsN header.toNat 36 28 * 16 + cl.val, payload := payload } s

/-- STRDATA (R411). -/
def execStrdata (eor : Bool) (payload : List Byte) (s : State) : Host.Outcome State Fault Refusal :=
  arrived { pt := 0x20, arg := b2n eor, payload := payload } s

/-! ### Flits (R404, R405) -/

/-- The whole packets at the front of the received bytes arrive; the rest is kept. -/
def unpackRx : (fuel : Nat) → Bus → Bus
  | 0, b => b
  | f + 1, b =>
    let l := b.s.dlk.rxBytes
    let n := round8 (getLE l 2 2)
    if l.length < 8 + n ∨ l.length < 8 then b
    else
      let p : Packet := { pt := getLE l 0 1, rid := getLE l 1 1 % 16, arg := getLE l 4 4, payload := slice l 8 (getLE l 2 2) }
      unpackRx f (arrive p { b with s := { b.s with dlk := { b.s.dlk with rxBytes := l.drop (8 + n) } } })

/-- Is sequence number `q` among those up to `a`, given that the oldest unacknowledged one is `first`? -/
def covers (first a q : Nat) : Bool := decide ((q + 4096 - first) % 4096 ≤ (a + 4096 - first) % 4096 ∧ (a + 4096 - first) % 4096 < 128)

/-- The acknowledgment of a flit: frames it covers leave the replay buffer; a NAK resends from there on, and the sixteenth
without progress retrains the link. -/
def takeAck (v nak : Bool) (seq : Nat) (s : State) : State :=
  let d := s.dlk
  let kept := match d.replay with
    | [] => []
    | (first, _, _) :: _ => if v then d.replay.filter (fun e => !covers first seq e.1) else d.replay
  let gone := d.replay.length - kept.length
  let run := if gone ≠ 0 then 0 else d.nakRun
  let d := { d with replay := kept, nakRun := run
                    resend := match d.resend with
                      | some i => if kept = [] then none else some (i - gone)
                      | none => none }
  if nak then
    let d := { d with resend := if kept = [] then none else some 0, nakRun := run + 1 }
    if d.nakRun = 16 then retrainLink (dlkAlarm 0 { s with dlk := d }) else { s with dlk := d }
  else { s with dlk := d }

/-- The credits of a flit (R406). -/
def takeCredits (l : List Byte) (s : State) : State :=
  { s with dlk := { s.dlk with credits := (List.range 4).foldl (fun t c =>
      Sparse.set 0 t c (Sparse.get 0 t c + getLE l (4 + c) 1)) s.dlk.credits } }

/-- A flit is discarded: counted, and the next flit carries NAK. -/
def discardFlit (s : State) : State :=
  addSat R.DLK_CRCERR 0 16 1 { s with dlk := { s.dlk with nakOwed := true } }

/-- The DATA flit whose turn it is: its packets arrive, and then those of flits held that follow it. -/
def inTurn : (fuel : Nat) → (seq : Nat) → List Byte → Bus → Bus
  | 0, _, _, b => b
  | n + 1, seq, l, b =>
    let d := b.s.dlk
    let b := unpackRx 64 { b with s := { b.s with dlk := { d with
      rxSeq := seq, rxSeen := true, rxBytes := d.rxBytes ++ l
      early := d.early.filter (fun e => e.1 != seq) } } }
    match b.s.dlk.early.find? (fun e => e.1 == (seq + 1) % 4096) with
    | some e => inTurn n e.1 e.2 b
    | none => b

/-- Do both modules carry DATA flits alternately (R403)? -/
def bothModules (d : Dlk) : Bool := d.up0 && d.up1 && d.x80 == d.x81

/-- The flits held ahead of their turn, and the one that shows a loss, are discarded (R405). -/
def discardAhead (s : State) : State :=
  (List.range s.dlk.early.length).foldl (fun s _ => discardFlit s)
    (discardFlit { s with dlk := { s.dlk with early := [] } })

/-- FLIT_RECEIVE (R403, R405): CRC, acknowledgment, credits, sequence, packets. With both modules up, a DATA flit ahead of its
turn is held while the one due can still come over the other module; one from the module of the flit due shows that it was
lost (log entry 126: DEDUCED). -/
def execFlitReceive (flit : List Byte) (s : State) : Host.Outcome State Fault Refusal :=
  if linkUp s && decide (flit.length = 256) then
    if crc32c (flit.take 252) ≠ getLE flit 252 4 then .next (discardAhead s)
    else
      let s := takeCredits flit (takeAck (bitN (getLE flit 2 2) 12) (bitN (getLE flit 2 2) 13) (getLE flit 2 2 % 4096) s)
      let seq := getLE flit 0 2 % 4096
      if getLE flit 0 2 / 4096 = 1 then
        let ahead := (seq + 4095 - s.dlk.rxSeq) % 4096
        if ahead = 0 then
          let b := inTurn 129 seq (slice flit 12 240) { s := s }
          match b.bad with
          | some a => .fault (.reservedBit a)
          | none => .next b.s
        else if bothModules s.dlk && ahead % 2 == 1 && decide (ahead < 128) then
          .next { s with dlk := { s.dlk with
            early := s.dlk.early.filter (fun e => e.1 != seq) ++ [(seq, slice flit 12 240)] } }
        else .next (discardAhead s)
      else .next s
  else .next s

/-- The bytes of a packet. -/
def packetBytes (p : Packet) : List Byte := headerBytes p ++ p.payload

/-- Egress channels in the order tried (R412): ALARM 1, RSP 0, EVENT 2, TRACE 3. -/
def egressOf (c : Nat) (s : State) : List Packet :=
  match c with
  | 0 => s.egress.rsp
  | 1 => s.egress.alarm
  | 2 => s.egress.event
  | _ => s.egress.trace

def dropEgress (c : Nat) (s : State) : State :=
  { s with
    cyc := { s.cyc with alarms := [] }
    egress :=
      match c with
      | 0 => { s.egress with rsp := s.egress.rsp.drop 1 }
      | 1 => { s.egress with alarm := s.egress.alarm.drop 1 }
      | 2 => { s.egress with event := s.egress.event.drop 1 }
      | _ => { s.egress with trace := s.egress.trace.drop 1 } }

/-- The first packet that has its credits, with its channel. -/
def nextPacket (s : State) : Option (Nat × Packet) :=
  [1, 0, 2, 3].findSome? (fun c =>
    match egressOf c s with
    | p :: _ => if packetCredits p.payload.length ≤ Sparse.get 0 s.dlk.credits c then some (c, p) else none
    | [] => none)

/-- The payload of a DATA flit being filled: its bytes, FIRST, and the bytes of the last packet that run on. -/
structure Fill where
  bytes : List Byte
  first : Nat
  rest : List Byte
  s : State
  deriving DecidableEq, Repr

/-- Packets are started while the flit has room; a PAD packet fills what is left (R406). -/
def fillFlit : (fuel : Nat) → Fill → Fill
  | 0, x => x
  | f + 1, x =>
    let n := x.bytes.length
    if 240 ≤ n then x
    else
      let first := if x.first = 255 then n / 8 else x.first
      match nextPacket x.s with
      | some (c, p) =>
        let l := packetBytes p
        let d := x.s.dlk
        let s := dropEgress c { x.s with dlk := { d with
          credits := Sparse.set 0 d.credits c (Sparse.get 0 d.credits c - packetCredits p.payload.length) } }
        fillFlit f { bytes := x.bytes ++ l.take (240 - n), first := first, rest := l.drop (240 - n), s := s }
      | none =>
        { x with bytes := x.bytes ++ packetBytes { pt := 0, payload := List.replicate (232 - n) 0 }, first := first }

/-- The module of a flit (R403): with both modules of one width up, even FSEQ on module 0 and odd on module 1; else the wider
one, or the one that is up. An IDLE flit has no FSEQ that counts and goes as if the number it carries did. -/
def flitModule (seq : Nat) (d : Dlk) : Nat :=
  if bothModules d then seq % 2
  else if d.up0 && d.up1 then (if d.x80 then 1 else 0)
  else if d.up0 then 0 else 1

/-- The flit with its acknowledgment, credits and CRC; what it returns is no longer owed. -/
def sendFlit (typ seq first : Nat) (payload : List Byte) (s : State) : State :=
  let d := s.dlk
  let c := fun i => min 255 (Sparse.get 0 d.owed i)
  let head := leBytes 2 (seq + typ * 4096)
    ++ leBytes 2 (d.rxSeq + b2n d.rxSeen * 4096 + b2n d.nakOwed * 8192)
    ++ leBytes 4 (c 0 + c 1 * 256 + c 2 * 65536) ++ leBytes 4 first ++ payload
  let s := if d.nakOwed then addSat R.DLK_CRCERR 16 16 1 s else s
  emit (.flit (flitModule seq d) (head ++ leBytes 4 (crc32c head)))
    { s with dlk := { d with nakOwed := false, mis := 0
                             owed := [0, 1, 2].foldl (fun t i => Sparse.set 0 t i (Sparse.get 0 t i - c i)) d.owed } }

/-- The bits of an IDLE flit that the spec gives no value: sequence number and payload bytes. -/
def idleBytes (s : State) : List Byte := (List.range 240).map (fun i => BitVec.ofNat 8 (Config.freeNat (s.fresh + 1 + i)))

/-- An IDLE flit. -/
def sendIdle (s : State) : State :=
  sendFlit 2 (Config.freeNat s.fresh % 4096) 255 (idleBytes s) { s with fresh := s.fresh + 241 }

/-- A DATA flit kept for resending is sent again. -/
def resendFlit (i : Nat) (s : State) : State :=
  match s.dlk.replay[i]? with
  | some (seq, payload, first) =>
    let d := s.dlk
    addSat R.DLK_REPLAY 0 16 1
      (sendFlit 1 seq first payload { s with dlk := { d with resend := if i + 1 < d.replay.length then some (i + 1) else none } })
  | none => sendIdle { s with dlk := { s.dlk with resend := none } }

/-- A new DATA flit, or an IDLE flit where no packet runs on and none can start. -/
def newFlit (s : State) : State :=
  let d := s.dlk
  if 128 ≤ d.replay.length ∨ (d.txBytes = [] ∧ nextPacket s = none) then sendIdle s
  else
    let x := fillFlit 31 { bytes := d.txBytes.take 240, first := 255, rest := d.txBytes.drop 240, s := s }
    let d := x.s.dlk
    sendFlit 1 d.txSeq x.first x.bytes
      { x.s with dlk := { d with txSeq := (d.txSeq + 1) % 4096, txBytes := x.rest
                                 replay := d.replay ++ [(d.txSeq, x.bytes, x.first)] } }

/-- FLIT_TRANSMIT (R405, R412, R420): resent DATA flits first; after NOASP IDLE flits only. Requests that waited for room in
the RSP partition then go on. -/
def execFlitTransmit (s : State) : Host.Outcome State Fault Refusal :=
  if s.mode != .cold && s.dlk.trained && !s.dlk.testing then
    if s.dlk.noasp then .next (sendIdle s)
    else
      let s := match s.dlk.resend with
        | some i => resendFlit i s
        | none => newFlit s
      let b := pumpReq s.dlk.req.length { s := s }
      match b.bad with
      | some a => .fault (.reservedBit a)
      | none => .next b.s
  else .next s

/-! ### Alarm summaries (R415) -/

/-- A counter of type `t` is queued where there is room, and empties. -/
def summary (t : Nat) (s : State) : State :=
  let c := coalOf t s
  if c.count ≠ 0 ∧ queueBytes s.egress.alarm + 40 ≤ 8192 then
    { s with cyc := { s.cyc with alarms := [] }
             egress := { s.egress with alarm := s.egress.alarm ++ [alarmPacket t true c]
                                       coal := Sparse.set {} s.egress.coal t {} } }
  else s

/-- ALARM_SUMMARY (R415): non-empty counters in increasing type. After NOASP alarms coalesce (R420). -/
def execAlarmSummary (s : State) : Host.Outcome State Fault Refusal :=
  if s.dlk.noasp then .next s else .next ((List.range 64).foldl (fun s t => summary t s) s)

/-! ### ASP engine (R420) -/

/-- No engine is left: IDLE flits only, alarms coalesce; no mode is forced. -/
def noAsp (s : State) : State :=
  redLost 11 (dlkAlarm 5 { s with dlk := { s.dlk with noasp := true, testing := false, engines := 0 } })

/-- ASP_MISMATCH (R420): the flit is rebuilt; a second mismatch on it starts the self-test; one after a self-test that both
engines passed counts as both failing. -/
def execAspMismatch (s : State) : Host.Outcome State Fault Refusal :=
  let d := s.dlk
  if d.engines = 2 && !d.testing && s.mode != .cold then
    let s := dlkAlarm 3 s
    match d.mis with
    | 0 => .next { s with dlk := { s.dlk with mis := 1 } }
    | 1 => .next { s with dlk := { s.dlk with testing := true } }
    | _ => .next (noAsp s)
  else .next s

/-- ASP_SELF_TEST_END (R420). -/
def execAspSelfTestEnd (pass0 pass1 : Bool) (s : State) : Host.Outcome State Fault Refusal :=
  if s.dlk.testing then
    let s := { s with dlk := { s.dlk with testing := false } }
    match b2n pass0 + b2n pass1 with
    | 2 => .next { s with dlk := { s.dlk with mis := 2 } }
    | 1 => .next (redLost 11 (dlkAlarm 4 { s with dlk := { s.dlk with engines := 1, mis := 0 } }))
    | _ => .next (noAsp s)
  else .next s

end Sys2Proof.Machine
end

