-- ==== Sys2Proof/Machine/Digest.lean ====
section
/-! DEFINITION. The digest and the signature of the starter image (R20, R432, R433): SHA-256 as FIPS 180-4 has it, and the
verification of pure Ed25519 as RFC 8032 has it. The constants and formulas are those of the two standards, which the spec
names and does not write out (log entry 9: PRESUMED). -/

namespace Sys2Proof.Machine

/-! ### SHA-2 -/

/-- A SHA-2 function: bits of a word, round constants, first hash value, and the amounts of Σ0, Σ1, σ0, σ1: two or three
rotations, and for σ a shift at last. -/
structure Sha where
  bits : Nat
  consts : List Nat
  init : List Nat
  big0 : List Nat
  big1 : List Nat
  small0 : List Nat
  small1 : List Nat
  deriving DecidableEq, Repr

def sha256Consts : List Nat :=
  [0x428A2F98, 0x71374491, 0xB5C0FBCF, 0xE9B5DBA5, 0x3956C25B, 0x59F111F1, 0x923F82A4, 0xAB1C5ED5] ++
  [0xD807AA98, 0x12835B01, 0x243185BE, 0x550C7DC3, 0x72BE5D74, 0x80DEB1FE, 0x9BDC06A7, 0xC19BF174] ++
  [0xE49B69C1, 0xEFBE4786, 0xFC19DC6, 0x240CA1CC, 0x2DE92C6F, 0x4A7484AA, 0x5CB0A9DC, 0x76F988DA] ++
  [0x983E5152, 0xA831C66D, 0xB00327C8, 0xBF597FC7, 0xC6E00BF3, 0xD5A79147, 0x6CA6351, 0x14292967] ++
  [0x27B70A85, 0x2E1B2138, 0x4D2C6DFC, 0x53380D13, 0x650A7354, 0x766A0ABB, 0x81C2C92E, 0x92722C85] ++
  [0xA2BFE8A1, 0xA81A664B, 0xC24B8B70, 0xC76C51A3, 0xD192E819, 0xD6990624, 0xF40E3585, 0x106AA070] ++
  [0x19A4C116, 0x1E376C08, 0x2748774C, 0x34B0BCB5, 0x391C0CB3, 0x4ED8AA4A, 0x5B9CCA4F, 0x682E6FF3] ++
  [0x748F82EE, 0x78A5636F, 0x84C87814, 0x8CC70208, 0x90BEFFFA, 0xA4506CEB, 0xBEF9A3F7, 0xC67178F2]

def sha512Consts : List Nat :=
  [0x428A2F98D728AE22, 0x7137449123EF65CD, 0xB5C0FBCFEC4D3B2F, 0xE9B5DBA58189DBBC, 0x3956C25BF348B538] ++
  [0x59F111F1B605D019, 0x923F82A4AF194F9B, 0xAB1C5ED5DA6D8118, 0xD807AA98A3030242, 0x12835B0145706FBE] ++
  [0x243185BE4EE4B28C, 0x550C7DC3D5FFB4E2, 0x72BE5D74F27B896F, 0x80DEB1FE3B1696B1, 0x9BDC06A725C71235] ++
  [0xC19BF174CF692694, 0xE49B69C19EF14AD2, 0xEFBE4786384F25E3, 0xFC19DC68B8CD5B5, 0x240CA1CC77AC9C65] ++
  [0x2DE92C6F592B0275, 0x4A7484AA6EA6E483, 0x5CB0A9DCBD41FBD4, 0x76F988DA831153B5, 0x983E5152EE66DFAB] ++
  [0xA831C66D2DB43210, 0xB00327C898FB213F, 0xBF597FC7BEEF0EE4, 0xC6E00BF33DA88FC2, 0xD5A79147930AA725] ++
  [0x6CA6351E003826F, 0x142929670A0E6E70, 0x27B70A8546D22FFC, 0x2E1B21385C26C926, 0x4D2C6DFC5AC42AED] ++
  [0x53380D139D95B3DF, 0x650A73548BAF63DE, 0x766A0ABB3C77B2A8, 0x81C2C92E47EDAEE6, 0x92722C851482353B] ++
  [0xA2BFE8A14CF10364, 0xA81A664BBC423001, 0xC24B8B70D0F89791, 0xC76C51A30654BE30, 0xD192E819D6EF5218] ++
  [0xD69906245565A910, 0xF40E35855771202A, 0x106AA07032BBD1B8, 0x19A4C116B8D2D0C8, 0x1E376C085141AB53] ++
  [0x2748774CDF8EEB99, 0x34B0BCB5E19B48A8, 0x391C0CB3C5C95A63, 0x4ED8AA4AE3418ACB, 0x5B9CCA4F7763E373] ++
  [0x682E6FF3D6B2B8A3, 0x748F82EE5DEFB2FC, 0x78A5636F43172F60, 0x84C87814A1F0AB72, 0x8CC702081A6439EC] ++
  [0x90BEFFFA23631E28, 0xA4506CEBDE82BDE9, 0xBEF9A3F7B2C67915, 0xC67178F2E372532B, 0xCA273ECEEA26619C] ++
  [0xD186B8C721C0C207, 0xEADA7DD6CDE0EB1E, 0xF57D4F7FEE6ED178, 0x6F067AA72176FBA, 0xA637DC5A2C898A6] ++
  [0x113F9804BEF90DAE, 0x1B710B35131C471B, 0x28DB77F523047D84, 0x32CAAB7B40C72493, 0x3C9EBE0A15C9BEBC] ++
  [0x431D67C49C100D4C, 0x4CC5D4BECB3E42B6, 0x597F299CFC657E2A, 0x5FCB6FAB3AD6FAEC, 0x6C44198C4A475817]

def sha256Shape : Sha :=
  { bits := 32, consts := sha256Consts
    init := [0x6A09E667, 0xBB67AE85, 0x3C6EF372, 0xA54FF53A, 0x510E527F, 0x9B05688C, 0x1F83D9AB, 0x5BE0CD19]
    big0 := [2, 13, 22], big1 := [6, 11, 25], small0 := [7, 18, 3], small1 := [17, 19, 10] }

def sha512Shape : Sha :=
  { bits := 64, consts := sha512Consts
    init := [0x6A09E667F3BCC908, 0xBB67AE8584CAA73B, 0x3C6EF372FE94F82B, 0xA54FF53A5F1D36F1] ++
      [0x510E527FADE682D1, 0x9B05688C2B3E6C1F, 0x1F83D9ABFB41BD6B, 0x5BE0CD19137E2179]
    big0 := [28, 34, 39], big1 := [14, 18, 41], small0 := [1, 8, 7], small1 := [19, 61, 6] }

/-- A word rotated right. -/
def rotr (w n x : Nat) : Nat := x / 2 ^ n + x % 2 ^ n * 2 ^ (w - n)

/-- Σ: three rotations. -/
def bigSigma (w : Nat) (l : List Nat) (x : Nat) : Nat :=
  Nat.xor (Nat.xor (rotr w (l.getD 0 0) x) (rotr w (l.getD 1 0) x)) (rotr w (l.getD 2 0) x)

/-- σ: two rotations and a shift. -/
def smallSigma (w : Nat) (l : List Nat) (x : Nat) : Nat :=
  Nat.xor (Nat.xor (rotr w (l.getD 0 0) x) (rotr w (l.getD 1 0) x)) (x / 2 ^ l.getD 2 0)

/-- A big-endian number. -/
def beNat (l : List Byte) : Nat := leNat l.reverse

def beBytes (n v : Nat) : List Byte := (leBytes n v).reverse

/-- The message schedule, newest word first: `n` more words after `l`. -/
def schedule (h : Sha) : (n : Nat) → (l : List Nat) → List Nat
  | 0, l => l
  | n + 1, l =>
    schedule h n ((smallSigma h.bits h.small1 (l.getD 1 0) + l.getD 6 0 + smallSigma h.bits h.small0 (l.getD 14 0)
      + l.getD 15 0) % 2 ^ h.bits :: l)

/-- A round with constant and schedule word `k`, `w` on the working variables a to h. -/
def shaRound (h : Sha) (v : List Nat) (kw : Nat × Nat) : List Nat :=
  let x := fun i => v.getD i 0
  let m := 2 ^ h.bits
  let ch := Nat.xor (Nat.land (x 4) (x 5)) (Nat.land (m - 1 - x 4) (x 6))
  let maj := Nat.xor (Nat.xor (Nat.land (x 0) (x 1)) (Nat.land (x 0) (x 2))) (Nat.land (x 1) (x 2))
  let t1 := x 7 + bigSigma h.bits h.big1 (x 4) + ch + kw.1 + kw.2
  let t2 := bigSigma h.bits h.big0 (x 0) + maj
  [(t1 + t2) % m, x 0, x 1, x 2, (x 3 + t1) % m, x 4, x 5, x 6]

/-- A block of 16 words taken into the hash value. -/
def shaBlock (h : Sha) (v : List Nat) (block : List Byte) : List Nat :=
  let b := h.bits / 8
  let first := (List.range 16).map (fun i => beNat (slice block (b * i) b))
  let ws := (schedule h (h.consts.length - 16) first.reverse).reverse
  List.zipWith (fun x y => (x + y) % 2 ^ h.bits) v ((h.consts.zip ws).foldl (shaRound h) v)

/-- The message padded to whole blocks: a 1 bit, zeros, its length in bits. -/
def shaPad (h : Sha) (m : List Byte) : List Byte :=
  let b := 2 * h.bits
  let tail := h.bits / 4
  m ++ [0x80] ++ List.replicate ((2 * b - (m.length + 1 + tail) % b) % b) 0 ++ beBytes tail (8 * m.length)

/-- The blocks of a padded message, one after another. -/
def shaBlocks (h : Sha) : (n : Nat) → List Byte → List Nat → List Nat
  | 0, _, v => v
  | n + 1, l, v => shaBlocks h n (l.drop (2 * h.bits)) (shaBlock h v (l.take (2 * h.bits)))

/-- The digest of a message. -/
def sha (h : Sha) (m : List Byte) : List Byte :=
  let l := shaPad h m
  (shaBlocks h (l.length / (2 * h.bits)) l h.init).flatMap (fun x => beBytes (h.bits / 8) x)

/-- SHA-256 (R20, R432): byte i of the digest in bits 8i to 8i + 7. -/
@[irreducible]
def sha256 (m : List Byte) : BitVec 256 := BitVec.ofNat 256 (leNat (sha sha256Shape m))

/-! ### Ed25519 -/

/-- The field prime, the curve's d, the order of the base point. -/
def edP : Nat := 2 ^ 255 - 19
def edD : Nat := 37095705934669439343138083508754565189542113879843219016388785533085940283555
def edL : Nat := 2 ^ 252 + 27742317777372353535851937790883648493

/-- x to the power e modulo p, over the low 256 bits of e. -/
def powMod (x e : Nat) : Nat :=
  ((List.range 256).foldl (fun (r : Nat × Nat) i => (if bitN e i then r.1 * r.2 % edP else r.1, r.2 * r.2 % edP)) (1, x)).1

def subMod (a b : Nat) : Nat := (a + edP - b % edP) % edP

/-- A point in extended homogeneous coordinates. -/
structure EdPoint where
  x : Nat
  y : Nat
  z : Nat
  t : Nat
  deriving DecidableEq, Repr

def edZero : EdPoint := { x := 0, y := 1, z := 1, t := 0 }

/-- The sum of two points. -/
def edAdd (p q : EdPoint) : EdPoint :=
  let a := subMod p.y p.x * subMod q.y q.x % edP
  let b := (p.y + p.x) * (q.y + q.x) % edP
  let c := p.t * 2 * edD * q.t % edP
  let d := p.z * 2 * q.z % edP
  let e := subMod b a
  let f := subMod d c
  let g := d + c
  let h := b + a
  { x := e * f % edP, y := g * h % edP, z := f * g % edP, t := e * h % edP }

/-- n times a point, over the low 256 bits of n. -/
def edMul (n : Nat) (p : EdPoint) : EdPoint :=
  ((List.range 256).foldl (fun (r : EdPoint × EdPoint) i => (if bitN n i then edAdd r.1 r.2 else r.1, edAdd r.2 r.2))
    (edZero, p)).1

/-- Are two points one? -/
def edSame (p q : EdPoint) : Bool := p.x * q.z % edP == q.x * p.z % edP && p.y * q.z % edP == q.y * p.z % edP

/-- A square root of u ÷ v, where there is one. -/
def edRoot (u v : Nat) : Option Nat :=
  let v3 := v * v % edP * v % edP
  let x := u * v3 % edP * powMod (u * v3 % edP * v3 % edP * v % edP) ((edP - 5) / 8) % edP
  let w := v * x % edP * x % edP
  if w = u % edP then some x
  else if w = subMod 0 u then some (x * powMod 2 ((edP - 1) / 4) % edP)
  else none

/-- A point from its 32 bytes: y, and the lowest bit of x on top. -/
def edPoint (l : List Byte) : Option EdPoint :=
  let n := leNat l
  let y := n % 2 ^ 255
  let odd := n / 2 ^ 255 % 2
  if edP ≤ y then none
  else
    match edRoot (subMod (y * y) 1) ((edD * y % edP * y + 1) % edP) with
    | none => none
    | some x =>
      if x = 0 ∧ odd = 1 then none
      else
        let x := if x % 2 = odd then x else edP - x
        some { x := x, y := y, z := 1, t := x * y % edP }

/-- The base point, y = 4 ÷ 5. -/
def edBase : Option EdPoint := edPoint (leBytes 32 (4 * powMod 5 (edP - 2) % edP))

/-- Does the signature verify (R433)? The group equation is the one with the cofactor 8. -/
@[irreducible]
def ed25519 (key msg sig : List Byte) : Bool :=
  let s := leNat (slice sig 32 32)
  match edPoint (slice key 0 32), edPoint (slice sig 0 32), edBase with
  | some a, some r, some b =>
    let k := leNat (sha sha512Shape (slice sig 0 32 ++ slice key 0 32 ++ msg)) % edL
    decide (s < edL) && edSame (edMul 8 (edMul s b)) (edMul 8 (edAdd r (edMul k a)))
  | _, _, _ => false

end Sys2Proof.Machine
end

