-- ==== Sys2Proof/Machine/Loader.lean ====
section
/-! DEFINITION. The starter loader (R426 to R437), the class-0 slot check (R393, R394), reset (R478) and the end of PROOF
(R454). What the loader reads of the flash is the operand of the command that ends the phase. -/

namespace Sys2Proof.Machine

/-! ### Reset (R478) -/

/-- RESET_ASSERT (R478, R467): COLD, every pin low. The test port has its own reset (R475) and keeps its state, as do the
fuses; commands wait on and the model's history of the outputs goes on. -/
def execResetAssert (s : State) : Host.Outcome State Fault Refusal :=
  .next (emit .protective { State.reset with pending := s.pending, fresh := s.fresh, jtag := s.jtag, wire := s.wire })

/-! ### Phases (R434) -/

/-- STA_STAT.PHASE. -/
def phaseOf (s : State) : Nat := rf R.STA_STAT 0 3 s

/-- Does the loader work in phase `n`? -/
def inPhase (n : Nat) (s : State) : Bool := s.mode == .load && phaseOf s == n

def setPhase (n : Nat) (s : State) : State := wf R.STA_STAT 0 3 n s

/-- The first failure is kept (R436). -/
def noteCode (code : Nat) (s : State) : State := if rf R.STA_STAT 16 8 s = 0 then wf R.STA_STAT 16 8 code s else s

/-- The flash port is released: its pins are high-impedance (R427). -/
def releasePort (s : State) : State :=
  if s.loader.drives then emit (.flash .release) { s with loader := { s.loader with drives := false } } else s

/-- Start of the copy in hand (R428). -/
def copyBase (s : State) : Nat := if rb R.STA_STAT 9 s then 0x4000000 else 0

/-- 4-byte addresses (R426): SFDP gives a density above 16 MiB. -/
def fourBytes (s : State) : Bool :=
  match s.loader.flash with
  | some f => f.sfdp && decide (25 ≤ f.density.toNat)
  | none => false

/-- A read of the copy from its byte `o` onward begins. -/
def readFrom (o : Nat) (s : State) : State := emit (.flash (.read (rf R.STA_STAT 6 2 s) (fourBytes s) (copyBase s + o))) s

/-- Phase 1: header and section table are read. A port that a rejected copy released is driven again (log entry 127:
DEDUCED). -/
def startTable (s : State) : State :=
  readFrom 0 (setPhase 1 { s with loader := { s.loader with drives := true } })

/-- Phase 3: sections and trailer are read. -/
def startRead (s : State) : State := readFrom s.loader.hdr.length (setPhase 3 s)

/-- The load fails (R436): the port is released, PHASE 7 and the alarm of the first failure; the tile stays in LOAD. -/
def failLoad (code : Nat) (s : State) : State :=
  let s := setPhase 7 (noteCode code (releasePort s))
  tileAlarm (rf R.STA_STAT 16 8 s) {} s

/-- LOAD is entered from COLD (R453): a mode change like any other. -/
def enterLoad (s : State) : State := setMode .load 0 false s

/-- Registers that a reload from copy B leaves alone (R436): the die link's, the repairs, what the loader found. -/
def keptReg (a : Nat) : Bool :=
  a / 0x10000 == 0x3000A || a / 0x10000 == 0x3000B || a == R.LST_SLICE || a == R.STA_STAT || a == R.STA_REPAIR
    || a == R.STA_FLASH || (List.range 16).any (fun cl => a == R.PAN_SPARE cl || a == R.PAN_LSPARE cl)

/-- Copy A is rejected: copy B is loaded from phase 1 where it can be read, every unit but the die link, the fuses and the
repairs as on leaving COLD, POS_TIME at 0 with them; else the load fails (R436, R450). What the detection found is kept. -/
def rejectCopy (code : Nat) (s : State) : State :=
  if s.loader.hasB && !rb R.STA_STAT 9 s then
    let s := wb R.STA_STAT 11 false (wb R.STA_STAT 9 true (noteCode code s))
    tileAlarm 0x18 {} (startTable (enterLoad { State.reset with
      pending := s.pending, fresh := s.fresh, jtag := s.jtag, wire := s.wire
      regs := s.regs.filter (fun e => keptReg e.1)
      lst := { State.reset.lst with deadSpares := s.lst.deadSpares }
      dlk := s.dlk, egress := s.egress, ingress := s.ingress, rdata := s.rdata, rstat := s.rstat
      loader := { flash := s.loader.flash, hasB := true, spent := s.loader.spent + s.time } }))
  else failLoad code s

/-- The detection ends (R426, R434): the transfer mode stands, what SFDP gives is shown, and phase 1 begins; no flash fails
the load. -/
def endDetect (f : FlashInfo) (s : State) : State :=
  if f.present then
    let m := if f.sfdp && f.octal then 3 else if f.sfdp && f.quad then 2 else 1
    let s := if m = 3 then emit (.flash .enterOctal) s else s
    let s := wf R.STA_STAT 6 2 m s
    startTable (if f.sfdp then wr R.STA_FLASH (w32 (f.revision.toNat + f.density.toNat * 256)) s else s)
  else failLoad 0x10 s

/-- The detection, where it goes on, is over. -/
def detected (s : State) : State :=
  match s.loader.flash with
  | some f => if inPhase 0 s then endDetect f s else s
  | none => s

/-- Time passes: the detection ends within 100 µs, at a moment that the spec leaves open (log entry 127). -/
def detectTick (s : State) : State :=
  if s.mode = .load then (if s.loader.detectEnds ≤ s.time then detected s else s) else s

/-- COLD_END (R478, R402, R426): POS_TIME starts, the die link trains, LOAD begins and with it the detection: the loader
drives the flash port, resets the flash and reads SFDP. A fuse bit in progress is the last (R485). -/
def execColdEnd (flash : FlashInfo) (s : State) : Host.Outcome State Fault Refusal :=
  if s.mode = .cold then
    let s := enterLoad { s with
      time := 0
      loader := { flash := some flash, hasB := flash.sfdp && decide (27 ≤ flash.density.toNat)
                  drives := true, detectEnds := Config.freeNat s.fresh % 400001 }
      fresh := s.fresh + 1
      dlk := { s.dlk with training := true }
      jtag := { s.jtag with prog := s.jtag.prog.take 1 } }
    .next (emit (.flash .readSfdp) (emit (.flash (.resetPair false)) (emit (.flash (.resetPair true)) s)))
  else .next s

/-! ### Header and section table (R428 to R430) -/

/-- An entry of the section table. -/
def sectionAt (img : List Byte) (i : Nat) : Section :=
  let b := 256 + 32 * i
  { typ := getLE img b 1, off := getLE img (b + 4) 4, len := getLE img (b + 8) 4, dest := getLE img (b + 12) 5 % 2 ^ 36 }

def sectionsOf (img : List Byte) : List Section := (List.range (getLE img 12 2)).map (sectionAt img)

/-- Does a range of `n` bytes at `a` lie within one store that MEM sections may name (R429)? -/
def memRange (a n : Nat) : Bool :=
  match placeOf a with
  | .tileStore => decide (a + n ≤ 0xA000000)
  | .pantry cl => decide (a + n ≤ pantryBase cl + 0x100000)
  | .localRam cl m => decide (a + n ≤ localBase cl m + 0x10000)
  | _ => false

/-- Sections in rising order of offset, apart, between the table and IMGLEN. -/
def sectionsApart : (lo hi : Nat) → List Section → Bool
  | _, _, [] => true
  | lo, hi, x :: r => decide (lo ≤ x.off ∧ x.off + x.len ≤ hi) && sectionsApart (x.off + x.len) hi r

/-- Is the section table malformed (R430)? -/
def badTable (img : List Byte) : Bool :=
  let l := sectionsOf img
  let n (t : Nat) : Nat := (l.filter (fun x => x.typ == t)).length
  !sectionsApart (256 + 32 * l.length) (getLE img 8 4) l
    || l.any (fun x => decide (x.typ = 0 ∨ 5 < x.typ))
    || n 4 != 1 || decide (1 < n 1)
    || l.any (fun x => x.typ == 2 && !memRange x.dest x.len)
    || l.any (fun x => x.typ == 1 && x.len != 576)

/-- Is the header wrong (R428, R450)? -/
def badHeader (img : List Byte) : Bool :=
  getLE img 0 4 != 0x3834514A || getLE img 4 2 != 1 || getLE img 6 2 != 256

/-- What the loader reads of a copy: without SFDP it reaches the first 16 MiB only, and what it would get beyond is free
(R426, log entry 127). -/
def within (image : List Byte) (s : State) : List Byte :=
  match s.loader.flash with
  | some f =>
    if f.sfdp then image
    else image.take (2 ^ 24) ++ (List.range (image.length - 2 ^ 24)).map (fun i => BitVec.ofNat 8 (Config.freeNat (s.fresh + i)))
  | none => image

/-- SECTION_TABLE_READ (R428, R430, R434): phase 1 ends, the detection before it. -/
def execSectionTableRead (image : List Byte) (s : State) : Host.Outcome State Fault Refusal :=
  let s := detected s
  if inPhase 1 s then
    if badHeader image then .next (rejectCopy 0x11 s)
    else
      let s := s |> wr R.STA_IMGID (w32 (getLE image 20 4)) |> wr R.STA_SVN (w32 (getLE image 16 4 % 64))
        |> wr R.STA_IMGLEN (w32 (getLE image 8 4))
      if badTable image then .next (rejectCopy 0x12 s)
      else
        let l := sectionsOf image
        let s := { s with loader := { s.loader with hdr := slice image 0 (256 + 32 * l.length), secs := l } }
        .next (if s.loader.tested then startRead s else setPhase 2 s)
  else .next s

/-! ### Self-test (R435) -/

/-- A failing line-store slice takes the first free spare (R174). -/
def repairSlice (k : Nat) (s : State) : Option State :=
  match [0, 1].find? (fun i => (spareOf i s).isNone && !s.lst.deadSpares.contains i) with
  | some i => some (wf R.LST_SLICE (8 + 8 * i) 7 k s)
  | none => none

/-- A failing row of bank `k` takes one of four spares (R351). -/
def repairRow (cl k : Nat) (s : State) : Option State :=
  let used := rf (R.PAN_SPARE cl) (4 * k) 3 s
  if used < 4 then some (wf (R.PAN_SPARE cl) (4 * k) 3 (used + 1) s) else none

/-- A failing region of cell `m` takes one of two spares (R351). -/
def repairRegion (cl m : Nat) (s : State) : Option State :=
  let used := rf (R.PAN_LSPARE cl) (2 * m) 2 s
  if used < 2 then some (wf (R.PAN_LSPARE cl) (2 * m) 2 (used + 1) s) else none

/-- The repairs made one after another, each with a spare it finds: the state, how many were made, whether one found none. -/
def repairAll {α : Type} (f : α → State → Option State) (l : List α) (r : State × Nat × Bool) : State × Nat × Bool :=
  l.foldl (fun r x =>
    match f x r.1 with
    | some s => (s, r.2.1 + 1, r.2.2)
    | none => (r.1, r.2.1, true)) r

/-- Failing slices 72 and 73 are the spares: they are free no more, and that alone fails nothing (log entry 127: DEDUCED). -/
def deadSpare (l : List (Fin 74)) (s : State) : State :=
  let d := (l.filter (fun (k : Fin 74) => decide (72 ≤ k.val))).map (fun (k : Fin 74) => k.val - 72)
  if d = [] then s else { s with lst := { s.lst with deadSpares := (s.lst.deadSpares ++ d).eraseDups } }

/-- LOAD_SELF_TEST_END (R435): every word zero, failures repaired and the repairs counted; a failure that finds no spare, or
one of the tile store, fails the load. STA_REPAIR holds 8 bits: above 255 repairs its value is free. -/
def execLoadSelfTestEnd (t : SelfTest) (s : State) : Host.Outcome State Fault Refusal :=
  if s.mode == .load && decide (phaseOf s < 3) && !s.loader.tested then
    let s := { s with mem := [], ue := [], ce := [], loader := { s.loader with tested := true } }
    let r := repairAll (fun (x : Fin 16 × Fin 16) => repairRegion x.1.val x.2.val) t.regions
      (repairAll (fun (x : Fin 16 × Fin 4) => repairRow x.1.val x.2.val) t.rows
        (repairAll (fun (k : Fin 74) => repairSlice k.val) (t.slices.filter (fun (k : Fin 74) => decide (k.val < 72))) (deadSpare t.slices s, 0, false)))
    let s := r.1
    let n := rf R.STA_REPAIR 0 8 s + r.2.1
    let s := if n < 256 then wf R.STA_REPAIR 0 8 n s else drawn (wf R.STA_REPAIR 0 8 (Config.freeNat s.fresh) s)
    .next (if r.2.2 || t.tileStore then failLoad 0x16 s else if phaseOf s = 2 then startRead s else s)
  else .next s

/-! ### Reading and writing the sections (R429, R431, R432) -/

/-- The 4-byte words of a PATCH section: points 0 to 15, then entries. -/
def loadPatch (l : List Byte) (s : State) : State :=
  (List.range 144).foldl (fun s i => { s with patch := Sparse.set 0 s.patch i (getLE l (4 * i) 4) }) s

/-- One section written. The result tells the loader's register accesses (R430). -/
def loadSection (img : List Byte) (x : Section) (b : Bus) : Bus :=
  let l := slice img x.off x.len
  match x.typ with
  | 1 => { b with s := loadPatch l b.s }
  | 2 => { b with s := writeBytes x.dest l b.s }
  | 3 =>
    if isRegPlace x.dest = false ∨ x.dest % 4 ≠ 0 then { b with stat := 1 }
    else writeWords .loader x.dest (toWords l) b
  | _ => b

/-- A digest shown in eight registers, byte i in word i ÷ 4 (R448). -/
def showDigest (reg : Nat → Nat) (d : BitVec 256) (s : State) : State :=
  (List.range 8).foldl (fun s j => wr (reg j) (d.extractLsb' (32 * j) 32) s) s

/-- IMAGE_READ_COMPLETE (R427, R430 to R432): the port is released, every section is written in order, the three digests stand, the trailer is in
hand. -/
def execImageReadComplete (image : List Byte) (s : State) : Host.Outcome State Fault Refusal :=
  if inPhase 3 s then
    let h := s.loader.hdr
    let n := getLE h 8 4
    let image := within image s
    let img := slice (h ++ image.drop h.length) 0 n
    let s := releasePort { s with fresh := s.fresh + image.length }
    let b := s.loader.secs.foldl (fun b x => loadSection img x b) { s := s }
    match b.bad with
    | some a => .fault (.reservedBit a)
    | none =>
      let s := b.s
      if b.stat = 1 ∨ b.stat = 3 then .next (rejectCopy 0x12 s)
      else
        let i := (s.loader.secs.find? (fun x => x.typ == 4)).getD { typ := 4, off := 0, len := 0, dest := 0 }
        let inst := slice img i.off i.len
        let idig := sha256 img
        let bdig := sha256 (img.take i.off ++ img.drop (i.off + i.len))
        let tpos := getLE h 29 1
        let s := s |> showDigest R.STA_IDIG idig |> showDigest R.STA_BDIG bdig |> showDigest R.STA_CDIG (sha256 inst)
        .next (setPhase 4 { s with loader := { s.loader with
          trailer := slice (image.drop n) 0 128
          bodyOk := decide (tpos < getLE inst 8 1) && slice inst (16 + 32 * tpos) 32 == leBytes 32 bdig.toNat } })
  else .next s

/-! ### Verification (R433) -/

/-- The image digest as the registers hold it. -/
def imageDigest (s : State) : Nat := ((List.range 8).map (fun j => (rd (R.STA_IDIG j) s).toNat * 2 ^ (32 * j))).sum

/-- Do key hash and signature accept the copy? -/
def signatureOk (s : State) : Bool :=
  let t := s.loader.trailer
  let key := slice t 96 32
  getLE s.loader.hdr 14 2 % 2 == 1
    && (sha256 key).toNat == bitsN s.jtag.fuses.toNat 33 256
    && ed25519 key (leBytes 32 (imageDigest s)) (slice t 32 64)

/-- VERIFY_COMPLETE (R432, R433). -/
def execVerifyComplete (s : State) : Host.Outcome State Fault Refusal :=
  if inPhase 4 s then
    let sigen := s.jtag.fuses.getLsbD 0
    let blown := (bitList (bitsN s.jtag.fuses.toNat 1 32) 32).length
    if slice s.loader.trailer 0 32 != leBytes 32 (imageDigest s) || !s.loader.bodyOk then .next (rejectCopy 0x13 s)
    else if sigen && !signatureOk s then .next (rejectCopy 0x14 s)
    else
      let s := if sigen then wb R.STA_STAT 11 true s else s
      if getLE s.loader.hdr 16 4 < blown then .next (rejectCopy 0x15 s) else .next (setPhase 5 s)
  else .next s

/-! ### Slot check (R384, R388, R393, R394) -/

/-- Source and destination node of flow `f`; none for a reserved flow. -/
def flowEnds (f : Nat) : Option (Nat × Nat) :=
  if f < 0x40 then some (sliceNode (f % 4), clusterNode (f / 4))
  else if f < 0x80 then some (clusterNode (f % 0x40 / 4), sliceNode (f % 4))
  else if f < 0x84 then some (7, sliceNode (f % 4))
  else if f < 0x88 then some (sliceNode (f % 4), 12)
  else if f < 0x8C then some (12, sliceNode (f % 4))
  else if f < 0x90 then none
  else if f < 0xB0 then some (7, clusterNode (f % 16))
  else if f = 0xB0 then some (17, 12)
  else if f = 0xB1 then some (17, 7)
  else none

/-- The links of a route, each as 20 × node + next node. -/
def routeLinks : (fuel : Nat) → (a b : Nat) → List Nat
  | 0, _, _ => []
  | n + 1, a, b => if a = b then [] else (20 * a + nextNode a b) :: routeLinks n (nextNode a b) b

/-- A 64-bit slot mask `k` slots on. -/
def slotsOn (m k : Nat) : Nat := (m * 2 ^ k + m * 2 ^ k / 2 ^ 64) % 2 ^ 64

def flowMask (f : Nat) (s : State) : Nat := (rd (R.FAB_FLOW_SL f) s).toNat + (rd (R.FAB_FLOW_SH f) s).toNat * 2 ^ 32

/-- Slots that a flow uses: link and mask, hop by hop. -/
def flowUse (f : Nat) (s : State) : List (Nat × Nat) :=
  match flowEnds f with
  | some (a, b) =>
    let l := routeLinks 8 a b
    (List.range l.length).map (fun k => (l.getD k 0, slotsOn (flowMask f s) (4 * k)))
  | none => []

/-- Does a use meet an earlier one of its link? -/
def clash : List (Nat × Nat) → Tab Nat → Bool
  | [], _ => false
  | (l, m) :: r, t =>
    let old := Sparse.get 0 t l
    Nat.land old m != 0 || clash r (Sparse.set 0 t l (Nat.lor old m))

/-- A collision, or a slot in a reserved flow. -/
def slotCollision (s : State) : Bool :=
  (List.range 256).any (fun f => (flowEnds f).isNone && flowMask f s != 0)
    || clash ((List.range 256).flatMap (fun f => flowUse f s)) []

/-! ### DONE (R437) -/

/-- Sealing, the position and what the registers show of the load (R437, items 2 and 3). -/
def sealLoad (s : State) : State :=
  let line := sext 40 (getLE s.loader.hdr 24 5)
  let put := fun (x : Dec) => { x with p := 256 * line, r := 0 }
  let s := { s with
    sealed := true, img := s.fresh + 1, fresh := s.fresh + 1, proofAt := s.time, wdAt := s.time
    pos := { s.pos with d0 := put s.pos.d0, d1 := put s.pos.d1, base := put s.pos.base, hwm := line, countAt := s.time } }
  indexFlags s |> wb R.STA_STAT 10 true |> setPhase 6 |> wr R.SYN_EPOCH 0
    |> wf R.STA_MCVER 0 8 (getLE s.loader.hdr 30 1) |> wr R.STA_LOADT (w32 ((s.loader.spent + s.time) / 4000))

/-- The start of PROOF (R203, R241, R312, R437, item 5): the lanes train, the JESD204B link starts, the contexts named in
the image start; the die link trains again where the image's MAXRATE is below
16 GT/s (R402). -/
def startProof (s : State) : State :=
  let s := jesdStart ((List.range 8).foldl (fun s k => retrainPort k s) s)
  let s := (List.range 256).foldl (fun s i => startSet (i / 16) (i % 16) s) s
  if maxRate s < 3 && s.dlk.trained then retrainLink s else s

/-- DONE (R437): the port stands released (item 1), sealing and the position (2, 3), PROOF and its starts (4, 5). -/
def finishLoad (s : State) : State := startProof (setMode .proof 0 false (renumber (sealLoad (releasePort s))))

/-- SLOT_CHECK_COMPLETE (R393, R437). -/
def execSlotCheckComplete (s : State) : Host.Outcome State Fault Refusal :=
  if inPhase 5 s then
    if slotCollision s then .next (failLoad 0x17 s) else .next (finishLoad s)
  else .next s

/-! ### The end of PROOF (R454) -/

/-- May PROOF end? A head takes part in no DIGMIS check (R442), so the rotation is asked of the others. -/
def proofDone (s : State) : Bool :=
  (List.range 8).all (fun k => !portUsed k s || (g3Of k s).tried)
    && (rf R.WAV_JSTAT 1 2 s == 3 || rf R.WAV_CFG 0 2 s == 0)
    && s.syn.decided && (isHead s || s.syn.rotated)

/-- PROOF_EXIT (R454): when all is done, or 100 ms after PROOF began. Held content and stream packets go on (R402). -/
def execProofExit (s : State) : Host.Outcome State Fault Refusal :=
  if s.mode == .proof && (proofDone s || decide (s.proofAt + 400000000 ≤ s.time)) then
    .next (releaseIngress (setMode .idle 0 false s))
  else .next s

end Sys2Proof.Machine
end

