-- ==== Sys2Proof/Machine/Scrub.lean ====
section
/-! DEFINITION. Scrub and march accesses of the pantries, the local RAMs and the tile store (R283, R348 to R351, R386).
What an access finds, and whether the march of a region fails, are operands (log entry 3). A region under test serves every
access from the save buffer, so nothing of the test shows in memory. -/

namespace Sys2Proof.Machine

def testerOf (k : Nat) (s : State) : Tester := Sparse.get {} s.tester k
def putTester (k : Nat) (x : Tester) (s : State) : State := { s with tester := Sparse.set {} s.tester k x }

/-- The engine's step within a region of `n` accesses, `regions` of them: its state after the access. -/
def nextStep (n regions : Nat) (x : Tester) : Tester :=
  if x.step + 1 < n then { x with step := x.step + 1 }
  else { x with step := 0, region := (x.region + 1) % regions }

/-- The access reads `n` words, word i at `word i`, and `found` among them: new uncorrectable words stand and every
uncorrectable word is reported; each corrected word, found now or held with a single-bit error, is counted by `ce` and
rewritten. -/
def readFound (n : Nat) (word : Nat → Nat) (found : Found) (ce : State → State) (s : State) : State :=
  let within := fun (w : Nat) => (List.range n).any (fun i => word i == w)
  let s := (found.bad.take n).foldl (fun s i => markUe (word (i.val % n)) s) s
  let s := (s.ue.filter within).foldl (fun s w => ueRead w s) s
  let s := ((found.corrected.take n).map (fun _ => ()) ++ (s.ce.filter within).map (fun _ => ())).foldl (fun s _ => ce s) s
  { s with ce := s.ce.filter (fun w => !within w) }

/-! ### Local RAM (R283, R349 to R351) -/

/-- A region of cell m fails: one of two spares stands in, or none is left. -/
def localFail (cl m region : Nat) (s : State) : State :=
  let x : Alarm := { cluster := cl, unit := m, addr := localBase cl m + 128 * region }
  let used := rf (R.PAN_LSPARE cl) (2 * m) 2 s
  if used < 2 then alarmBit (R.PAN_STAT cl) 5 59 x (wf (R.PAN_LSPARE cl) (2 * m) 2 (used + 1) s)
  else redLost 9 (alarmBit (R.PAN_STAT cl) 6 60 x s)

/-- LOCAL_SCRUB_ACCESS (R283, R350): with LTEN the next access of the march test, else the next pair of the scrubber. -/
def execLocalScrubAccess (cl m : Fin 16) (found : Found) (fail : Bool) (s : State) : Host.Outcome State Fault Refusal :=
  if ctlRuns s then
    let key := 32 + 16 * cl.val + m.val
    let x := testerOf key s
    let base := localBase cl m
    if rb (R.PAN_CFG cl) 1 s then
      let s := wr (R.PAN_LTPOS cl) (w32 (m.val + x.region * 16 + 8192)) s
      let s := if x.step < 32 then
          readFound 1 (fun _ => base + 128 * x.region + 4 * x.step) found (localCe cl) s
        else s
      let s := if x.step = 383 then
          wb (R.PAN_LTPOS cl) 13 false (if fail then localFail cl m x.region s else s)
        else s
      .next (putTester key (nextStep 384 512 x) s)
    else
      .next (putTester key { x with scrub := (x.scrub + 1) % 16384 }
        (readFound 1 (fun _ => base + 4 * x.scrub) found (localCe cl) s))
  else .next s

/-! ### Pantry (R348 to R351) -/

/-- A region fails: one of the bank's four spare rows stands in, or none is left. -/
def pantryFail (cl region : Nat) (s : State) : State :=
  let b := region / 2048
  let x : Alarm := { cluster := cl, addr := pantryBase cl + 128 * region }
  let used := rf (R.PAN_SPARE cl) (4 * b) 3 s
  if used < 4 then alarmBit (R.PAN_STAT cl) 2 56 x (wf (R.PAN_SPARE cl) (4 * b) 3 (used + 1) s)
  else redLost 9 (alarmBit (R.PAN_STAT cl) 3 57 x s)

/-- PANTRY_TEST_ACCESS (R349, R350): save of the row, 160 march accesses, restore. -/
def execPantryTestAccess (cl : Fin 16) (found : Found) (fail : Bool) (s : State) : Host.Outcome State Fault Refusal :=
  if ctlRuns s && rb (R.PAN_CFG cl) 0 s then
    let x := testerOf cl s
    let s := wr (R.PAN_TPOS cl) (w32 (x.region / 2048 + x.region % 2048 * 4 + 8192)) s
    let s := if x.step = 0 then
        readFound 16 (fun i => pantryBase cl + 128 * x.region + 8 * i) found (pantryCe cl) s
      else s
    let s := if x.step = 161 then
        wb (R.PAN_TPOS cl) 13 false (if fail then pantryFail cl x.region s else s)
      else s
    .next (putTester cl (nextStep 162 8192 x) s)
  else .next s

/-! ### Tile store (R385, R386) -/

/-- Byte address of 64-byte block `n` of slice `j`. -/
def sliceBlock (j n : Nat) : Nat := tileStoreBase + 64 * (4 * n + j)

/-- TILE_STORE_SCRUB (R386): with TEN the next access of the march test of a slice, else its next block. -/
def execTileStoreScrub (slice : Fin 4) (found : Found) (fail : Bool) (s : State) : Host.Outcome State Fault Refusal :=
  if ctlRuns s && rb R.FAB_TSCFG 0 s then
    let key := 16 + slice.val
    let x := testerOf key s
    let ce := fun s => addSat R.FAB_TSECC 0 16 1 s
    if rb R.FAB_TSCFG 1 s then
      let s := wr R.FAB_TSPOS (w32 (x.region + 65536)) s
      let s := if x.step = 0 then
          readFound 16 (fun i => sliceBlock slice (2 * x.region + i / 8) + 8 * (i % 8)) found ce s
        else s
      let s := if x.step = 161 then
          wb R.FAB_TSPOS 16 false
            (if fail then tileAlarm 0x39 { addr := sliceBlock slice (2 * x.region) } s else s)
        else s
      .next (putTester key (nextStep 162 65536 x) s)
    else
      .next (putTester key { x with scrub := (x.scrub + 1) % 131072 }
        (readFound 8 (fun i => sliceBlock slice x.scrub + 8 * i) found ce s))
  else .next s

end Sys2Proof.Machine
end

