-- ==== Sys2Proof/Machine/Dispatch.lean ====
section
/-! DEFINITION. One arm for every command: its meaning. -/

namespace Sys2Proof.Machine

/-- The effect of a command on everything but the queue. -/
def exec (i : Instr) (s : State) : Host.Outcome State Fault Refusal :=
  match i with
  | .registerWrite w a v => Sys2Proof.Machine.execRegisterWrite w a v s
  | .pairLowWrite w p v => Sys2Proof.Machine.execPairLowWrite w p v s
  | .pairHighWrite w p v => Sys2Proof.Machine.execPairHighWrite w p v s
  | .pairLowRead w p => Sys2Proof.Machine.execPairLowRead w p s
  | .posLperminRead w => Sys2Proof.Machine.execPosLperminRead w s
  | .posEncErrRead w n => Sys2Proof.Machine.execPosEncErrRead w n s
  | .lstOccmaxRead w => Sys2Proof.Machine.execLstOccmaxRead w s
  | .codModes0Read w => Sys2Proof.Machine.execCodModes0Read w s
  | .resetAssert => Sys2Proof.Machine.execResetAssert s
  | .coldEnd flash => Sys2Proof.Machine.execColdEnd flash s
  | .sectionTableRead image => Sys2Proof.Machine.execSectionTableRead image s
  | .loadSelfTestEnd r => Sys2Proof.Machine.execLoadSelfTestEnd r s
  | .imageReadComplete image => Sys2Proof.Machine.execImageReadComplete image s
  | .verifyComplete => Sys2Proof.Machine.execVerifyComplete s
  | .slotCheckComplete => Sys2Proof.Machine.execSlotCheckComplete s
  | .quadratureEdge n e => Sys2Proof.Machine.execQuadratureEdge n e s
  | .holdOffExpiry n g level => Sys2Proof.Machine.execHoldOffExpiry n g level s
  | .adaptedWidthUpdate n => Sys2Proof.Machine.execAdaptedWidthUpdate n s
  | .glitchFilterWrite w n v => Sys2Proof.Machine.execGlitchFilterWrite w n v s
  | .zEdge n => Sys2Proof.Machine.execZEdge n s
  | .decoderDisagreement which dev => Sys2Proof.Machine.execDecoderDisagreement which dev s
  | .arbitrationEnd keep => Sys2Proof.Machine.execArbitrationEnd keep s
  | .fonow w => Sys2Proof.Machine.execFonow w s
  | .decrst w => Sys2Proof.Machine.execDecrst w s
  | .rebase w => Sys2Proof.Machine.execRebase w s
  | .stopDetection => Sys2Proof.Machine.execStopDetection s
  | .predictedFire g => Sys2Proof.Machine.execPredictedFire g s
  | .edgeLockedFire g => Sys2Proof.Machine.execEdgeLockedFire g s
  | .placementCancel g => Sys2Proof.Machine.execPlacementCancel g s
  | .strobePulseEnd o => Sys2Proof.Machine.execStrobePulseEnd o s
  | .eventInputCapture e rising => Sys2Proof.Machine.execEventInputCapture e rising s
  | .captureReadOpen w e => Sys2Proof.Machine.execCaptureReadOpen w e s
  | .captureReadClose w e => Sys2Proof.Machine.execCaptureReadClose w e s
  | .registrationOvrClear w k v => Sys2Proof.Machine.execRegistrationOvrClear w k v s
  | .ssiFrameComplete n raw => Sys2Proof.Machine.execSsiFrameComplete n raw s
  | .lineComposed cl => Sys2Proof.Machine.execLineComposed cl s
  | .laneMismatch cl => Sys2Proof.Machine.execLaneMismatch cl s
  | .laneSelfTestEnd cl pass0 pass1 => Sys2Proof.Machine.execLaneSelfTestEnd cl pass0 pass1 s
  | .proofBankWrite w a v => Sys2Proof.Machine.execProofBankWrite w a v s
  | .proofSetCommitIssue w at_ mask => Sys2Proof.Machine.execProofSetCommitIssue w at_ mask s
  | .commitDecision => Sys2Proof.Machine.execCommitDecision s
  | .proofSetCommitArrival cl => Sys2Proof.Machine.execProofSetCommitArrival cl s
  | .streamWpWrite w v => Sys2Proof.Machine.execStreamWpWrite w v s
  | .streamReset w => Sys2Proof.Machine.execStreamReset w s
  | .lineReady => Sys2Proof.Machine.execLineReady s
  | .pipelineMismatch => Sys2Proof.Machine.execPipelineMismatch s
  | .pipelineSelfTestEnd pass0 pass1 => Sys2Proof.Machine.execPipelineSelfTestEnd pass0 pass1 s
  | .codecMismatch => Sys2Proof.Machine.execCodecMismatch s
  | .encoderSelfTestEnd pass0 pass1 => Sys2Proof.Machine.execEncoderSelfTestEnd pass0 pass1 s
  | .setmiss w at_ v => Sys2Proof.Machine.execSetmiss w at_ v s
  | .clrmiss w at_ v => Sys2Proof.Machine.execClrmiss w at_ v s
  | .settab w at_ v => Sys2Proof.Machine.execSettab w at_ v s
  | .setrule w at_ v => Sys2Proof.Machine.execSetrule w at_ v s
  | .nozzleQuery w at_ v => Sys2Proof.Machine.execNozzleQuery w at_ v s
  | .nozzleMapCommitIssue w at_ => Sys2Proof.Machine.execNozzleMapCommitIssue w at_ s
  | .nozzleMapCommitArrival => Sys2Proof.Machine.execNozzleMapCommitArrival s
  | .nozzleStatusRecord => Sys2Proof.Machine.execNozzleStatusRecord s
  | .automissClear w v => Sys2Proof.Machine.execAutomissClear w v s
  | .lineStoreScrub found => Sys2Proof.Machine.execLineStoreScrub found s
  | .sliceCopyEnd => Sys2Proof.Machine.execSliceCopyEnd s
  | .sliceMarchEnd pass => Sys2Proof.Machine.execSliceMarchEnd pass s
  | .copyBackEnd => Sys2Proof.Machine.execCopyBackEnd s
  | .gen1WordStream p => Sys2Proof.Machine.execGen1WordStream p s
  | .gen2Frame k => Sys2Proof.Machine.execGen2Frame k s
  | .gen3DataFrame k => Sys2Proof.Machine.execGen3DataFrame k s
  | .fireFrame g => Sys2Proof.Machine.execFireFrame g s
  | .timeFrame k => Sys2Proof.Machine.execTimeFrame k s
  | .gen3Ack k frame => Sys2Proof.Machine.execGen3Ack k frame s
  | .gen3Nak k frame => Sys2Proof.Machine.execGen3Nak k frame s
  | .gen3Status k frame => Sys2Proof.Machine.execGen3Status k frame s
  | .gen3Temp k frame => Sys2Proof.Machine.execGen3Temp k frame s
  | .ackTimeout k seq => Sys2Proof.Machine.execAckTimeout k seq s
  | .rxLaneFailure r => Sys2Proof.Machine.execRxLaneFailure r s
  | .portRetrain w k => Sys2Proof.Machine.execPortRetrain w k s
  | .laneTrainingEnd k lane ok rtt => Sys2Proof.Machine.execLaneTrainingEnd k lane ok rtt s
  | .routeSwitch w tsel => Sys2Proof.Machine.execRouteSwitch w tsel s
  | .packingMismatch => Sys2Proof.Machine.execPackingMismatch s
  | .engineSelfTestEnd pass0 pass1 => Sys2Proof.Machine.execEngineSelfTestEnd pass0 pass1 s
  | .spitTransferEnd g => Sys2Proof.Machine.execSpitTransferEnd g s
  | .waveformSample dissent => Sys2Proof.Machine.execWaveformSample dissent s
  | .outputGainWrite w c v => Sys2Proof.Machine.execOutputGainWrite w c v s
  | .temperatureStale k => Sys2Proof.Machine.execTemperatureStale k s
  | .sysrefEdge => Sys2Proof.Machine.execSysrefEdge s
  | .realign w => Sys2Proof.Machine.execRealign w s
  | .resynchronisation => Sys2Proof.Machine.execResynchronisation s
  | .lvNop cl m => Sys2Proof.Machine.execLvNop cl m s
  | .lvDup cl m => Sys2Proof.Machine.execLvDup cl m s
  | .lvDrop cl m => Sys2Proof.Machine.execLvDrop cl m s
  | .lvSwap cl m => Sys2Proof.Machine.execLvSwap cl m s
  | .lvOver cl m => Sys2Proof.Machine.execLvOver cl m s
  | .lvRot cl m => Sys2Proof.Machine.execLvRot cl m s
  | .lvAdd cl m => Sys2Proof.Machine.execLvAdd cl m s
  | .lvSub cl m => Sys2Proof.Machine.execLvSub cl m s
  | .lvAnd cl m => Sys2Proof.Machine.execLvAnd cl m s
  | .lvOr cl m => Sys2Proof.Machine.execLvOr cl m s
  | .lvXor cl m => Sys2Proof.Machine.execLvXor cl m s
  | .lvNot cl m => Sys2Proof.Machine.execLvNot cl m s
  | .lvNeg cl m => Sys2Proof.Machine.execLvNeg cl m s
  | .lvInc cl m => Sys2Proof.Machine.execLvInc cl m s
  | .lvFromB cl m => Sys2Proof.Machine.execLvFromB cl m s
  | .lvShl cl m => Sys2Proof.Machine.execLvShl cl m s
  | .lvShr cl m => Sys2Proof.Machine.execLvShr cl m s
  | .lvSar cl m => Sys2Proof.Machine.execLvSar cl m s
  | .lvLd cl m => Sys2Proof.Machine.execLvLd cl m s
  | .lvSt cl m => Sys2Proof.Machine.execLvSt cl m s
  | .lvLda cl m => Sys2Proof.Machine.execLvLda cl m s
  | .lvLdaInc cl m => Sys2Proof.Machine.execLvLdaInc cl m s
  | .lvSta cl m => Sys2Proof.Machine.execLvSta cl m s
  | .lvStaInc cl m => Sys2Proof.Machine.execLvStaInc cl m s
  | .lvLdbInc cl m => Sys2Proof.Machine.execLvLdbInc cl m s
  | .lvStbInc cl m => Sys2Proof.Machine.execLvStbInc cl m s
  | .lvToA cl m => Sys2Proof.Machine.execLvToA cl m s
  | .lvFromA cl m => Sys2Proof.Machine.execLvFromA cl m s
  | .lvToB cl m => Sys2Proof.Machine.execLvToB cl m s
  | .lvToRt cl m => Sys2Proof.Machine.execLvToRt cl m s
  | .lvFromRt cl m => Sys2Proof.Machine.execLvFromRt cl m s
  | .lvRet cl m => Sys2Proof.Machine.execLvRet cl m s
  | .lvJmp cl m k => Sys2Proof.Machine.execLvJmp cl m k s
  | .lvCall cl m k => Sys2Proof.Machine.execLvCall cl m k s
  | .lvJz cl m k => Sys2Proof.Machine.execLvJz cl m k s
  | .lvJnz cl m k => Sys2Proof.Machine.execLvJnz cl m k s
  | .lvBr cl m cc d => Sys2Proof.Machine.execLvBr cl m cc d s
  | .lvLit cl m k => Sys2Proof.Machine.execLvLit cl m k s
  | .lvLoop cl m k => Sys2Proof.Machine.execLvLoop cl m k s
  | .lvRep cl m k => Sys2Proof.Machine.execLvRep cl m k s
  | .lvWait cl m k => Sys2Proof.Machine.execLvWait cl m k s
  | .lvIn cl m k => Sys2Proof.Machine.execLvIn cl m k s
  | .lvOut cl m k => Sys2Proof.Machine.execLvOut cl m k s
  | .lvLdo cl m k => Sys2Proof.Machine.execLvLdo cl m k s
  | .lvSto cl m k => Sys2Proof.Machine.execLvSto cl m k s
  | .lvIllop cl m => Sys2Proof.Machine.execLvIllop cl m s
  | .lvFjmp cl m k => Sys2Proof.Machine.execLvFjmp cl m k s
  | .lvFcall cl m k => Sys2Proof.Machine.execLvFcall cl m k s
  | .lvFlit cl m k => Sys2Proof.Machine.execLvFlit cl m k s
  | .lvFjz cl m k => Sys2Proof.Machine.execLvFjz cl m k s
  | .lvFjnz cl m k => Sys2Proof.Machine.execLvFjnz cl m k s
  | .lvLdi cl m k => Sys2Proof.Machine.execLvLdi cl m k s
  | .lvSti cl m k => Sys2Proof.Machine.execLvSti cl m k s
  | .lvNip cl m => Sys2Proof.Machine.execLvNip cl m s
  | .lvTuck cl m => Sys2Proof.Machine.execLvTuck cl m s
  | .lvTwoDup cl m => Sys2Proof.Machine.execLvTwoDup cl m s
  | .lvTwoDrop cl m => Sys2Proof.Machine.execLvTwoDrop cl m s
  | .lvMinusRot cl m => Sys2Proof.Machine.execLvMinusRot cl m s
  | .lvDepth cl m => Sys2Proof.Machine.execLvDepth cl m s
  | .lvRdepth cl m => Sys2Proof.Machine.execLvRdepth cl m s
  | .lvRtCopy cl m => Sys2Proof.Machine.execLvRtCopy cl m s
  | .lvAdc cl m => Sys2Proof.Machine.execLvAdc cl m s
  | .lvSbc cl m => Sys2Proof.Machine.execLvSbc cl m s
  | .lvDec cl m => Sys2Proof.Machine.execLvDec cl m s
  | .lvAbs cl m => Sys2Proof.Machine.execLvAbs cl m s
  | .lvMin cl m => Sys2Proof.Machine.execLvMin cl m s
  | .lvMax cl m => Sys2Proof.Machine.execLvMax cl m s
  | .lvMinu cl m => Sys2Proof.Machine.execLvMinu cl m s
  | .lvMaxu cl m => Sys2Proof.Machine.execLvMaxu cl m s
  | .lvRol cl m => Sys2Proof.Machine.execLvRol cl m s
  | .lvRor cl m => Sys2Proof.Machine.execLvRor cl m s
  | .lvClz cl m => Sys2Proof.Machine.execLvClz cl m s
  | .lvPopc cl m => Sys2Proof.Machine.execLvPopc cl m s
  | .lvToRc cl m => Sys2Proof.Machine.execLvToRc cl m s
  | .lvFromRc cl m => Sys2Proof.Machine.execLvFromRc cl m s
  | .lvToSt cl m => Sys2Proof.Machine.execLvToSt cl m s
  | .lvFromSt cl m => Sys2Proof.Machine.execLvFromSt cl m s
  | .lvAAdd cl m => Sys2Proof.Machine.execLvAAdd cl m s
  | .lvBAdd cl m => Sys2Proof.Machine.execLvBAdd cl m s
  | .lvLd2 cl m => Sys2Proof.Machine.execLvLd2 cl m s
  | .lvSt2 cl m => Sys2Proof.Machine.execLvSt2 cl m s
  | .lvAadd cl m => Sys2Proof.Machine.execLvAadd cl m s
  | .lvAswap cl m => Sys2Proof.Machine.execLvAswap cl m s
  | .lvMul cl m => Sys2Proof.Machine.execLvMul cl m s
  | .lvMulu cl m => Sys2Proof.Machine.execLvMulu cl m s
  | .lvMac cl m => Sys2Proof.Machine.execLvMac cl m s
  | .lvMacu cl m => Sys2Proof.Machine.execLvMacu cl m s
  | .lvMsu cl m => Sys2Proof.Machine.execLvMsu cl m s
  | .lvClrm cl m => Sys2Proof.Machine.execLvClrm cl m s
  | .lvFromMrl cl m => Sys2Proof.Machine.execLvFromMrl cl m s
  | .lvFromMrh cl m => Sys2Proof.Machine.execLvFromMrh cl m s
  | .lvFromMrg cl m => Sys2Proof.Machine.execLvFromMrg cl m s
  | .lvToMrl cl m => Sys2Proof.Machine.execLvToMrl cl m s
  | .lvToMrh cl m => Sys2Proof.Machine.execLvToMrh cl m s
  | .lvToMrg cl m => Sys2Proof.Machine.execLvToMrg cl m s
  | .lvDiv cl m => Sys2Proof.Machine.execLvDiv cl m s
  | .lvDivu cl m => Sys2Proof.Machine.execLvDivu cl m s
  | .lvMovs cl m => Sys2Proof.Machine.execLvMovs cl m s
  | .lvMovsd cl m => Sys2Proof.Machine.execLvMovsd cl m s
  | .lvFills cl m => Sys2Proof.Machine.execLvFills cl m s
  | .lvCmps cl m => Sys2Proof.Machine.execLvCmps cl m s
  | .lvScans cl m => Sys2Proof.Machine.execLvScans cl m s
  | .lvSums cl m => Sys2Proof.Machine.execLvSums cl m s
  | .lvExec cl m => Sys2Proof.Machine.execLvExec cl m s
  | .lvJmpt cl m => Sys2Proof.Machine.execLvJmpt cl m s
  | .lvIfence cl m => Sys2Proof.Machine.execLvIfence cl m s
  | .lvYield cl m => Sys2Proof.Machine.execLvYield cl m s
  | .lvDone cl m => Sys2Proof.Machine.execLvDone cl m s
  | .lvTret cl m => Sys2Proof.Machine.execLvTret cl m s
  | .lvPick cl m n => Sys2Proof.Machine.execLvPick cl m n s
  | .lvRnd cl m n => Sys2Proof.Machine.execLvRnd cl m n s
  | .lvTrap cl m n => Sys2Proof.Machine.execLvTrap cl m n s
  | .storeDrain cl m => Sys2Proof.Machine.execStoreDrain cl m s
  | .contextSwitch cl m => Sys2Proof.Machine.execContextSwitch cl m s
  | .eventDelivery cl => Sys2Proof.Machine.execEventDelivery cl s
  | .waitTimeout cl m c => Sys2Proof.Machine.execWaitTimeout cl m c s
  | .cellSleep cl m => Sys2Proof.Machine.execCellSleep cl m s
  | .startreq w cl m mask => Sys2Proof.Machine.execStartreq w cl m mask s
  | .stopreq w cl m mask => Sys2Proof.Machine.execStopreq w cl m mask s
  | .crestart w cl m => Sys2Proof.Machine.execCrestart w cl m s
  | .evcPendset w cl hi v => Sys2Proof.Machine.execEvcPendset w cl hi v s
  | .evcPendclr w cl hi v => Sys2Proof.Machine.execEvcPendclr w cl hi v s
  | .evcMaskset w cl hi v => Sys2Proof.Machine.execEvcMaskset w cl hi v s
  | .evcMaskclr w cl hi v => Sys2Proof.Machine.execEvcMaskclr w cl hi v s
  | .localScrubAccess cl m found fail => Sys2Proof.Machine.execLocalScrubAccess cl m found fail s
  | .pantryTestAccess cl found fail => Sys2Proof.Machine.execPantryTestAccess cl found fail s
  | .tileStoreScrub slice found fail => Sys2Proof.Machine.execTileStoreScrub slice found fail s
  | .timerOverflow cl n => Sys2Proof.Machine.execTimerOverflow cl n s
  | .timerMatch cl n => Sys2Proof.Machine.execTimerMatch cl n s
  | .timerCapture cl n => Sys2Proof.Machine.execTimerCapture cl n s
  | .capLowRead w cl n => Sys2Proof.Machine.execCapLowRead w cl n s
  | .capHighRead w cl n => Sys2Proof.Machine.execCapHighRead w cl n s
  | .timerCountWrite w cl n v => Sys2Proof.Machine.execTimerCountWrite w cl n v s
  | .timerPeriodWrite w cl n v => Sys2Proof.Machine.execTimerPeriodWrite w cl n v s
  | .slowRatioMeasurement cl cycles => Sys2Proof.Machine.execSlowRatioMeasurement cl cycles s
  | .timerResume slow => Sys2Proof.Machine.execTimerResume slow s
  | .slowClockTimeout => Sys2Proof.Machine.execSlowClockTimeout s
  | .dmaStart w cl k v => Sys2Proof.Machine.execDmaStart w cl k v s
  | .dmaStop w cl k => Sys2Proof.Machine.execDmaStop w cl k s
  | .dmaUnitStart cl => Sys2Proof.Machine.execDmaUnitStart cl s
  | .dmaComplete cl k => Sys2Proof.Machine.execDmaComplete cl k s
  | .dmaError cl k => Sys2Proof.Machine.execDmaError cl k s
  | .hopReplay node port lane => Sys2Proof.Machine.execHopReplay node port lane s
  | .crossbarMismatch node => Sys2Proof.Machine.execCrossbarMismatch node s
  | .crossbarSelfTestEnd node pass0 pass1 => Sys2Proof.Machine.execCrossbarSelfTestEnd node pass0 pass1 s
  | .linkTrainingComplete rate up0 up1 x8_0 x8_1 => Sys2Proof.Machine.execLinkTrainingComplete rate up0 up1 x8_0 x8_1 s
  | .linkTrainingTimeout => Sys2Proof.Machine.execLinkTrainingTimeout s
  | .dieLinkRetrain w => Sys2Proof.Machine.execDieLinkRetrain w s
  | .moduleDegrade module toX8 => Sys2Proof.Machine.execModuleDegrade module toX8 s
  | .flitReceive flit => Sys2Proof.Machine.execFlitReceive flit s
  | .flitTransmit => Sys2Proof.Machine.execFlitTransmit s
  | .aspMismatch => Sys2Proof.Machine.execAspMismatch s
  | .aspSelfTestEnd pass0 pass1 => Sys2Proof.Machine.execAspSelfTestEnd pass0 pass1 s
  | .pad len => Sys2Proof.Machine.execPad len s
  | .rdreq rid tag addrWord => Sys2Proof.Machine.execRdreq rid tag addrWord s
  | .wrreq rid tag ackreq payload => Sys2Proof.Machine.execWrreq rid tag ackreq payload s
  | .tileup off payload => Sys2Proof.Machine.execTileup off payload s
  | .mapup off payload => Sys2Proof.Machine.execMapup off payload s
  | .sprrec cl header payload => Sys2Proof.Machine.execSprrec cl header payload s
  | .nzst payload => Sys2Proof.Machine.execNzst payload s
  | .job cl header payload => Sys2Proof.Machine.execJob cl header payload s
  | .contentResume => Sys2Proof.Machine.execContentResume s
  | .strdata eor payload => Sys2Proof.Machine.execStrdata eor payload s
  | .streamChunkResume => Sys2Proof.Machine.execStreamChunkResume s
  | .alarmSummary => Sys2Proof.Machine.execAlarmSummary s
  | .aspEvpost w cl v => Sys2Proof.Machine.execAspEvpost w cl v s
  | .aspTrpost w cl v => Sys2Proof.Machine.execAspTrpost w cl v s
  | .traceCopyComplete cl => Sys2Proof.Machine.execTraceCopyComplete cl s
  | .roleDecision inLock outLock => Sys2Proof.Machine.execRoleDecision inLock outLock s
  | .repeatFrame => Sys2Proof.Machine.execRepeatFrame s
  | .forwardFrameAccept frame => Sys2Proof.Machine.execForwardFrameAccept frame s
  | .returnFrame => Sys2Proof.Machine.execReturnFrame s
  | .returnFrameAccept frame => Sys2Proof.Machine.execReturnFrameAccept frame s
  | .chainloss => Sys2Proof.Machine.execChainloss s
  | .align w => Sys2Proof.Machine.execAlign w s
  | .newepoch w => Sys2Proof.Machine.execNewepoch w s
  | .requestIdle w => Sys2Proof.Machine.execRequestIdle w s
  | .requestArmed w => Sys2Proof.Machine.execRequestArmed w s
  | .requestPrint w => Sys2Proof.Machine.execRequestPrint w s
  | .requestBlank w => Sys2Proof.Machine.execRequestBlank w s
  | .requestSpit w => Sys2Proof.Machine.execRequestSpit w s
  | .requestCalibrate w => Sys2Proof.Machine.execRequestCalibrate w s
  | .requestDrain w => Sys2Proof.Machine.execRequestDrain w s
  | .requestSleep w => Sys2Proof.Machine.execRequestSleep w s
  | .requestSafe w => Sys2Proof.Machine.execRequestSafe w s
  | .requestIllegalMode w n => Sys2Proof.Machine.execRequestIllegalMode w n s
  | .proofExit => Sys2Proof.Machine.execProofExit s
  | .sleepEntryEnd => Sys2Proof.Machine.execSleepEntryEnd s
  | .lineStoreClearEnd => Sys2Proof.Machine.execLineStoreClearEnd s
  | .watchdogRestart w v => Sys2Proof.Machine.execWatchdogRestart w v s
  | .watchdogExpiry => Sys2Proof.Machine.execWatchdogExpiry s
  | .pairSend cl m c k v => Sys2Proof.Machine.execPairSend cl m c k v s
  | .pairValueArrival cl k from1 uncorrectable => Sys2Proof.Machine.execPairValueArrival cl k from1 uncorrectable s
  | .pairInputRead cl m c k in1 => Sys2Proof.Machine.execPairInputRead cl m c k in1 s
  | .pairReport cl m c k v => Sys2Proof.Machine.execPairReport cl m c k v s
  | .extest bsr => Sys2Proof.Machine.execExtest bsr s
  | .idcode => Sys2Proof.Machine.execIdcode s
  | .samplePreload pins bsr => Sys2Proof.Machine.execSamplePreload pins bsr s
  | .fuserd => Sys2Proof.Machine.execFuserd s
  | .fusepgm mask => Sys2Proof.Machine.execFusepgm mask s
  | .fuseBitProgrammed => Sys2Proof.Machine.execFuseBitProgrammed s
  | .bypass => Sys2Proof.Machine.execBypass s
  | .wsyncNRelease => Sys2Proof.Machine.execWsyncNRelease s
  | .dmaBurstEnd cl => Sys2Proof.Machine.execDmaBurstEnd cl s
  | .rcFieldRead w a => Sys2Proof.Machine.execRcFieldRead w a s
  | .pairHighRead w p => Sys2Proof.Machine.execPairHighRead w p s
  | .tapReset => Sys2Proof.Machine.execTapReset s

end Sys2Proof.Machine
end

