-- ==== Sys2Proof/Machine/Tick.lean ====
section
/-! DEFINITION. Time (R19): what passes when no command waits (log entry 2). -/

namespace Sys2Proof.Machine

/-- A core cycle begins: nothing has happened in it yet (R16, R331); in SLEEP its clock edge is gated (R460). -/
def beginCycle (s : State) : State :=
  { s with cyc := {}, gated := if clockStopped s then s.gated + 1 else s.gated }

/-- 250 ps pass; a core cycle begins three times in ten units (1.2 GHz). In COLD no clock runs. -/
def tick (s : State) : State :=
  if s.mode = .cold then s
  else
    let t := { s with time := s.time + 1 }
    servePorts (detectTick (if coreCycle s < coreCycle t then
        releaseHeld (headFree (dmaCore (stallsCore (waitsCore (gatesCore (timersCore (beginCycle t))))))) else t))

end Sys2Proof.Machine
end

