-- ==== Sys2Proof/WellFormed.lean ====
section
/-! DEFINITION. Well-formed commands: what the spec lays down of the operands beyond their types. No sender makes an
ill-formed command; the machine still gives it the outcome its meaning says. -/

namespace Sys2Proof

/-- A packet payload (R407): whole 8-byte units, at most 4,096 bytes. -/
def payloadOk (l : List Byte) : Bool := l.length % 8 == 0 && decide (l.length ≤ 4096)

/-- Is the command well-formed? -/
def WellFormed (i : Instr) : Bool :=
  match i with
  | .requestIllegalMode _ n => decide (n.toNat < 3) || decide (12 ≤ n.toNat)   -- R39: COLD, LOAD, PROOF, 12 to 15
  | .sectionTableRead image => decide (256 ≤ image.length)                     -- R428: the header
  | .pad len => len % 8 == 0 && decide (len ≤ 4096)                            -- R407
  | .wrreq _ _ _ payload => payloadOk payload && decide (16 ≤ payload.length)  -- R408: address word and data
  | .tileup _ payload => payloadOk payload
  | .mapup _ payload => payloadOk payload
  | .sprrec _ _ payload => payloadOk payload
  | .nzst payload => payloadOk payload
  | .job _ _ payload => payloadOk payload
  | .strdata _ payload => payloadOk payload
  | .flitReceive flit => flit.length == 256                                    -- R404
  | .forwardFrameAccept frame => frame.length == 24                            -- R439
  | .returnFrameAccept frame => frame.length == 24                             -- R441
  | _ => true

end Sys2Proof
end

