-- ==== Sys2Proof/Safety.lean ====
section
/-! DEFINITION. What counts as a safe step, and the terms in which the statements speak: frames, rejected loads, what a
register write leaves. -/

namespace Sys2Proof.Machine

/-- The step goes on to a next state. -/
def goesOn (s : State) : Prop := ∃ t, step s = .next t

end Sys2Proof.Machine

namespace Sys2Proof.Claims

open Sys2Proof.Machine

/-- Frame: of the registers only those listed may differ; of the rest of the state only what a requester gets back
(data, STATUS) and the counter of free values. -/
def OnlyRegs (l : List Nat) (s t : State) : Prop :=
  t = { s with regs := t.regs, cyc := t.cyc, rdata := t.rdata, rstat := t.rstat, fresh := t.fresh } ∧ ∀ a, a ∉ l → rd a t = rd a s

/-- The requester gets STATUS `st` back (R390). -/
def Answers (st : Nat) (t : State) : Prop := t.rdata = 0 ∧ t.rstat = st

/-- A tile-level register whose write does more than its access codes say. -/
def ownTile (i o : Nat) : Bool :=
  match i with
  | 0 => o == 0x8 || o == 0x28 || o == 0x38
  | 1 => o == 0 || (0x100 ≤ o && o < 0x180 && o % 0x20 == 0xC) || (0x600 ≤ o && o < 0x700 && (o % 0x20 == 0 || o % 0x20 == 0x14))
  | 2 => o == 0x18 || o == 0x28 || o == 0x30
  | 3 => o == 0 || o == 0xC || o == 0x18
  | 7 => o == 0x18 || (0x100 ≤ o && o < 0x200 && o % 0x20 == 8)
  | 8 => o == 0x18 || 0x4000 ≤ o || (0x100 ≤ o && o < 0x500 && o % 0x10 < 8) || (0x800 ≤ o && o < 0x1000 && o % 0x40 < 0x20)
      || (0x1000 ≤ o && o < 0x1200 && o % 0x20 == 0x10)
  | 5 => 0x300050000 + o == R.COD_BUD
  | 10 => o == 8
  | 13 => o == 0x10
  | _ => false

/-- A register of a cluster whose write does more than its access codes say. -/
def ownCluster (o : Nat) : Bool :=
  (0xC08 ≤ o && o < 0xC28) || (0xC40 ≤ o && o < 0xC80) || o == 0x102C || o == 0x1400 || o == 0x1414 || o == 0x1420 || o == 0x15F0
    || (0x1600 ≤ o && o < 0x1700 && (o % 0x20 == 4 || o % 0x20 == 8))
    || (0x1700 ≤ o && o < 0x1800 && (o % 0x40 == 0 || 8 ≤ o % 0x40)) || o == 0x1920 || o == 0x1924

/-- A register that acts as its access codes say: no part of a staged couple, not proof-staged, no row of its own. -/
def codesAlone (a : Nat) : Bool :=
  !stagedLow a && !stagedLow (a - 4) && !(rowAt a).any (fun r => r.ps)
    && !(if a < 0x310000000 then ownTile ((a - 0x300000000) / 0x10000) (a % 0x10000) else ownCluster (a % 0x10000))

/-- The value a write leaves in bit `i` (R15, R16): RW and unsealed SL bits take it, W1C bits clear where it carries 1, but
for one that hardware has set in this core cycle. -/
def bitAfter (r : RegRow) (sealed_ now old new : Bool) (i : Nat) : Bool :=
  if r.rw.testBit i || (r.sl.testBit i && !sealed_) then new
  else if r.w1c.testBit i then old && (!new || now)
  else old

/-- The write carries a bit that differs from the value held, in a field that sealing protects (R16). -/
def hitsSeal (r : RegRow) (a : Nat) (v : Word) (s : State) : Prop :=
  s.sealed = true ∧ ∃ i < 32, r.sl.testBit i = true ∧ v.getLsbD i ≠ (rd a s).getLsbD i

/-! ### Loading -/

/-- The load fails with `code` (R427, R436, R450): PHASE 7, the first failure kept, the TILE alarm raised, the flash port
released; of the registers only STA_STAT and TIL_ASUMH change, and of the rest only the alarm queue. -/
def LoadFails (code : Nat) (s t : State) : Prop :=
  rf R.STA_STAT 0 3 t = 7 ∧
  rf R.STA_STAT 16 8 t = (if rf R.STA_STAT 16 8 s = 0 then code else rf R.STA_STAT 16 8 s) ∧
  rb R.TIL_ASUMH 31 t = true ∧
  (∀ i < 32, 3 ≤ i → ¬ (16 ≤ i ∧ i < 24) → (rd R.STA_STAT t).getLsbD i = (rd R.STA_STAT s).getLsbD i) ∧
  (∀ a, a ∉ [R.STA_STAT, R.TIL_ASUMH] → rd a t = rd a s) ∧
  t = { s with regs := t.regs, cyc := t.cyc, egress := t.egress, loader := { s.loader with drives := false }
               wire := if s.loader.drives then .flash .release :: s.wire else s.wire }

/-- Registers of the die link and the packet layer, LST_SLICE and the spare counts (R436: "every unit except the die link,
the fuses and the repairs of R435"). -/
def outlivesReload (a : Nat) : Bool :=
  a / 0x10000 == 0x3000A || a / 0x10000 == 0x3000B || a == R.LST_SLICE || a == R.STA_REPAIR || a == R.STA_FLASH
    || (List.range 16).any (fun cl => a == R.PAN_SPARE cl || a == R.PAN_LSPARE cl)

/-- Copy B is loaded in place of a rejected copy A (R436, R450): units at reset, POS_TIME at 0, PHASE 1, COPYB, no SIGCHK, the
first failure kept, copy B read from its first byte. That the port is driven again and what the loader keeps in hand is the
model's reading (log entry 127). -/
def LoadsCopyB (code : Nat) (s t : State) : Prop :=
  rf R.STA_STAT 0 3 t = 1 ∧ rb R.STA_STAT 9 t = true ∧ rb R.STA_STAT 11 t = false ∧
  rf R.STA_STAT 16 8 t = (if rf R.STA_STAT 16 8 s = 0 then code else rf R.STA_STAT 16 8 s) ∧
  rb R.TIL_ASUMH 31 t = true ∧ t.mode = .load ∧
  (∀ a, outlivesReload a = true → rd a t = rd a s) ∧
  (∀ a, outlivesReload a = false →
    a ∉ [R.STA_STAT, R.TIL_ASUMH, R.TIL_MCHGL, R.TIL_MCHGH, R.TIL_MCHGCNT] → rd a t = regReset a) ∧
  t.mem = [] ∧ t.ue = [] ∧ t.ce = [] ∧ t.patch = [] ∧ t.sealed = false ∧ t.dlk = s.dlk ∧ t.jtag = s.jtag ∧ t.time = 0 ∧
  t.lst.deadSpares = s.lst.deadSpares ∧ t.pending = s.pending ∧
  t.loader = { flash := s.loader.flash, hasB := true, drives := true, spent := s.loader.spent + s.time } ∧
  t.wire.head? = some (.flash (.read (rf R.STA_STAT 6 2 s) (fourBytes s) 0x4000000))

/-- What a rejected copy brings about (R436): copy B where it can be read and is not the copy in hand, else failure. -/
def Rejected (code : Nat) (s t : State) : Prop :=
  if s.loader.hasB = true ∧ rb R.STA_STAT 9 s = false then LoadsCopyB code s t else LoadFails code s t

/-- FMODE by what SFDP says of the flash (R426). -/
def flashMode (f : FlashInfo) : Nat := if f.sfdp && f.octal then 3 else if f.sfdp && f.quad then 2 else 1

/-- The detection of a flash `f` that answers has ended (R426, R434): FMODE and STA_FLASH, PHASE 1, copy A read from its first
byte. -/
def Detected (f : FlashInfo) (s t : State) : Prop :=
  rf R.STA_STAT 0 3 t = 1 ∧ rf R.STA_STAT 6 2 t = flashMode f ∧
  (∀ i < 32, 3 ≤ i → i ≠ 6 → i ≠ 7 → (rd R.STA_STAT t).getLsbD i = (rd R.STA_STAT s).getLsbD i) ∧
  (f.sfdp = true → rd R.STA_FLASH t = BitVec.ofNat 32 (f.revision.toNat + 256 * f.density.toNat)) ∧
  (f.sfdp = false → rd R.STA_FLASH t = rd R.STA_FLASH s) ∧
  (∀ a, a ∉ [R.STA_STAT, R.STA_FLASH] → rd a t = rd a s) ∧
  t = { s with regs := t.regs, cyc := t.cyc, loader := { s.loader with drives := true }
               wire := .flash (.read (flashMode f) (fourBytes s) (copyBase s)) ::
                 (if flashMode f = 3 then .flash .enterOctal :: s.wire else s.wire) }

/-- MAGIC, FMT and HDRLEN are right (R428). -/
def headerRight (img : List Byte) : Prop := getLE img 0 4 = 0x3834514A ∧ getLE img 4 2 = 1 ∧ getLE img 6 2 = 256

/-- Type, offset, length and destination of section `i` (R429). -/
def secType (img : List Byte) (i : Nat) : Nat := getLE img (256 + 32 * i) 1
def secOff (img : List Byte) (i : Nat) : Nat := getLE img (260 + 32 * i) 4
def secLen (img : List Byte) (i : Nat) : Nat := getLE img (264 + 32 * i) 4
def secDest (img : List Byte) (i : Nat) : Nat := getLE img (268 + 32 * i) 5 % 2 ^ 36

/-- The range lies in the tile store, one cluster's pantry or one cell's local RAM (R7, R429). -/
def inOneStore (a n : Nat) : Prop :=
  (0x8000000 ≤ a ∧ a < 0xA000000 ∧ a + n ≤ 0xA000000) ∨
  (∃ c < 16, 0x100000000 + c * 0x100000 ≤ a ∧ a < 0x100000000 + (c + 1) * 0x100000 ∧ a + n ≤ 0x100000000 + (c + 1) * 0x100000) ∨
  (∃ k < 256, 0x200000000 + k * 0x10000 ≤ a ∧ a < 0x200000000 + (k + 1) * 0x10000 ∧ a + n ≤ 0x200000000 + (k + 1) * 0x10000)

/-- The section table is not malformed (R430, but for the last item, which the REG writes show). -/
def tableRight (img : List Byte) : Prop :=
  let n := getLE img 12 2
  (∀ i < n, 1 ≤ secType img i ∧ secType img i ≤ 5) ∧
  (∀ i < n, 256 + 32 * n ≤ secOff img i ∧ secOff img i + secLen img i ≤ getLE img 8 4) ∧
  (∀ i, i + 1 < n → secOff img i + secLen img i ≤ secOff img (i + 1)) ∧
  (∃ i < n, secType img i = 4 ∧ ∀ j < n, secType img j = 4 → j = i) ∧
  (∀ i < n, ∀ j < n, secType img i = 1 → secType img j = 1 → i = j) ∧
  (∀ i < n, secType img i = 2 → inOneStore (secDest img i) (secLen img i)) ∧
  (∀ i < n, secType img i = 1 → secLen img i = 576)

/-- Two flows meet in a slot of a link, or a reserved flow owns a slot (R393, R394). -/
def SlotsCollide (s : State) : Prop :=
  (∃ f < 256, flowEnds f = none ∧ flowMask f s ≠ 0) ∨
  (∃ f < 256, ∃ g < f, ∃ k, k < (flowUse f s).length ∧ ∃ j, j < (flowUse g s).length ∧
    ((flowUse f s).getD k (0, 0)).1 = ((flowUse g s).getD j (0, 0)).1 ∧
    Nat.land ((flowUse f s).getD k (0, 0)).2 ((flowUse g s).getD j (0, 0)).2 ≠ 0)
/-! ### Position -/

/-- The decoder `y` is `x` after one count of `d` scaled by NUM ÷ DEN (R53). -/
def Counted (num den : Nat) (d : Int) (x y : Dec) : Prop :=
  y.r < den ∧ y.p * den + y.r = x.p * den + x.r + d * num

/-- What the loader, the test port and the clock alone change is as it was: queue, time, patch RAM, seal, loader, test port,
image; and so are the mode and the memories. -/
def Steady (s t : State) : Prop :=
  t.pending = s.pending ∧ t.time = s.time ∧ t.patch = s.patch ∧ t.sealed = s.sealed ∧ t.loader = s.loader ∧
  t.jtag = s.jtag ∧ t.img = s.img ∧ t.mode = s.mode ∧ t.mem = s.mem ∧ t.ue = s.ue

/-- The positions and remainders, the high-water mark and the choice of decoder and input are as they were. -/
def SamePlace (s t : State) : Prop :=
  t.pos.d0.p = s.pos.d0.p ∧ t.pos.d0.r = s.pos.d0.r ∧ t.pos.d1.p = s.pos.d1.p ∧ t.pos.d1.r = s.pos.d1.r ∧ t.pos.use = s.pos.use ∧ t.pos.hwm = s.pos.hwm ∧ t.pos.onSec = s.pos.onSec

/-- Both decoders have followed input n, whose scale they use: their filters stand as the input's, their remainders below
DEN, their positions short of the end (R53, R61). -/
def Follows (n : Nat) (s : State) : Prop :=
  n = driveInput s ∧ s.pos.d0.f = (encOf n s).f ∧ s.pos.d1.f = (encOf n s).f ∧ 0 < driveDen s ∧
  s.pos.d0.r < driveDen s ∧ s.pos.d1.r < driveDen s ∧ s.pos.d0.p < 2 ^ 46 ∧ s.pos.d1.p < 2 ^ 46

/-- A failover from encoder loss on `n` can be made (R52): FOEN, SEC enabled and free of errors, not the lost input. -/
def failoverReady (n : Nat) (s : State) : Bool := mayFailover s && decide (rf R.POS_SRC 2 2 s ≠ n)

/-- Both decoders go on from p with remainder 0 on SEC's counts (R52). -/
def FailedOver (s t : State) : Prop :=
  t.pos.d0.p = pOf s ∧ t.pos.d0.r = 0 ∧ t.pos.d1 = t.pos.d0 ∧ t.pos.onSec = true ∧ t.pos.dropped = none ∧ t.pos.arb = false ∧
  pOf t = pOf s ∧ rb R.POS_STAT 11 t = true ∧ rb R.POS_STAT 2 t = false

/-- Encoder loss (R52, R456): failover where it can be made, else SAFE from every mode of PROOF onward but SLEEP. -/
def EncoderLost (fo : Bool) (s t : State) : Prop :=
  rb R.POS_STAT 3 t = true ∧ (fo = true → FailedOver s t ∧ (s.pos.arb = false → t.mode = s.mode)) ∧
  (fo = false → s.mode.fromProof = true → s.mode ≠ .sleep → t.mode = .safe)
/-! ### Lines: composing, conditioning, coding -/

/-- A register that composing, conditioning or coding a line may write: summaries of alarms, error counts, commit status,
the line store's and the codec's state, event controllers, the composers' blocks with the proof-set registers, pantry
errors. -/
def lineReg (a : Nat) : Bool :=
  a ∈ [R.TIL_ASUML, R.TIL_ASUMH, R.FAB_TSECC, R.ASP_DROP, R.CMP_CMTSTAT, R.NZL_CMTSTAT, R.NZL_STAT, R.LST_STAT, R.LST_WP, R.LST_RP,
    R.LST_OCC, R.LST_OCCMAX, R.LST_DROPCNT, R.LST_REDSEG, R.LST_REDLINE, R.LST_LOG_WP, R.LST_LOG_DROP]
  || (decide (0x30005000C ≤ a) && decide (a < 0x300050028))
  || (decide (0x310000000 ≤ a) && (a % 0x10000 ∈ [0xC08, 0xC0C, 0xC3C, 0x1004, 0x100C, 0x1010, 0x1018, 0x101C, 0x1020,
      0x1030, 0x1418, 0x1804, 0x1808, 0x180C] || (decide (0x1100 ≤ a % 0x10000) && decide (a % 0x10000 < 0x1200))))

/-- Memory that composing, conditioning or coding a line may write: the line store, and the reduction log in a pantry. -/
def lineMem (a : Nat) : Bool := decide (a < 0x6000000) || (decide (0x100000000 ≤ a) && decide (a < 0x101000000))

/-- Frame of a command after which slices go on composing and the codec goes on: the registers in `l` apart. -/
def LinesGoOn (l : List Nat) (s t : State) : Prop :=
  t = { s with regs := t.regs, cyc := t.cyc, mem := t.mem, ue := t.ue, ce := t.ce, egress := t.egress, cmp := t.cmp, lst := t.lst
               blankDue := t.blankDue, evLatch := t.evLatch, evBefore := t.evBefore } ∧
  (∀ a, lineReg a = false → a ∉ l → rd a t = rd a s) ∧ (∀ a, lineMem a = false → mb a t = mb a s)

/-- A slice without a working lane stops (R109): NOLANE, its composition abandoned. -/
def SliceStops (cl : Nat) (s t : State) : Prop :=
  rf (R.CLC_LANE cl) 0 2 t = 0 ∧ rb (R.CLC_ASTAT cl) 5 t = true ∧ rb R.TIL_FORCE 0 t = true ∧ rb R.TIL_REDLOST 1 t = true ∧
  (sliceOf cl t).cur = none ∧ (sliceOf cl t).testing = false ∧ LinesGoOn [R.CLC_LANE cl, R.TIL_FORCE, R.TIL_REDLOST] s t

/-- RESULT by the acceptance table (R100): clusters addressed, line, what is pending, HWM, PREP, FORCE. -/
def commitResult (mask : Nat) (line : Int) (s : State) : Nat :=
  if mask = 0 then 6
  else if s.cmp.pend.any (fun p => Nat.land p.mask mask != 0) then 4
  else if line < s.pos.hwm + 3 then 3
  else if line ≤ s.pos.hwm + rf R.TIL_PREP 0 7 s ∧ rb R.CMP_CFG 16 s = false then 5
  else 1
/-- The line in hand after a recovery that used up the redundancy of unit `u` (R139, R171): its status bit, TIL_FORCE and
TIL_REDLOST set, no copy in use, the line entered anew. -/
def LineUnitLost (pipe stat bit_ force red : Nat) (i : Int) (s t : State) : Prop :=
  rf pipe 0 2 t = 0 ∧ rb stat bit_ t = true ∧ rb R.TIL_FORCE force t = true ∧ rb R.TIL_REDLOST red t = true ∧
  (∃ c, t.lst.busy = some c ∧ c.line = i ∧ c.testing = false ∧ c.encTesting = false ∧ c.mis = 0 ∧ c.encMis = 0) ∧
  LinesGoOn [pipe, stat, R.TIL_FORCE, R.TIL_REDLOST] s t

/-- A spare of the line store stands in for slice `k` (R174): LST_SLICE shows it, SLICEREP, and NOSPARE where the
other is used or failing. -/
def StandsIn (k p : Nat) (s t : State) : Prop :=
  rf R.LST_SLICE (8 + 8 * p) 7 t = k ∧ rf R.LST_SLICE (8 + 8 * (1 - p)) 7 t = rf R.LST_SLICE (8 + 8 * (1 - p)) 7 s ∧
  rb R.LST_STAT 5 t = true ∧
  (rf R.LST_SLICE (8 + 8 * (1 - p)) 7 s ≠ 0x7F ∨ 1 - p ∈ s.lst.deadSpares → k ≠ 0x7F → rb R.LST_STAT 6 t = true ∧ rb R.TIL_REDLOST 8 t = true) ∧
  (∀ a, a ∉ [R.LST_SLICE, R.LST_STAT, R.TIL_ASUML, R.TIL_REDLOST] → rd a t = rd a s) ∧
  t = { s with regs := t.regs, cyc := t.cyc, egress := t.egress, lst := t.lst }
/-! ### Head links -/

/-- Registers that frames waiting for their turn on a Gen-3 port move when they leave (R199, R200, R213). -/
def portReg (a : Nat) : Bool :=
  a == R.PEEL_STAT || a == R.TIL_ASUMH || (List.range 8).any (fun k => a == R.HLK_G3P_REPLAY k || a == R.HLK_G3P_RETX k)

/-- Frame of a command that sends or receives on the links: registers but those in `l` and the occupancy of replay buffers
stay; of the rest only the links' own state, the wire and the alarm queue may differ. -/
def OnLinks (l : List Nat) (s t : State) : Prop :=
  t = { s with regs := t.regs, cyc := t.cyc, egress := t.egress, links := t.links, wire := t.wire } ∧
  ∀ a, a ∉ l → (∀ k < 32, a ≠ R.HLK_G3P_REPLAY k) → rd a t = rd a s

/-- Frame `f` as it leaves port `k`: its bytes and its blocks on the lanes of LMASK (R197). -/
def frameOut (k : Nat) (f : Frame3) (s : State) : Out :=
  .gen3 k (frameBytes k f s) (blocksOf k (frameBytes k f s) s)

/-- Frame `f` left Gen-3 port `k` for the first time, with the port's next SEQ, and is kept; the port is taken until its last
block has left (R199). -/
def FrameSent (k : Nat) (f : Frame3) (s t : State) : Prop :=
  (g3Of k t).replay = (g3Of k s).replay ++ [f] ∧ f.seq = (g3Of k s).seq ∧ (g3Of k t).seq = (f.seq + 1) % 65536 ∧ f.sends = 1 ∧
  f.sent = s.time + frameTime k (f.payload.length / 8) s ∧ (g3Of k t).freeAt = f.sent ∧ frameOut k f s ∈ t.wire

/-- Frame `f` of port `k`, kept in the replay buffer, is to go out again (R199, R200): it waits while the port is taken or a
FIRE or TIME frame is due; on a port that is free for it it leaves with RETX and its own SEQ, or is abandoned at its
transmission limit or past the cut-off of its fire (R213). -/
def SentAgain (k : Nat) (f : Frame3) (s t : State) : Prop :=
  let behind := (g3Of k s).again.filter (fun q => q != f.seq)
  let over_ : Prop := rf R.HLK_CFG 8 4 s + 1 ≤ f.sends ∨
    (f.typ ≠ 3 ∧ beforeCutoff k f.g (f.payload.length / 8) f.q s = false)
  OnLinks [R.HLK_G3P_RETX k, R.PEEL_STAT, R.TIL_ASUMH] s t ∧
  ((s.time < (g3Of k s).freeAt ∨ peelWorks s = false ∨
      ((g3Of k s).fires = [] ∧ (timeOwed k s || fireOwed k s) = true)) →
    g3Of k t = { g3Of k s with again := behind ++ [f.seq] } ∧ t.wire = s.wire) ∧
  ((g3Of k s).freeAt ≤ s.time → peelWorks s = true → (g3Of k s).fires = [] → behind = [] →
      (timeOwed k s || fireOwed k s) = false → (g3Of k t).again = [] ∧
    (over_ → (∀ y ∈ (g3Of k t).replay, y.seq ≠ f.seq) ∧ rb R.PEEL_STAT 3 t = true ∧ t.wire = s.wire) ∧
    (¬ over_ → rf (R.HLK_G3P_RETX k) 0 16 t = min 0xFFFF (rf (R.HLK_G3P_RETX k) 0 16 s + 1) ∧
      ∃ f' ∈ (g3Of k t).replay, f'.seq = f.seq ∧ f'.typ = f.typ ∧ f'.q = f.q ∧ f'.g = f.g ∧ f'.n = f.n ∧ f'.w = f.w ∧
        f'.hlane = f.hlane ∧ f'.sends = f.sends + 1 ∧ f'.flags = f.flags ||| 2 ∧ (f.typ ≠ 3 → f'.payload = f.payload) ∧
        (f.typ = 3 → f'.payload = leBytes 8 (s.time % 2 ^ 56) ++ leBytes 8 (rf (R.HLK_G3P_RTT k) 0 24 s)) ∧
        (g3Of k t).freeAt = f'.sent ∧ t.wire = frameOut k f' s :: s.wire))

/-- Port `k` goes down (R204); with AUTOSW and no switch pending the hardware switches to the other table (R191). -/
def PortFails (k : Nat) (s t : State) : Prop :=
  portUp k t = false ∧ portDown k t = true ∧ rb R.HLK_STAT 2 t = true ∧
  (rb R.HLK_CFG 13 s = true → s.links.rswPend = none → t.links.rswPend = some (s.pos.hwm + 5, !rb R.HLK_RSWSTAT 0 s) ∧
    rb R.HLK_STAT 4 t = true) ∧
  (rb R.HLK_CFG 13 s = false → t.links.rswPend = s.links.rswPend)

/-! ### Levain-16 -/

/-- Context c of cell m executes the next command: it holds the cell, and its word (and W, where w = 2) is fetched without an
uncorrectable error. -/
def Ready (cl m w c : Nat) (s : State) : Prop :=
  issuing cl m s = some c ∧ (theCtx cl m c s).pc + (if w = 2 then 1 else 0) < 0x8000 ∧
  ∀ n ≤ 2, max 1 w ≤ n → ∀ j < max 1 w,
    wordAt cl m ((theCtx cl m c s).pc + j) (fetched cl m (theCtx cl m c s).pc n s) ≠ none

/-- PC and slot after a command of w words, w = 0 for a short op (R251). -/
def past (w : Nat) (k : Ctx) : Ctx :=
  if w = 0 ∧ k.slot < 2 then { k with slot := k.slot + 1 } else { k with pc := k.pc + max 1 w, slot := 0 }

/-- Frame: of the cell no more than bank c, MR's fields, the fetch side and the idle count differ; of the rest of the state only
the count of corrected local RAM reads (R382). -/
def CellOnly (cl m c : Nat) (s t : State) : Prop :=
  t = { s with regs := t.regs, cyc := t.cyc, cells := t.cells } ∧ (∀ a, a ≠ R.PAN_LECC cl → rd a t = rd a s) ∧
  (s.ce = [] → t.regs = s.regs ∧ t.cyc = s.cyc) ∧
  (∀ i, i ≠ cl * 16 + m → Sparse.get {} t.cells i = Sparse.get {} s.cells i) ∧
  (∀ d, d ≠ c → theCtx cl m d t = theCtx cl m d s)

/-- Frame: of the cell only bank c, the fetch side and the idle count differ (R247). -/
def BankOnly (cl m c : Nat) (s t : State) : Prop :=
  CellOnly cl m c s t ∧
  cellOf cl m t = { cellOf cl m s with
    ctxs := (cellOf cl m t).ctxs, idleSince := (cellOf cl m t).idleSince, fetch := (cellOf cl m t).fetch }

/-- The command waits: its context and all else stand as they were, but for what its fetch brought. -/
def Waits (cl m c : Nat) (s t : State) : Prop :=
  BankOnly cl m c s t ∧ theCtx cl m c t = theCtx cl m c s ∧ (cellOf cl m t).fetch.held = true

/-- Registers that a corrected read of memory counts in, and the longest waits at the banks of the own pantry (R348, R382,
R386). -/
def memReg (cl a : Nat) : Bool :=
  a == R.FAB_TSECC || a == R.PAN_WMAX01 cl || a == R.PAN_WMAX23 cl ||
    (List.range 16).any (fun j => a == R.PAN_ECCCNT j || a == R.PAN_STAT j || a == R.PAN_LECC j)

/-- Frame of a command that reads memory through the window: as `BankOnly`, with those registers. -/
def WindowOnly (cl m c : Nat) (s t : State) : Prop :=
  t = { s with regs := t.regs, cyc := t.cyc, cells := t.cells } ∧ (∀ a, memReg cl a = false → rd a t = rd a s) ∧
  (∀ i, i ≠ cl * 16 + m → Sparse.get {} t.cells i = Sparse.get {} s.cells i) ∧
  (∀ d, d ≠ c → theCtx cl m d t = theCtx cl m d s) ∧
  cellOf cl m t = { cellOf cl m s with
    ctxs := (cellOf cl m t).ctxs, idleSince := (cellOf cl m t).idleSince, fetch := (cellOf cl m t).fetch }

/-- Command `i` of w words takes `l` from the data stack (top first) and leaves `l'`, takes `q` from the return stack and
leaves `q'`, does `f` to the rest of its context's bank, and goes on to the next op. -/
def Does (cl m : Fin 16) (i : Instr) (w : Nat) (l : List Half) (l' : Ctx → List Half) (q q' : List Half) (f : Ctx → Ctx) : Prop :=
  ∀ (c : Nat) (s : State) (r p : List Half), Ready cl m w c s → (theCtx cl m c s).ds = l ++ r → (theCtx cl m c s).rs = q ++ p →
    (l' (theCtx cl m c s) ++ r).length ≤ 16 → (q' ++ p).length ≤ 16 →
    ∃ t, exec i s = .next t ∧ BankOnly cl m c s t ∧
      theCtx cl m c t = past w { f (theCtx cl m c s) with ds := l' (theCtx cl m c s) ++ r, rs := q' ++ p }

/-- ST with C and V where given, and Z by the result. -/
def flagged (c v : Option Bool) (r st : Half) : Half :=
  let st := match c with
    | some b => setC b st
    | none => st
  let st := match v with
    | some b => setV b st
    | none => st
  stPut 2 (decide (r = 0)) st

/-- A command that leaves one result for `l` and sets flags by it; all depend on the ST before it. -/
def Computes (cl m : Fin 16) (i : Instr) (w : Nat) (l : List Half) (r : Half → Half) (c v : Half → Option Bool) : Prop :=
  Does cl m i w l (fun k => [r k.st]) [] [] (fun k => { k with st := flagged (c k.st) (v k.st) (r k.st) k.st })

/-- The carry of ST as a number. -/
def carry (st : Half) : Half := if stC st then 1 else 0

/-- Does the command claim MR without a save or a restore (R321, R322)? -/
def claimsFree (c : Nat) (x : Cell) (s : State) : Bool := !lazyMr s || x.owner.isNone || x.owner == some c

/-- MR as context c finds it at its claim: restored from its own slot where another context owns MR and the slot is valid. -/
def mrFound (c : Nat) (x : Cell) (s : State) : BitVec 40 :=
  if !claimsFree c x s && bitN x.valid c then Sparse.get 0 x.save c else x.mr

/-- A command of one word that claims MR (R263, R321, R322): it takes `l`, leaves `l'`, changes MR by `g` and writes the parts
`d` of it (0 MRL, 1 MRH, 2 MRG), and changes ST by `f`. -/
def Multiplies (cl m : Fin 16) (i : Instr) (l : List Half) (l' : BitVec 40 → List Half) (g : BitVec 40 → BitVec 40) (d : List Nat)
    (f : BitVec 40 → Half → Half) : Prop :=
  ∀ (c : Fin 8) (s : State) (r : List Half) (k : Ctx) (x : Cell) (v : BitVec 40), k = theCtx cl m c s → x = cellOf cl m s →
    v = mrFound c x s → Ready cl m 1 c s → k.ds = l ++ r → (l' v ++ r).length ≤ 16 → k.rs.length ≤ 16 →
    ∃ t, exec i s = .next t ∧ CellOnly cl m c s t ∧
      theCtx cl m c t = past 1 { k with ds := l' v ++ r, st := f v k.st } ∧
      (cellOf cl m t).mr = g v ∧ (cellOf cl m t).owner = some c.val ∧ (cellOf cl m t).live = true ∧
      (∀ b < 8, bitN (cellOf cl m t).valid b =
        if b = c.val then (bitN x.valid b && lazyMr s && claimsFree c x s)
        else (bitN x.valid b || (!claimsFree c x s && x.live && x.owner == some b))) ∧
      (∀ b : Nat, Sparse.get 0 (cellOf cl m t).save b =
        if !claimsFree c x s && x.live && x.owner == some b then x.mr else Sparse.get 0 x.save b) ∧
      (cellOf cl m t).mrsave = (if !claimsFree c x s && x.live then min 0xFFFF (x.mrsave + 1) else x.mrsave) ∧
      (∀ b < 24, bitN (cellOf cl m t).dirty b = (bitN x.dirty b || (!lazyMr s && d.contains (b - 3 * c.val) && decide (3 * c.val ≤ b)))) ∧
      cellOf cl m t = { x with ctxs := (cellOf cl m t).ctxs, idleSince := (cellOf cl m t).idleSince
                               fetch := (cellOf cl m t).fetch, mr := (cellOf cl m t).mr
                               owner := (cellOf cl m t).owner, live := (cellOf cl m t).live, valid := (cellOf cl m t).valid
                               save := (cellOf cl m t).save, dirty := (cellOf cl m t).dirty, mrsave := (cellOf cl m t).mrsave }

/-- Trap `code` of context c, saved PC, slot and word address given (R277, R324, R327): in contexts 0 to 6 the context is
TRAPPED, its bank kept, and context 7 entered or the trap queued; in context 7 the cell stops. -/
def Traps (cl m c code pc slot adr : Nat) (s t : State) : Prop :=
  Steady s t ∧
  (c < 7 → theCtx cl m c t = { theCtx cl m c s with state := .trapped } ∧
    ((theCtx cl m 7 s).state = .trapidle →
      theCtx cl m 7 t = { ds := [BitVec.ofNat 16 code, BitVec.ofNat 16 c, BitVec.ofNat 16 pc], pc := rf (R.EVC_CELL_CFG cl m) 16 15 s
                          state := .running, winbase := (theCtx cl m 7 s).winbase } ∧
      (cellOf cl m t).trapcode = BitVec.ofNat 16 (0x8000 + c * 256 + code) ∧ (cellOf cl m t).trappc = BitVec.ofNat 16 pc ∧
      (cellOf cl m t).trapsl = BitVec.ofNat 16 slot ∧ (cellOf cl m t).trapadr = BitVec.ofNat 16 adr ∧
      (cellOf cl m t).trapst = stWord cl m c s ∧ (cellOf cl m t).trapact = 0 ∧ (cellOf cl m t).handling = some c ∧
      (cellOf cl m t).handledAt = coreCycle s ∧
      (cellOf cl m t).running = some 7 ∧ (cellOf cl m t).switching = true ∧ rb (R.EVC_STAT cl) 1 t = true) ∧
    ((theCtx cl m 7 s).state ≠ .trapidle → (cellOf cl m t).trapq =
      queueTrap { c := c, code := code, pc := pc, slot := slot, adr := adr, st := stWord cl m c s, at_ := coreCycle s }
        (cellOf cl m s).trapq)) ∧
  (c = 7 → (cellOf cl m t).stopped = true ∧ (cellOf cl m t).trapcode = BitVec.ofNat 16 (0x8700 + code) ∧
    (cellOf cl m t).trapq = [] ∧ (cellOf cl m t).running = none ∧ (∀ d < 8, (theCtx cl m d t).state = .stopped) ∧
    rb (R.EVC_CELL cl m) 31 t = true ∧ rb (R.EVC_STAT cl) 0 t = true)

/-- A transfer of w words (R252, R253): it takes `l` and `q`, and where it is taken it goes to `target` at slot 0, a call with
the address `ret` words on pushed, and the fetch buffer is discarded; a target or a return address outside local RAM is FETCH with no effect. -/
def Transfers (cl m : Fin 16) (i : Instr) (w : Nat) (l l' q : List Half) (taken : Ctx → Bool) (target : Ctx → Int) (ret : Option Nat)
    (f : Ctx → Ctx) : Prop :=
  ∀ (c : Fin 8) (s : State) (r p : List Half) (k : Ctx) (out : Prop), k = theCtx cl m c s → Ready cl m w c s →
    k.ds = l ++ r → k.rs = q ++ p → k.ds.length ≤ 16 → (ret ≠ none → p.length < 16) → p.length ≤ 16 →
    out = (target k < 0 ∨ 0x8000 ≤ target k ∨ ∃ n, ret = some n ∧ 0x8000 ≤ k.pc + n) →
    (taken k = true → ¬ out → ∃ t, exec i s = .next t ∧ BankOnly cl m c s t ∧
      theCtx cl m c t = { f k with ds := l' ++ r, pc := (target k).toNat, slot := 0
                                   rs := (ret.map (fun n => BitVec.ofNat 16 (k.pc + n))).toList ++ p } ∧
      (cellOf cl m t).fetch.buf = []) ∧
    (taken k = true → out → ∃ t adr, exec i s = .next t ∧ Traps cl m c 6 k.pc k.slot adr s t) ∧
    (taken k = false → ∃ t, exec i s = .next t ∧ BankOnly cl m c s t ∧
      theCtx cl m c t = past w { f k with ds := l' ++ r, rs := p })

/-! ### Loads and stores -/

/-- The youngest store buffer entry that holds the memory word of address `a` holds `x` there (R288). -/
def Pending (b a : Nat) (x : Half) (l : List SbEntry) : Prop :=
  ∃ (old : List SbEntry) (e : SbEntry) (young : List SbEntry) (i : Nat), l = old ++ e :: young ∧ (∀ y ∈ young, wordKey b a ∉ entryKeys y) ∧ (entryKeys e)[i]? = some (wordKey b a) ∧
    e.words[i]? = some x ∧ ∀ j < i, (entryKeys e)[j]? ≠ some (wordKey b a)

/-- No store of the word is pending. -/
def NonePending (b a : Nat) (l : List SbEntry) : Prop := ∀ e ∈ l, wordKey b a ∉ entryKeys e

/-- Does a window access at fabric address `f` reach memory: a pantry, a local RAM, the tile store, the line store while it has
power? -/
def hasMemory (f : Nat) (s : State) : Bool :=
  !isBlock f s && (match placeOf f with
    | .nowhere => false
    | .tileReg => false
    | .clusterReg _ => false
    | .lineStore => s.mode != .sleep
    | _ => true)

/-- The byte address of the memory word that address `a` names under the window base `b` (R6, R266, R352). -/
def wordPlace (cl m b a : Nat) : Nat :=
  if a < 0x8000 then localWord cl m a else (b * 4096 + 2 * (a - 0x8000)) % 2 ^ 36

/-- The fabric carries an access of cluster `cl` to the place at `p` (R400). -/
def inReach (cl p : Nat) (s : State) : Bool := (nodesOf p s).all (fun n => carries (clusterNode cl) n s)

/-- Address `a` names a memory word, in local RAM or through the window, that the fabric carries the access to. -/
def namesMemory (cl m b a : Nat) (s : State) : Prop :=
  a < 0x8000 ∨ (a < 0xC000 ∧ hasMemory (wordPlace cl m b a) s = true ∧ inReach cl (wordPlace cl m b a) s = true)

/-- A load of one word by a command of w words: it takes `l`, loads at `a` and pushes the word; `f` acts on the rest of the
bank. A pending store gives the word; else memory, MEMUE where it is uncorrectable; a register block draws DATAERR; what the
fabric does not carry waits; a window address with nothing there reads 0 and is reported; an I/O word reads as its register (R266, R277, R288). -/
def Loads (cl m : Fin 16) (i : Instr) (w : Nat) (l : List Half) (a : Ctx → Nat) (f : Ctx → Ctx) : Prop :=
  ∀ (c : Fin 8) (s : State) (r : List Half) (k : Ctx) (n p : Nat), k = theCtx cl m c s → n = a k →
    p = wordPlace cl m (winBase cl m c s) n → Ready cl m w c s → k.ds = l ++ r → r.length < 16 → k.rs.length ≤ 16 →
    let gets : Half → State → Prop := fun x t => theCtx cl m c t = past w { f k with ds := x :: r }
    (∀ x, Pending (winBase cl m c s) n x (cellOf cl m s).sbuf → ∃ t, exec i s = .next t ∧ BankOnly cl m c s t ∧ gets x t) ∧
    (NonePending (winBase cl m c s) n (cellOf cl m s).sbuf →
      (namesMemory cl m (winBase cl m c s) n s →
        (ueIn p 2 s = false → ∃ t, exec i s = .next t ∧ WindowOnly cl m c s t ∧ (n < 0x8000 → BankOnly cl m c s t) ∧
          gets (BitVec.ofNat 16 (readN p 2 s)) t) ∧
        (ueIn p 2 s = true → ∃ t, exec i s = .next t ∧ Traps cl m c 9 k.pc k.slot n s t)) ∧
      (0x8000 ≤ n → n < 0xC000 →
        (inReach cl p s = false → ∃ t, exec i s = .next t ∧ Waits cl m c s t) ∧
        (isBlock p s = true → inReach cl p s = true → ∃ t, exec i s = .next t ∧ Traps cl m c 7 k.pc k.slot n s t) ∧
        (isBlock p s = false → placeOf p = .nowhere → ∃ t, exec i s = .next t ∧ Steady s t ∧ gets 0 t ∧ rb R.FAB_STAT 4 t = true)) ∧
      (0xC000 ≤ n → ∃ s' t, exec i s = .next t ∧ BankOnly cl m c s s' ∧ theCtx cl m c s' = k ∧
        CellOnly cl m c (ioRead cl m c n s').2 t ∧ gets (ioRead cl m c n s').1 t))

/-- A store of one word by a command of w words: it takes `l`, stores `v` at `a`; `f` acts on the rest of the bank. Local RAM
and window go through the buffer of four entries; with no room the command waits; so it does before a
store to the I/O page while the buffer holds an entry (R266, R287, R289). -/
def Stores (cl m : Fin 16) (i : Instr) (w : Nat) (l : List Half) (a : Ctx → Nat) (v : Half) (f : Ctx → Ctx) : Prop :=
  ∀ (c : Fin 8) (s : State) (r : List Half) (k u : Ctx) (n : Nat) (x : Cell), k = theCtx cl m c s → n = a k → x = cellOf cl m s →
    Ready cl m w c s → k.ds = l ++ r → r.length ≤ 16 → k.rs.length ≤ 16 → u = past w { f k with ds := r } →
    (n < 0xC000 → x.sbuf.length < 4 → ∃ t, exec i s = .next t ∧ CellOnly cl m c s t ∧ theCtx cl m c t = u ∧
      cellOf cl m t = { x with ctxs := (cellOf cl m t).ctxs, idleSince := (cellOf cl m t).idleSince, fetch := (cellOf cl m t).fetch, sbuf := x.sbuf ++
        [{ c := c, addr := n, words := [v], fab := if n < 0x8000 then none else some (wordPlace cl m (winBase cl m c s) n) }] }) ∧
    (n < 0xC000 → 4 ≤ x.sbuf.length → ∃ t, exec i s = .next t ∧ Waits cl m c s t) ∧
    (0xC000 ≤ n → x.sbuf ≠ [] → ∃ t, exec i s = .next t ∧ Waits cl m c s t) ∧
    (0xC000 ≤ n → x.sbuf = [] → ∃ s', BankOnly cl m c s s' ∧ theCtx cl m c s' = u ∧
      (∀ b, (ioWrite cl m c n v s').bad = some b → exec i s = .fault (.reservedBit b)) ∧
      ((ioWrite cl m c n v s').bad = none → exec i s = .next (ioWrite cl m c n v s').s))

/-- STI by context c of cell m can store `v` in a word of the I/O page; `u` is the bank once it has executed. -/
def WordStore (cl m : Fin 16) (c : Fin 8) (v : Half) (s : State) (u : Ctx) : Prop :=
  Ready cl m 2 c s ∧ (cellOf cl m s).sbuf = [] ∧ (theCtx cl m c s).rs.length ≤ 16 ∧ (theCtx cl m c s).ds.length ≤ 16 ∧
  ∃ r, (theCtx cl m c s).ds = v :: r ∧ u = past 2 { theCtx cl m c s with ds := r }

/-- LDI of word `a` pushes `x`, nothing else changing but the counter of free values. -/
def WordReads (cl m : Fin 16) (c : Fin 8) (a x : Half) (s : State) : Prop :=
  ∃ t, exec (.lvLdi cl m a) s = .next t ∧ BankOnly cl m c { s with fresh := t.fresh } t ∧
    theCtx cl m c t = past 2 { theCtx cl m c s with ds := x :: (theCtx cl m c s).ds }

/-- The Levain commands: cluster, cell, and what each takes from and leaves on the two stacks, with its words (R249, R256,
R257, R259, R260: the Stack columns; BR.cc needs T for conditions 7 to 12, R258; PICK n needs item n + 1). -/
def levainOf (i : Instr) : Option (Fin 16 × Fin 16 × Shape) :=
  match i with
  | .lvNop cl m => some (cl, m, {})
  | .lvDup cl m =>
    some (cl, m, { pops := 1, pushes := 2 })
  | .lvDrop cl m | .lvSta cl m | .lvStaInc cl m | .lvStbInc cl m | .lvToA cl m | .lvToB cl m =>
    some (cl, m, { pops := 1 })
  | .lvSwap cl m =>
    some (cl, m, { pops := 2, pushes := 2 })
  | .lvOver cl m =>
    some (cl, m, { pops := 2, pushes := 3 })
  | .lvRot cl m =>
    some (cl, m, { pops := 3, pushes := 3 })
  | .lvAdd cl m | .lvSub cl m | .lvAnd cl m | .lvOr cl m | .lvXor cl m | .lvShl cl m | .lvShr cl m | .lvSar cl m =>
    some (cl, m, { pops := 2, pushes := 1 })
  | .lvNot cl m | .lvNeg cl m | .lvInc cl m | .lvLd cl m =>
    some (cl, m, { pops := 1, pushes := 1 })
  | .lvFromB cl m | .lvLda cl m | .lvLdaInc cl m | .lvLdbInc cl m | .lvFromA cl m =>
    some (cl, m, { pushes := 1 })
  | .lvSt cl m =>
    some (cl, m, { pops := 2 })
  | .lvToRt cl m =>
    some (cl, m, { pops := 1, rpushes := 1 })
  | .lvFromRt cl m =>
    some (cl, m, { pushes := 1, rpops := 1 })
  | .lvRet cl m =>
    some (cl, m, { rpops := 1 })
  | .lvJmp cl m _ | .lvLoop cl m _ | .lvRep cl m _ | .lvIllop cl m | .lvClrm cl m | .lvMovs cl m | .lvMovsd cl m
  | .lvCmps cl m | .lvIfence cl m | .lvYield cl m | .lvDone cl m | .lvTret cl m | .lvTrap cl m _ =>
    some (cl, m, { words := 1 })
  | .lvCall cl m _ =>
    some (cl, m, { rpushes := 1, words := 1 })
  | .lvJz cl m _ | .lvJnz cl m _ | .lvOut cl m _ | .lvSto cl m _ | .lvToRc cl m | .lvToSt cl m | .lvAAdd cl m
  | .lvBAdd cl m | .lvToMrl cl m | .lvToMrh cl m | .lvToMrg cl m | .lvJmpt cl m =>
    some (cl, m, { pops := 1, words := 1 })
  | .lvLit cl m _ | .lvWait cl m _ | .lvIn cl m _ | .lvLdo cl m _ | .lvDepth cl m | .lvRdepth cl m | .lvFromRc cl m
  | .lvFromSt cl m | .lvFromMrl cl m | .lvFromMrh cl m | .lvFromMrg cl m | .lvRnd cl m _ =>
    some (cl, m, { pushes := 1, words := 1 })
  | .lvFjmp cl m _ =>
    some (cl, m, { words := 2 })
  | .lvFcall cl m _ =>
    some (cl, m, { rpushes := 1, words := 2 })
  | .lvFlit cl m _ | .lvLdi cl m _ =>
    some (cl, m, { pushes := 1, words := 2 })
  | .lvFjz cl m _ | .lvFjnz cl m _ | .lvSti cl m _ =>
    some (cl, m, { pops := 1, words := 2 })
  | .lvNip cl m | .lvAdc cl m | .lvSbc cl m | .lvMin cl m | .lvMax cl m | .lvMinu cl m | .lvMaxu cl m | .lvRol cl m
  | .lvRor cl m | .lvAadd cl m | .lvAswap cl m =>
    some (cl, m, { pops := 2, pushes := 1, words := 1 })
  | .lvTuck cl m =>
    some (cl, m, { pops := 2, pushes := 3, words := 1 })
  | .lvTwoDup cl m =>
    some (cl, m, { pops := 2, pushes := 4, words := 1 })
  | .lvTwoDrop cl m | .lvMul cl m | .lvMulu cl m | .lvMac cl m | .lvMacu cl m | .lvMsu cl m =>
    some (cl, m, { pops := 2, words := 1 })
  | .lvMinusRot cl m =>
    some (cl, m, { pops := 3, pushes := 3, words := 1 })
  | .lvRtCopy cl m =>
    some (cl, m, { pushes := 1, rpops := 1, rpushes := 1, words := 1 })
  | .lvDec cl m | .lvAbs cl m | .lvClz cl m | .lvPopc cl m | .lvFills cl m | .lvScans cl m | .lvSums cl m =>
    some (cl, m, { pops := 1, pushes := 1, words := 1 })
  | .lvLd2 cl m =>
    some (cl, m, { pops := 1, pushes := 2, words := 1 })
  | .lvSt2 cl m =>
    some (cl, m, { pops := 3, words := 1 })
  | .lvDiv cl m | .lvDivu cl m =>
    some (cl, m, { pops := 3, pushes := 2, words := 1 })
  | .lvExec cl m =>
    some (cl, m, { pops := 1, rpushes := 1, words := 1 })
  | .lvBr cl m cc _ =>
    if 7 ≤ cc.toNat ∧ cc.toNat ≤ 12 then some (cl, m, { pops := 1, pushes := 1, words := 1 }) else some (cl, m, { words := 1 })
  | .lvPick cl m n => some (cl, m, { pops := n + 1, pushes := n + 2, words := 1 })
  | _ => none

/-! ### Scheduling and events -/

/-- Service of context c ends: ACT of its source clears; a level source whose level is gone is counted (R319, R330, R335). -/
def ServiceEnds (cl m c : Nat) (s t : State) : Prop :=
  t = { s with regs := t.regs, cyc := t.cyc, evAhead := t.evAhead, evBefore := t.evBefore, cells := t.cells } ∧
  (∀ i, i ≠ cl * 16 + m → Sparse.get {} t.cells i = Sparse.get {} s.cells i) ∧
  theCtx cl m c t = { theCtx cl m c s with svc := none } ∧ (∀ d, d ≠ c → theCtx cl m d t = theCtx cl m d s) ∧
  cellOf cl m t = { cellOf cl m s with ctxs := (cellOf cl m t).ctxs, idleSince := (cellOf cl m t).idleSince } ∧
  ((theCtx cl m c s).svc = none → ∀ a, rd a t = rd a s) ∧
  (∀ i < 64, (theCtx cl m c s).svc = some i → (∀ j < 64, actOf cl j t = (actOf cl j s && j != i)) ∧
    (isLevel i = true → levelOf cl i s = false → rf (R.EVC_MERGE cl) 16 16 t = min 0xFFFF (rf (R.EVC_MERGE cl) 16 16 s + 1)) ∧
    (∀ a, a ∉ [R.EVC_ACTL cl, R.EVC_ACTH cl, R.EVC_MERGE cl] → rd a t = rd a s))

/-- Source i can be delivered: pending, unmasked, not in service (R332). -/
def Deliverable (cl i : Nat) (s : State) : Prop := i < 64 ∧ pendOf cl i s = true ∧ maskOf cl i s = true ∧ actOf cl i s = false

/-- Target entry e of source i is enabled for context c of cell e, which waits on a set that holds the source (R332). -/
def Awaits (cl i e c : Nat) (s : State) : Prop :=
  e < 16 ∧ c < 7 ∧ bitsN (rd64 (R.EVC_TGT_L cl i) (R.EVC_TGT_H cl i) s) (4 * e) 4 = 8 + c ∧
  bitN (setOf cl e c (theCtx cl e c s).wset s) i = true ∧ (theCtx cl e c s).state = .waiting

/-- The cell of entry e can receive source i: awake, or its wake bit is set (R334). -/
def Wakes (cl i e : Nat) (s : State) : Prop :=
  (cellOf cl e s).asleep = false ∨ bitN (rd64 (R.EVC_WAKE_L cl e) (R.EVC_WAKE_H cl e) s) i = true

/-- Source i is claimed for entry e: ACT set, the stored PEND cleared, RR at e, the delivery counted (R330, R332). -/
def Claimed (cl i e : Nat) (s t : State) : Prop :=
  t = { s with regs := t.regs, cyc := t.cyc, cells := t.cells, evAhead := t.evAhead, evBefore := t.evBefore } ∧
  actOf cl i t = true ∧ bitN (rd64 (R.EVC_PENDSETL cl) (R.EVC_PENDSETH cl) t) i = false ∧ rf (R.EVC_SRC cl i) 10 4 t = e ∧
  rf (R.EVC_DELIV cl) 0 16 t = min 0xFFFF (rf (R.EVC_DELIV cl) 0 16 s + 1) ∧
  (∀ j < 64, j ≠ i → pendOf cl j t = pendOf cl j s ∧ actOf cl j t = actOf cl j s) ∧
  (∀ a, a ∉ [R.EVC_ACTL cl, R.EVC_ACTH cl, R.EVC_PENDSETL cl, R.EVC_PENDSETH cl, R.EVC_SRC cl i, R.EVC_DELIV cl] → rd a t = rd a s)

/-- Context c of cell m comes before context d: the scheduling key (R316), context 7 ahead of all. -/
def Before (cl m c d : Nat) (s : State) : Prop :=
  c = 7 ∨ (d ≠ 7 ∧ (prioOf cl m c s < prioOf cl m d s ∨ (prioOf cl m c s = prioOf cl m d s ∧ c < d)))

/-- With the cell free, the READY context of least key runs; with none the cell idles (R317). -/
def BestRuns (cl m : Nat) (s t : State) : Prop :=
  (∀ d < 8, (∀ e < 8, e ≠ d → (theCtx cl m e s).state = .ready → Before cl m d e s) → (theCtx cl m d s).state = .ready →
    (cellOf cl m t).running = some d ∧ (cellOf cl m t).switching = true ∧ theCtx cl m d t = { theCtx cl m d s with state := .running } ∧
    ∀ e, e ≠ d → theCtx cl m e t = theCtx cl m e s) ∧
  ((∀ d < 8, (theCtx cl m d s).state ≠ .ready) → (cellOf cl m t).running = none ∧ ∀ e, theCtx cl m e t = theCtx cl m e s)

/-- The bank of a context as it is started (R312), with its state. -/
def Started (cl m c : Nat) (s : State) (k : Ctx) : Prop :=
  (k.state = .ready ∨ k.state = .running) ∧ k = { pc := rf (R.EVC_CELL_PC cl m c) 0 15 s, state := k.state }

/-- Frame: what commands on contexts touch: cells, registers of the event controller, stages and latches; PEND only where
a source delivered in this core cycle is offered again (R333). -/
def OnContexts (cl m : Nat) (s t : State) : Prop :=
  t = { s with regs := t.regs, cyc := t.cyc, cells := t.cells, evAhead := t.evAhead, evBefore := t.evBefore, stages := t.stages, latches := t.latches } ∧
  (∀ i, i ≠ cl * 16 + m → Sparse.get {} t.cells i = Sparse.get {} s.cells i) ∧
  (∀ a, a ∉ [R.EVC_ACTL cl, R.EVC_ACTH cl, R.EVC_MERGE cl, R.EVC_PENDSETL cl, R.EVC_PENDSETH cl] → rd a t = rd a s) ∧
  ((∀ c < 7, (theCtx cl m c s).svc = none ∨ (theCtx cl m c s).given ≠ coreCycle s) →
    rd (R.EVC_PENDSETL cl) t = rd (R.EVC_PENDSETL cl) s ∧ rd (R.EVC_PENDSETH cl) t = rd (R.EVC_PENDSETH cl) s)

/-- `t'` is `t` with the requester answered OK. -/
def Asked (t t' : State) : Prop := t' = { t with rdata := 0, rstat := 0 }

/-! ### Timers -/

/-- The registers a tick of timer n writes. -/
def tmrRegs (cl n : Nat) : List Nat := [R.TMR_CTL cl n, R.TMR_CNT cl n, R.TMR_PER cl n, R.TMR_STAT cl n]

/-- A tick of timer n is due in this core cycle (R358 to R361, R363): EN, an open gate, the prescaler at its end or a source
that has acted; not where the cycle's tick is taken or lost, or the master resets the timer, or a reload stands in its place
(R364). -/
def ticks (cl n : Nat) (s : State) : Bool :=
  let x := tmrOf cl n s
  rb (R.TMR_CTL cl n) 0 s && gateTmr cl n s &&
    ((tClk cl n s == 0 && decide (tPre cl n s ≤ x.rho)) || (decide (1 ≤ tClk cl n s ∧ tClk cl n s ≤ 4) && x.now.due)) &&
    !x.now.spent && !x.now.zero && !x.now.above

/-- Frame of a tick of timer n: its registers, its own entry. -/
def TimerOnly (cl n : Nat) (l : List Nat) (s t : State) : Prop :=
  t = { s with regs := t.regs, cyc := t.cyc, tmr := t.tmr } ∧ (∀ a, a ∉ l → rd a t = rd a s) ∧
  ∀ j, j ≠ cl * 8 + n → Sparse.get {} t.tmr j = Sparse.get {} s.tmr j

/-- The timer overflows (R358, R362, R364): CNT 0, PER from its buffer, a one-shot stops, OVF, and MAT where CMP is 0; the
event stands for the next core cycle. -/
def Overflows (cl n : Nat) (s t : State) : Prop :=
  rd (R.TMR_CNT cl n) t = 0 ∧ rd (R.TMR_PER cl n) t = ((tmrOf cl n s).pbuf.map (BitVec.ofNat 32)).getD (rd (R.TMR_PER cl n) s) ∧
  (∀ i < 32, rb (R.TMR_CTL cl n) i t = (rb (R.TMR_CTL cl n) i s && !(decide (i = 0) && rb (R.TMR_CTL cl n) 1 s))) ∧
  rb (R.TMR_STAT cl n) 0 t = true ∧ rb (R.TMR_STAT cl n) 1 t = (rb (R.TMR_STAT cl n) 1 s || decide (rd (R.TMR_CMP cl n) s = 0)) ∧
  (∀ i < 32, 2 ≤ i → rb (R.TMR_STAT cl n) i t = rb (R.TMR_STAT cl n) i s) ∧
  tmrOf cl n t = { tmrOf cl n s with
    pbuf := none
    now := { (tmrOf cl n s).now with
      spent := true, ovf := true, mat := (tmrOf cl n s).now.mat || decide (rd (R.TMR_CMP cl n) s = 0) } }

/-- A byte in a pantry, a local RAM or the tile store whose word holds no error. -/
def plainByte (a : Nat) (s : State) : Bool :=
  (match placeOf a with
    | .pantry _ => true
    | .localRam _ _ => true
    | .tileStore => true
    | _ => false) && !ueIn a 1 s && (cesIn a 1 s).isEmpty

/-! ### Tests of memory, the fabric, the die link -/

/-- Words of `l` among the bad words, and corrections that reading `l` brings (R348): those found, and those of words that
held a single-bit error. -/
def badIn (l : List Nat) (s : State) : Nat := (s.ue.filter (fun w => l.contains w)).length
def goodIn (l : List Nat) (found : Found) (s : State) : Nat :=
  min l.length found.corrected.length + (s.ce.filter (fun w => l.contains w)).length

/-- What a test access that reads the words `l` (byte addresses) leaves: memory as it was; each word found bad stands in
error, each other one of `l` is sound again; the two counts in `cnt`, low half corrected, high half bad; the registers outside
`a` as they were; the engine's entry at `x`. -/
def TestRead (key : Nat) (x : Tester) (l : List Nat) (found : Found) (cnt : Nat) (a : List Nat) (s t : State) : Prop :=
  testerOf key t = x ∧ (∀ k, k ≠ key → testerOf k t = testerOf k s) ∧
  t = { s with regs := t.regs, cyc := t.cyc, ue := t.ue, ce := t.ce, egress := t.egress, tester := t.tester } ∧
  (∀ w ∈ s.ue, w ∈ t.ue) ∧ (∀ w ∈ t.ue, w ∈ s.ue ∨ w ∈ l) ∧ ((found.bad = [] ∨ l = []) → t.ue = s.ue) ∧
  (∀ i ∈ found.bad.take l.length, ∀ w, l[i.val % l.length]? = some w → w ∈ t.ue) ∧ t.ce = s.ce.filter (fun w => !l.contains w) ∧
  (found.bad = [] → rf cnt 0 16 t = min 0xFFFF (rf cnt 0 16 s + goodIn l found s)) ∧
  rf cnt 16 16 t = min 0xFFFF (rf cnt 16 16 s + badIn l t) ∧ (∀ r, r ∉ a → rd r t = rd r s)

/-- An alarm of type `typ` is in the queue or counted (R415), its summary bit set. -/
def Alarmed (typ : Nat) (t : State) : Prop :=
  rb (if typ < 32 then R.TIL_ASUML else R.TIL_ASUMH) (typ % 32) t = true ∧
  ((∃ p ∈ t.egress.alarm, p.pt = 0x40 ∧ p.arg % 64 = typ) ∨ (coalOf typ t).count ≠ 0)

/-- The oldest packet entries of a channel's queue after one more packet `p`. -/
def Answered (p : Packet) (s t : State) : Prop := t.egress.rsp = s.egress.rsp ++ [p]

/-- Every node of the fabric has a crossbar left (R399, R400). -/
def FabricWhole (s : State) : Prop := ∀ n < 20, Sparse.get 2 s.fab.copies n ≠ 0

/-- The link and the fabric carry packets, no request waits and the RSP partition has room for 8 + n bytes. -/
def RequestsGo (n : Nat) (s : State) : Prop :=
  FabricWhole s ∧ s.mode ≠ .cold ∧ s.dlk.trained = true ∧ s.dlk.noasp = false ∧ s.dlk.req = [] ∧ queueBytes s.egress.rsp + 8 + n ≤ 8192

/-- The link and the fabric carry packets and no content packet waits; the modes that hold content are past (R402). -/
def ContentGoes (s : State) : Prop :=
  FabricWhole s ∧ s.mode ≠ .cold ∧ s.dlk.trained = true ∧ s.dlk.noasp = false ∧ s.dlk.content = [] ∧ s.ingress.content = none ∧
  ingressHeld s = false

/-- Credits of channel c owed for a packet of n payload bytes (R406). -/
def OwesFor (c n : Nat) (s t : State) : Prop :=
  t.dlk = { s.dlk with owed := t.dlk.owed } ∧
  ∀ d, Sparse.get 0 t.dlk.owed d = Sparse.get 0 s.dlk.owed d + (if d = c then (8 + n + 63) / 64 else 0)

/-! ### The sync chain -/

/-- Frame of a command on the sync chain: registers but those in `l`, the alarm summary and source 22's PEND and MERGE stay; of
the rest only the chain's own state, the wire, the alarm queue and a BLANK falling due (R445) may differ. -/
def OnChain (l : List Nat) (s t : State) : Prop :=
  t = { s with regs := t.regs, cyc := t.cyc, egress := t.egress, evLatch := t.evLatch, evBefore := t.evBefore, syn := t.syn
               wire := t.wire, fresh := t.fresh, blankDue := t.blankDue } ∧
  ∀ a, a ∉ l → a ≠ R.TIL_ASUMH → (∀ cl < 16, a ≠ R.EVC_PENDSETL cl ∧ a ≠ R.EVC_MERGE cl) → rd a t = rd a s

/-- What R445 asks for CONS = 1, the roles being decided. -/
def ConsHolds (t : State) : Prop :=
  rf R.SYN_COND 0 5 t = 0 ∧
    ((rb R.SYN_STAT 1 t = true ∧ rb R.SYN_STAT 2 t = true) ∨
      (t.syn.inconsUp = false ∧ rd R.SYN_IMASK t = 0 ∧ rb R.SYN_COND 5 t = false ∧
        (rb R.SYN_STAT 1 t = true ∨ t.syn.rotated = true)))

/-- SYN_STAT.CONS and CHAINALM say what they should. -/
def ConsShown (t : State) : Prop :=
  (rb R.SYN_STAT 0 t = true ↔ ConsHolds t) ∧ rb R.SYN_STAT 5 t = (t.syn.almUp || t.syn.almDown)

/-- Tiles that a mask names. -/
def tilesIn (v : Nat) : Nat := ((List.range 32).filter (fun i => v.testBit i)).length

/-- Lines, position and epoch set from outside: a renumbering to position `p` and high-water mark `h` (R443, R444, R493). -/
def Renumbered (p h : Int) (s t : State) : Prop :=
  pOf t = p ∧ t.pos.hwm = h ∧ t.first = none ∧ t.due = [] ∧ t.cmp.composed = [] ∧ t.links.xfers = [] ∧ t.mode = s.mode ∧
  t.pending = s.pending ∧ t.time = s.time ∧ t.mem = s.mem ∧ t.ue = s.ue ∧ t.cells = s.cells ∧ t.tmr = s.tmr ∧ t.dma = s.dma ∧
  rb R.POS_STAT 7 t = decide (2 ^ 39 - 2 ^ 32 ≤ h) ∧ rb R.POS_STAT 8 t = decide (2 ^ 39 - 1 ≤ h)

/-! ### Modes -/

/-- The table of R453: the targets a request may name. -/
def byRequest : Mode → List Mode
  | .idle => [.armed, .spit, .calibrate, .sleep, .safe]
  | .armed => [.print, .blank, .calibrate, .idle, .safe]
  | .print => [.armed, .blank, .drain, .safe]
  | .blank => [.print, .armed, .drain, .idle, .safe]
  | .spit => [.idle, .safe]
  | .calibrate => [.idle, .safe]
  | .drain => [.blank, .idle, .safe]
  | .sleep => [.idle]
  | .safe => [.idle]
  | _ => []

/-- A standing condition or a closed gate forbids the target (R455, R456): TIL_FORCE bits 3 to 7 force SAFE, 0 to 2 BLANK. -/
def Forbidden (m : Mode) (s : State) : Prop :=
  (m ≠ .safe ∧ ∃ i, 3 ≤ i ∧ i < 8 ∧ (forceBits s).getLsbD i = true) ∨
  ((m = .print ∨ m = .calibrate) ∧ (forceBits s ≠ 0 ∨ gateOpen s = false)) ∨
  (m = .drain ∧ ∃ i < 3, (forceBits s).getLsbD i = true)

/-- RESULT of a request for mode `m` (R451, R453, R455, R456). Where both CONS and HELD apply the spec names no order. -/
def Decides (m : Mode) (r : Nat) (s : State) : Prop :=
  (s.forcedAt = some (coreCycle s) → r = 6) ∧
  (s.forcedAt ≠ some (coreCycle s) →
    ((s.sleepEntry = true ∨ s.waking = true) → r = 5) ∧
    (s.sleepEntry = false → s.waking = false →
      (m = s.mode → r = 7) ∧ (m ≠ s.mode → m ∉ byRequest s.mode → r = 2) ∧
      (m ∈ byRequest s.mode →
        let cons : Prop := m = .print ∧ rb R.SYN_STAT 0 s = false
        (cons → Forbidden m s → r = 3 ∨ r = 4) ∧ (cons → ¬ Forbidden m s → r = 3) ∧ (¬ cons → Forbidden m s → r = 4) ∧
        (¬ cons → ¬ Forbidden m s → r = 1))))

/-- TIL_MSTAT shows RESULT and NAME, SEQ one higher; the requester is answered OK. -/
def RequestShown (r n : Nat) (s t : State) : Prop :=
  rf R.TIL_MSTAT 0 3 t = r ∧ rf R.TIL_MSTAT 4 4 t = n ∧ rf R.TIL_MSTAT 8 8 t = (rf R.TIL_MSTAT 8 8 s + 1) % 256 ∧ Answers 0 t

/-- Only the answer to a request: TIL_MSTAT, the requester's data, the counter of free values. -/
def OnlyAnswered (s t : State) : Prop := OnlyRegs [R.TIL_MSTAT] s t

/-- A mode entered: its registers, the count of changes, and the queue, the clock, the seal and the mode's history. -/
def Entered (m : Mode) (cause : Nat) (s t : State) : Prop :=
  t.mode = m ∧ t.prev = s.mode ∧ t.cause = cause ∧ rf R.TIL_MCHGCNT 0 16 t = min 0xFFFF (rf R.TIL_MCHGCNT 0 16 s + 1) ∧
  rdLine R.TIL_MCHGL R.TIL_MCHGH t = sext 40 (h40 s.pos.hwm) ∧ t.pending = s.pending ∧ t.time = s.time ∧ t.sealed = s.sealed ∧
  t.cells = s.cells ∧ pOf t = pOf s ∧ t.pos.hwm = s.pos.hwm

/-- End of the line store's address range. -/
def lineStoreEnd : Nat := 0x6000000

end Sys2Proof.Claims
end

