-- ==== Sys2Proof/Certificates/Slice0/Obligations.lean ====
section
/-! DEFINITION. The statements for the provers. A statement about commands says that the command answers a next state,
what that state holds, and what it leaves as it was. -/

section Statements

open Sys2Proof Sys2Proof.Machine Sys2Proof.Claims

/-! ### The step -/

/-- A step runs the command at the front of the queue on the state with the queue's rest. -/
def Obligations.StepRunsFrontCommand : Prop :=
  ∀ (c : Instr) (r : List Instr) (s : State), s.pending = c :: r → step s = exec c { s with pending := r }

/-- With an empty queue 250 ps pass, but none in COLD, where no clock runs (the model's choice, log entry 2): the queue stays,
and so do the mode and the memories while no DMA unit runs and no content or stream packet is held. No command is refused, and
none stops but a register write that carries 1 in a reserved bit (R14). -/
def Obligations.StepsGoOn : Prop :=
  (∀ s : State, s.pending = [] → ∃ t, step s = .next t ∧ (s.mode = .cold → t = s) ∧
    (s.mode ≠ .cold → t.time = s.time + 1 ∧ t.pending = [] ∧
      ((∀ e ∈ s.dma, e.2.unit = none) → s.dlk.content = [] → s.dlk.stream = [] → t.mode = s.mode ∧ t.mem = s.mem ∧ t.ue = s.ue))) ∧
  (∀ (c : Instr) (s : State), (∃ t, exec c s = .next t) ∨ ∃ a, exec c s = .fault (.reservedBit a))

/-! ### Registers (R11, R14 to R16, R355 to R357, R390) -/

/-- REGISTER_WRITE of a register without a row of its own: each bit as its access code says, a W1C bit that hardware has set
in this core cycle kept, an SL field of a sealed tile kept and answered SEALED with a sealed-write event, everything else as it was.
The model's reading or choice in it: log entries 5, 7, 8. -/
def Obligations.RegisterWriteActsByAccessCodes : Prop :=
  ∀ (w : Writer) (a : BitVec 36) (v : Word) (s : State) (r : RegRow),
    rowAt a.toNat = some r → codesAlone a.toNat = true → a.toNat % 4 = 0 → reaches w a.toNat s = true →
    (∀ i < 32, v.getLsbD i = true → r.defined.testBit i = true) →
    ∃ t, exec (.registerWrite w a v) s = .next t ∧
      (∀ i < 32, (rd a.toNat t).getLsbD i = bitAfter r s.sealed ((setNow a.toNat s).getLsbD i) ((rd a.toNat s).getLsbD i) (v.getLsbD i) i) ∧
      (hitsSeal r a.toNat v s → t.rstat = 3 ∧ ∃ q, t.egress = { s.egress with event := q } ∧
        q.getLast? = some { pt := 0x41, payload := leBytes 8 (h40 s.pos.hwm + 2 * 2 ^ 56) ++ leBytes 8 a.toNat }) ∧
      (¬ hitsSeal r a.toNat v s → t.rstat = 0 ∧ t.egress = s.egress) ∧
      (∀ b, b ≠ a.toNat → ¬ (b = R.ASP_DROP ∧ hitsSeal r a.toNat v s) → rd b t = rd b s) ∧
      t = { s with regs := t.regs, cyc := t.cyc, egress := t.egress, rdata := 0, rstat := t.rstat }

/-- A write that carries 1 in a reserved bit stops the model: the spec does not define its effect (R14). A write at an
aligned address of the register space that holds no register, or at one where nothing lies, is discarded and reported (R11,
R418, R421). A requester that is not served (R400, R402, R426, R460): no register changes; in LOAD the die link's write is
answered ERR.
The model's reading or choice in it: log entries 5, 71. -/
def Obligations.WritesThatAreNotTaken : Prop :=
  (∀ (w : Writer) (a : BitVec 36) (v : Word) (s : State) (r : RegRow) (i : Nat),
    rowAt a.toNat = some r → a.toNat % 4 = 0 → reaches w a.toNat s = true → i < 32 → v.getLsbD i = true →
    r.defined.testBit i = false → exec (.registerWrite w a v) s = .fault (.reservedBit a.toNat)) ∧
  (∀ (w : Writer) (a : BitVec 36) (v : Word) (s : State),
    (isRegPlace a.toNat = true ∨ placeOf a.toNat = .nowhere) → reached a.toNat s = [] → a.toNat % 4 = 0 →
    reaches w a.toNat s = true →
    ∃ t q, exec (.registerWrite w a v) s = .next t ∧ t.rstat = 0 ∧
      t = { s with regs := t.regs, cyc := t.cyc, egress := { s.egress with event := q }, rdata := 0, rstat := 0 } ∧
      q.getLast? = some { pt := 0x41, payload := leBytes 8 (h40 s.pos.hwm + 2 ^ 56) ++ leBytes 8 a.toNat } ∧
      rd R.FAB_AERRL t = a.setWidth 32 ∧ rd R.FAB_AERRH t = BitVec.ofNat 32 (a.toNat / 2 ^ 32) ∧
      rb R.FAB_STAT 4 t = true ∧ rf R.FAB_AERRCNT 0 16 t = min 0xFFFF (rf R.FAB_AERRCNT 0 16 s + 1) ∧
      (∀ b, b ∉ [R.FAB_AERRL, R.FAB_AERRH, R.FAB_AERRCNT, R.FAB_STAT, R.ASP_DROP] → rd b t = rd b s)) ∧
  (∀ (w : Writer) (s : State),
    ∀ e ∈ [(Instr.decrst w, R.POS_CTL), (.fonow w, R.POS_CTL), (.rebase w, R.SYN_CTL), (.streamReset w, R.CMP_STR_CTL),
      (.align w, R.SYN_CTL), (.newepoch w, R.SYN_CTL), (.realign w, R.WAV_CFG), (.dieLinkRetrain w, R.DLK_ALM),
      (.requestIdle w, R.TIL_MODE), (.requestArmed w, R.TIL_MODE), (.requestPrint w, R.TIL_MODE), (.requestBlank w, R.TIL_MODE),
      (.requestSpit w, R.TIL_MODE), (.requestCalibrate w, R.TIL_MODE), (.requestDrain w, R.TIL_MODE),
      (.requestSleep w, R.TIL_MODE), (.requestSafe w, R.TIL_MODE)], reaches w e.2 s = false →
      ∃ t, exec e.1 s = .next t ∧ OnlyRegs [] s t ∧ t.fresh = s.fresh ∧
        (∀ r, w = .host r → s.mode = .load → t.rdata = 0 ∧ t.rstat = 1) ∧ (s.mode ≠ .load → t = s))

/-- The reads that return their RC field to its Reset value: the requester gets the value held (R15, R52, R57). What the
field counted in the core cycle of the read is not in what the requester gets, and stays (R16).
RC_FIELD_READ of a register that holds RC fields and whose value is the stored one (the event capture counters, the
reduction counters, the drop counts): the requester gets the value; every RC bit is back at Reset, every other bit as it was
(R15, R16: sealing does not matter). -/
def Obligations.ReadsThatClear : Prop :=
  (∀ (w : Writer) (s : State),
    (hears w R.POS_LPERMIN s = true → ∃ t, exec (.posLperminRead w) s = .next t ∧ OnlyRegs [R.POS_LPERMIN] s t ∧ t.rstat = 0 ∧
      (eventsNow R.POS_LPERMIN s = [] → t.rdata = rd R.POS_LPERMIN s ∧ rd R.POS_LPERMIN t = regReset R.POS_LPERMIN)) ∧
    (∀ n : Fin 4, hears w (R.POS_ENC_ERR n) s = true → ∃ t, exec (.posEncErrRead w n) s = .next t ∧
      OnlyRegs [R.POS_ENC_ERR n] s t ∧ t.rstat = 0 ∧
      (eventsNow (R.POS_ENC_ERR n) s = [] → t.rdata = rd (R.POS_ENC_ERR n) s ∧ rd (R.POS_ENC_ERR n) t = regReset (R.POS_ENC_ERR n)) ∧
      (∀ e, eventsNow (R.POS_ENC_ERR n) s = [e] → e.lo + e.w ≤ 32 → 1 ≤ e.w → fld t.rdata e.lo e.w = e.old % 2 ^ e.w ∧
        rf (R.POS_ENC_ERR n) e.lo e.w t = e.kept % 2 ^ e.w)) ∧
    (hears w R.LST_OCCMAX s = true → ∃ t, exec (.lstOccmaxRead w) s = .next t ∧ OnlyRegs [R.LST_OCCMAX] s t ∧ t.rstat = 0 ∧
      (eventsNow R.LST_OCCMAX s = [] → t.rdata = rd R.LST_OCCMAX s ∧ rf R.LST_OCCMAX 0 21 t = occupancy s % 2 ^ 21)) ∧
    (hears w R.COD_MODES0 s = true → ∃ t, exec (.codModes0Read w) s = .next t ∧ t.rdata = rd R.COD_MODES0 s ∧ t.rstat = 0 ∧
      t = { s with rdata := t.rdata, rstat := 0, latches := t.latches } ∧
      Sparse.get [] t.latches (Writer.key w) = [(R.COD_MODES1, (rd R.COD_MODES1 s).toNat),
        (R.COD_MODES2, (rd R.COD_MODES2 s).toNat), (R.COD_LSIZE, (rd R.COD_LSIZE s).toNat)])) ∧
  (∀ (w : Writer) (a : BitVec 36) (s : State),
    a.toNat ∈ [R.LST_DROPCNT, R.LST_REDSEG, R.LST_REDLINE, R.LST_LOG_DROP, R.LST_ECCCNT, R.NZL_SQ_DROP, R.TIL_MCHGCNT] →
    hears w a.toNat s = true → Sparse.get [] s.latches (Writer.key w) = [] → s.lst.tabErr.all (fun e => e.1 != .table a.toNat) →
    ∃ t, exec (.rcFieldRead w a) s = .next t ∧ OnlyRegs [a.toNat] s t ∧ t.rdata = beforeEvents a.toNat (rd a.toNat s) s ∧
      t.rstat = 0 ∧ (eventsNow a.toNat s = [] → t.rdata = rd a.toNat s) ∧
      (eventsNow a.toNat s = [] → ∀ i < 32, (rd a.toNat t).getLsbD i =
        (if (rowAt a.toNat).any (fun r => r.rc.testBit i) then (regReset a.toNat).getLsbD i else (rd a.toNat s).getLsbD i)))

/-- A couple of 32-bit registers (R356, R357): a write of L is staged and the registers stay; a write of H with L staged
places both at once; a read of L gives the value in effect and latches that of H; a read of H gives the latched value and
frees it.
The model's reading or choice in it: log entry 75. -/
def Obligations.RegisterCouple : Prop :=
  ∀ (w : Writer) (a : BitVec 36) (v : Word) (s : State), a.toNat ∈ [R.CMP_CMTL, R.NZL_CMTL] →
    s.lst.tabErr.all (fun e => e.1 != .table a.toNat && e.1 != .table (a.toNat + 4)) →
    (reaches w a.toNat s = true → ∃ t, exec (.pairLowWrite w (.fab a) v) s = .next t ∧ Answers 0 t ∧
      t = { s with stages := t.stages, rdata := 0, rstat := 0 } ∧
      Sparse.get none t.stages (Writer.key w) = some (a.toNat + 4, v.toNat)) ∧
    (reaches w a.toNat s = true → v.toNat < 256 → ∀ l : Nat, Sparse.get none s.stages (Writer.key w) = some (a.toNat + 4, l) →
      ∃ t, exec (.pairHighWrite w (.fab a) v) s = .next t ∧ Answers 0 t ∧ Sparse.get none t.stages (Writer.key w) = none ∧
      rd a.toNat t = BitVec.ofNat 32 l ∧ fld (rd (a.toNat + 4) t) 0 8 = v.toNat ∧
      (∀ b, b ∉ [a.toNat, a.toNat + 4] → rd b t = rd b s) ∧
      t = { s with regs := t.regs, cyc := t.cyc, stages := t.stages, rdata := 0, rstat := 0 }) ∧
    (hears w a.toNat s = true → Sparse.get [] s.latches (Writer.key w) = [] →
      ∃ t, exec (.pairLowRead w (.fab a)) s = .next t ∧ t.rdata = beforeEvents a.toNat (rd a.toNat s) s ∧ t.rstat = 0 ∧
      t = { s with rdata := t.rdata, rstat := 0, fresh := t.fresh, latches := t.latches } ∧
      Sparse.get [] t.latches (Writer.key w) = [(a.toNat + 4, (rd (a.toNat + 4) s).toNat)]) ∧
    (hears w a.toNat s = true → ∀ h < 2 ^ 32, Sparse.get [] s.latches (Writer.key w) = [(a.toNat + 4, h)] →
      ∃ t, exec (.pairHighRead w (.fab a)) s = .next t ∧ t.rdata = BitVec.ofNat 32 h ∧ t.rstat = 0 ∧
      t = { s with rdata := t.rdata, rstat := 0, fresh := t.fresh, latches := t.latches } ∧
      Sparse.get [] t.latches (Writer.key w) = [])

/-! ### Reset, loading, test port (R426 to R437, R453, R454, R475, R478, R483, R485) -/

/-- RESET_ASSERT: COLD, every register at its Reset value, every memory word zero and sound, nothing sealed, the pins low.
That the test port and the fuses stay is R475 and R485; that commands wait on is the model's own (log entry 19). COLD_END:
LOAD begins, POS_TIME starts, the die link trains, a fuse bit in progress is the last; the loader drives the flash port,
resets the flash and reads SFDP; that the detection ends at a free moment within its 100 µs is log entry 127. Outside COLD
nothing happens. -/
def Obligations.ResetAndColdEnd : Prop :=
  (∀ s : State, ∃ t, exec .resetAssert s = .next t ∧ t.mode = .cold ∧ (∀ a, rd a t = regReset a) ∧ (∀ a, mb a t = 0) ∧
    t.ue = [] ∧ t.ce = [] ∧ t.sealed = false ∧ t.patch = [] ∧ t.cells = [] ∧ t.wire = .protective :: s.wire ∧ t.jtag = s.jtag ∧
    t.pending = s.pending) ∧
  (∀ (f : FlashInfo) (s : State),
    (s.mode = .cold → ∃ t, exec (.coldEnd f) s = .next t ∧ t.mode = .load ∧ t.prev = .cold ∧ t.time = 0 ∧
      t.dlk.training = true ∧ t.jtag = { s.jtag with prog := s.jtag.prog.take 1 } ∧
      t.loader = { flash := some f, hasB := f.sfdp && decide (27 ≤ f.density.toNat), drives := true
                   detectEnds := t.loader.detectEnds } ∧ t.loader.detectEnds ≤ 400000 ∧
      t.wire.take 3 = [.flash .readSfdp, .flash (.resetPair false), .flash (.resetPair true)] ∧
      (∀ a, a ∉ [R.TIL_MCHGL, R.TIL_MCHGH, R.TIL_MCHGCNT] →
        (∀ k < 32, a ≠ R.HLK_G3P_REPLAY k) → rd a t = rd a s) ∧
      t.mem = s.mem ∧ t.ue = s.ue ∧ t.sealed = s.sealed ∧ t.patch = s.patch ∧ t.cells = s.cells ∧ t.pending = s.pending) ∧
    (s.mode ≠ .cold → exec (.coldEnd f) s = .next s))

/-- SECTION_TABLE_READ. In phase 0 the detection is over before it: without a flash the load fails with NOFLASH; with one
phase 1 begins, FMODE and STA_FLASH showing what SFDP says. In phase 1 a wrong header rejects the copy with HDRBAD, a malformed table with SECBAD; a good
one is kept, IMGID, SVN and IMGLEN are shown, and TESTWAIT begins, or READ where the self-test has ended.
The model's reading or choice in it: log entries 83, 84. -/
def Obligations.SectionTableIsChecked : Prop :=
  (∀ (img : List Byte) (f : FlashInfo) (s : State), s.mode = .load → rf R.STA_STAT 0 3 s = 0 → s.loader.flash = some f →
    (f.present = false → ∃ t, exec (.sectionTableRead img) s = .next t ∧ LoadFails 0x10 s t) ∧
    (f.present = true → ∃ u, Detected f s u ∧ exec (.sectionTableRead img) s = exec (.sectionTableRead img) u)) ∧
  ∀ (img : List Byte) (s : State), s.mode = .load → rf R.STA_STAT 0 3 s = 1 →
    (¬ headerRight img → ∃ t, exec (.sectionTableRead img) s = .next t ∧ Rejected 0x11 s t) ∧
    (headerRight img → ¬ tableRight img → ∃ t s', exec (.sectionTableRead img) s = .next t ∧ Rejected 0x12 s' t ∧
      s' = { s with regs := s'.regs, cyc := s'.cyc } ∧ ∀ a, a ∉ [R.STA_IMGID, R.STA_SVN, R.STA_IMGLEN] → rd a s' = rd a s) ∧
    (headerRight img → tableRight img → ∃ t, exec (.sectionTableRead img) s = .next t ∧
      rf R.STA_STAT 0 3 t = (if s.loader.tested then 3 else 2) ∧
      (rd R.STA_IMGID t).toNat = getLE img 20 4 ∧ (rd R.STA_SVN t).toNat = getLE img 16 4 % 64 ∧
      (rd R.STA_IMGLEN t).toNat = getLE img 8 4 ∧
      t.loader.hdr = slice img 0 (256 + 32 * getLE img 12 2) ∧
      t.loader.secs = (List.range (getLE img 12 2)).map
        (fun i => { typ := secType img i, off := secOff img i, len := secLen img i, dest := secDest img i }) ∧
      (∀ i < 32, 3 ≤ i → (rd R.STA_STAT t).getLsbD i = (rd R.STA_STAT s).getLsbD i) ∧
      (∀ a, a ∉ [R.STA_STAT, R.STA_IMGID, R.STA_SVN, R.STA_IMGLEN] → rd a t = rd a s) ∧
      t = { s with regs := t.regs, cyc := t.cyc, loader := { s.loader with hdr := t.loader.hdr, secs := t.loader.secs }
                   wire := if s.loader.tested then .flash (.read (rf R.STA_STAT 6 2 s) (fourBytes s)
                     (copyBase s + (256 + 32 * getLE img 12 2))) :: s.wire else s.wire })

/-- LOAD_SELF_TEST_END: every memory word reads zero; without a failure nothing else changes but the phase; a failing
line-store slice takes a free spare, a failing pantry row or local-RAM region one of its spares, counted in STA_REPAIR; a
failing tile-store word, or a failure without a spare, fails the load with SELFTEST. That a failing spare slice is free no
more is the model's reading (log entry 127).
The model's reading or choice in it: log entries 85, 127. -/
def Obligations.LoadSelfTestRepairs : Prop :=
  ∀ (s : State), s.mode = .load → rf R.STA_STAT 0 3 s < 3 → s.loader.tested = false →
    (∀ r, ∃ t, exec (.loadSelfTestEnd r) s = .next t ∧ t.mem = [] ∧ t.ue = [] ∧ t.ce = [] ∧
      t.loader = { s.loader with tested := true, drives := t.loader.drives } ∧
      t.mode = s.mode ∧ t.pending = s.pending ∧ t.jtag = s.jtag ∧ t.time = s.time) ∧
    (∃ t, exec (.loadSelfTestEnd { slices := [], rows := [], regions := [], tileStore := false }) s = .next t ∧
      rf R.STA_STAT 0 3 t = (if rf R.STA_STAT 0 3 s = 2 then 3 else rf R.STA_STAT 0 3 s) ∧
      (∀ a, a ≠ R.STA_STAT → rd a t = rd a s) ∧
      t = { s with regs := t.regs, cyc := t.cyc, mem := [], ue := [], ce := [], loader := t.loader, wire := t.wire }) ∧
    (∀ k : Fin 74, 72 ≤ k.val → ∃ t, exec (.loadSelfTestEnd { slices := [k], rows := [], regions := [], tileStore := false }) s = .next t ∧
      k.val - 72 ∈ t.lst.deadSpares ∧ ∀ a, a ≠ R.STA_STAT → rd a t = rd a s) ∧
    (∀ k : Fin 74, k.val < 72 → spareOf 0 s = none → 0 ∉ s.lst.deadSpares → rf R.STA_REPAIR 0 8 s < 255 →
      ∃ t, exec (.loadSelfTestEnd { slices := [k], rows := [], regions := [], tileStore := false }) s = .next t ∧
        rf R.LST_SLICE 8 7 t = k.val ∧ rf R.STA_REPAIR 0 8 t = rf R.STA_REPAIR 0 8 s + 1 ∧
        (∀ a, a ∉ [R.STA_STAT, R.LST_SLICE, R.STA_REPAIR] → rd a t = rd a s)) ∧
    (∀ (cl : Fin 16) (k : Fin 4), rf (R.PAN_SPARE cl) (4 * k) 3 s < 4 → rf R.STA_REPAIR 0 8 s < 255 →
      ∃ t, exec (.loadSelfTestEnd { slices := [], rows := [(cl, k)], regions := [], tileStore := false }) s = .next t ∧
        rf (R.PAN_SPARE cl) (4 * k) 3 t = rf (R.PAN_SPARE cl) (4 * k) 3 s + 1 ∧
        rf R.STA_REPAIR 0 8 t = rf R.STA_REPAIR 0 8 s + 1 ∧
        (∀ a, a ∉ [R.STA_STAT, R.PAN_SPARE cl, R.STA_REPAIR] → rd a t = rd a s)) ∧
    (∀ (cl m : Fin 16), rf (R.PAN_LSPARE cl) (2 * m) 2 s < 2 → rf R.STA_REPAIR 0 8 s < 255 →
      ∃ t, exec (.loadSelfTestEnd { slices := [], rows := [], regions := [(cl, m)], tileStore := false }) s = .next t ∧
        rf (R.PAN_LSPARE cl) (2 * m) 2 t = rf (R.PAN_LSPARE cl) (2 * m) 2 s + 1 ∧
        rf R.STA_REPAIR 0 8 t = rf R.STA_REPAIR 0 8 s + 1 ∧
        (∀ a, a ∉ [R.STA_STAT, R.PAN_LSPARE cl, R.STA_REPAIR] → rd a t = rd a s)) ∧
    (∀ r s', s' = { s with mem := [], ue := [], ce := [], loader := { s.loader with tested := true } } →
      (r = { slices := [], rows := [], regions := [], tileStore := true } ∨
       (∃ k : Fin 74, k.val < 72 ∧ (∀ p < 2, spareOf p s ≠ none ∨ p ∈ s.lst.deadSpares) ∧ r = { slices := [k], rows := [], regions := [], tileStore := false }) ∨
       (∃ (cl : Fin 16) (k : Fin 4), 4 ≤ rf (R.PAN_SPARE cl) (4 * k) 3 s ∧
          r = { slices := [], rows := [(cl, k)], regions := [], tileStore := false }) ∨
       (∃ cl m : Fin 16, 2 ≤ rf (R.PAN_LSPARE cl) (2 * m) 2 s ∧
          r = { slices := [], rows := [], regions := [(cl, m)], tileStore := false })) →
      ∃ t, exec (.loadSelfTestEnd r) s = .next t ∧ LoadFails 0x16 s' t)

/-- IMAGE_READ_COMPLETE of a copy of MEM, INST and NOTE sections: the flash port is released, VERIFY begins; a byte in no MEM
range is as it was, a byte in one MEM range is the section's; the three digests stand in the registers. A PATCH section fills
the patch RAM word by word, and nothing else is written (R429). With SFDP, or within 16 MiB, the copy is what the flash holds
(R426); that without SFDP what lies beyond is free is the model's (log entry 127).
The model's reading or choice in it: log entries 84, 86, 127. -/
def Obligations.SectionsAreWritten : Prop :=
  (∀ (img : List Byte) (s : State), s.mode = .load → rf R.STA_STAT 0 3 s = 3 →
    (∀ x ∈ s.loader.secs, x.typ = 2 ∨ x.typ = 4 ∨ x.typ = 5) →
    ((∀ f, s.loader.flash = some f → f.sfdp = true ∨ img.length ≤ 2 ^ 24) → within img s = img) ∧
    ∃ t whole, exec (.imageReadComplete img) s = .next t ∧
      whole = slice (s.loader.hdr ++ (within img s).drop s.loader.hdr.length) 0 (getLE s.loader.hdr 8 4) ∧
      rf R.STA_STAT 0 3 t = 4 ∧
      (∀ a, (∀ x ∈ s.loader.secs, x.typ = 2 → ¬ (x.dest ≤ a ∧ a < x.dest + x.len)) → mb a t = mb a s) ∧
      (∀ x ∈ s.loader.secs, x.typ = 2 → ∀ k < x.len,
        (∀ y ∈ s.loader.secs, y.typ = 2 → y.dest ≤ x.dest + k → x.dest + k < y.dest + y.len → y = x) →
        mb (x.dest + k) t = (slice whole x.off x.len).getD k 0) ∧
      (∀ j < 8, rd (R.STA_IDIG j) t = (sha256 whole).extractLsb' (32 * j) 32) ∧
      (∀ x, s.loader.secs.find? (fun y => y.typ == 4) = some x → ∀ j < 8,
        rd (R.STA_CDIG j) t = (sha256 (slice whole x.off x.len)).extractLsb' (32 * j) 32 ∧
        rd (R.STA_BDIG j) t =
          (sha256 (whole.take x.off ++ whole.drop (x.off + x.len))).extractLsb' (32 * j) 32) ∧
      t.loader.trailer = slice ((within img s).drop (getLE s.loader.hdr 8 4)) 0 128 ∧ t.loader.drives = false ∧
      (∀ a, a ≠ R.STA_STAT → (∀ j < 8, a ≠ R.STA_IDIG j ∧ a ≠ R.STA_BDIG j ∧ a ≠ R.STA_CDIG j) → rd a t = rd a s) ∧
      t = { s with regs := t.regs, cyc := t.cyc, mem := t.mem, ue := t.ue, ce := t.ce, loader := t.loader, fresh := t.fresh
                   wire := if s.loader.drives then .flash .release :: s.wire else s.wire }) ∧
  (∀ (img : List Byte) (s : State) (x y : Section), s.mode = .load → rf R.STA_STAT 0 3 s = 3 → s.loader.secs = [x, y] →
    x.typ = 1 → x.len = 576 → y.typ = 4 →
    ∃ t, exec (.imageReadComplete img) s = .next t ∧
      (∀ i < 144, Sparse.get 0 t.patch i = getLE (slice (slice (s.loader.hdr ++ (within img s).drop s.loader.hdr.length) 0
        (getLE s.loader.hdr 8 4)) x.off 576) (4 * i) 4) ∧
      t = { s with regs := t.regs, cyc := t.cyc, patch := t.patch, loader := t.loader, fresh := t.fresh
                   wire := if s.loader.drives then .flash .release :: s.wire else s.wire })

/-- VERIFY_COMPLETE: a digest or body mismatch, a signature that fails where SIGEN is set, an SVN below the blown rollback
bits each reject the copy; else CHECK begins, with SIGCHK where SIGEN is set.
The model's reading or choice in it: log entries 9, 83. -/
def Obligations.VerificationAcceptsOrRejects : Prop :=
  ∀ (s : State) (dig : Prop), s.mode = .load → rf R.STA_STAT 0 3 s = 4 →
    (dig ↔ slice s.loader.trailer 0 32 = leBytes 32 (imageDigest s) ∧ s.loader.bodyOk = true) →
    ∀ (sigen sig : Bool) (blown : Nat), sigen = s.jtag.fuses.getLsbD 0 → sig = signatureOk s →
    blown = ((List.range 32).filter (fun i => s.jtag.fuses.getLsbD (1 + i))).length →
    (¬ dig → ∃ t, exec .verifyComplete s = .next t ∧ Rejected 0x13 s t) ∧
    (dig → sigen = true → sig = false → ∃ t, exec .verifyComplete s = .next t ∧ Rejected 0x14 s t) ∧
    (dig → (sigen = true → sig = true) → getLE s.loader.hdr 16 4 < blown →
      ∃ t s', exec .verifyComplete s = .next t ∧ Rejected 0x15 s' t ∧ s' = (if sigen then wb R.STA_STAT 11 true s else s)) ∧
    (dig → (sigen = true → sig = true) → blown ≤ getLE s.loader.hdr 16 4 →
      ∃ t, exec .verifyComplete s = .next t ∧ rf R.STA_STAT 0 3 t = 5 ∧
        rb R.STA_STAT 11 t = (sigen || rb R.STA_STAT 11 s) ∧ t = { s with regs := t.regs, cyc := t.cyc } ∧
        ∀ a, a ≠ R.STA_STAT → rd a t = rd a s)

/-- SLOT_CHECK_COMPLETE: a collision of class-0 slots fails the load with SLOTCOL; else DONE: the flash port released, the
configuration sealed, both
decoders at p = 256 × LINE0, the high-water mark LINE0, epoch 0, PROOF. PROOF_EXIT: IDLE once the conditions of R454 hold,
or 100 ms after PROOF began; till then nothing changes.
The model's reading or choice in it: log entries 82, 83, 87. -/
def Obligations.LoadAndProofEnd : Prop :=
  (∀ (s : State), s.mode = .load → rf R.STA_STAT 0 3 s = 5 →
    (SlotsCollide s → ∃ t, exec .slotCheckComplete s = .next t ∧ LoadFails 0x17 s t) ∧
    (¬ SlotsCollide s → ∃ t, exec .slotCheckComplete s = .next t ∧ t.mode = .proof ∧ t.prev = .load ∧ t.sealed = true ∧
      rb R.STA_STAT 10 t = true ∧ rf R.STA_STAT 0 3 t = 6 ∧
      (let line := sext 40 (getLE s.loader.hdr 24 5)
       t.pos.d0.p = 256 * line ∧ t.pos.d0.r = 0 ∧ t.pos.d1.p = 256 * line ∧ t.pos.d1.r = 0 ∧ t.pos.hwm = line) ∧
      rd R.SYN_EPOCH t = 0 ∧ t.mem = s.mem ∧ t.ue = s.ue ∧ t.patch = s.patch ∧ t.loader = { s.loader with drives := false } ∧
      t.jtag = s.jtag ∧ rb R.POS_STAT 7 t = decide (2 ^ 39 - 2 ^ 32 ≤ t.pos.hwm) ∧
      t.time = s.time ∧ t.pending = s.pending)) ∧
  (∀ (s : State),
    (s.mode = .proof → (proofDone s = true ∨ s.proofAt + 400000000 ≤ s.time) →
      ∃ t, exec .proofExit s = .next t ∧ t.mode = .idle ∧ t.prev = .proof ∧ t.cause = 0 ∧ t.sealed = s.sealed ∧
        t.pending = s.pending ∧ t.time = s.time ∧ t.jtag = s.jtag ∧ t.loader = s.loader) ∧
    ((s.mode ≠ .proof ∨ (proofDone s = false ∧ s.time < s.proofAt + 400000000)) → exec .proofExit s = .next s))

/-- The test port's instructions: which register is selected, what it captures, what Update-DR does; nothing outside the
test port changes. FUSE_BIT_PROGRAMMED: the bit in progress is blown, unless it is a key hash bit after KEYLOCK; no other
fuse changes.
The model's reading or choice in it: log entries 13, 88, 89. -/
def Obligations.TestPortAndFuses : Prop :=
  (∀ (s : State) (x y : BitVec 336) (mask : BitVec 290),
    exec (.extest x) s = .next { s with jtag := { s.jtag with ir := 0x00, dr := x, bsr := x } } ∧
    exec .idcode s = .next { s with jtag := { s.jtag with ir := 0x01, dr := 0x14816B4F } } ∧
    exec (.samplePreload x y) s = .next { s with jtag := { s.jtag with ir := 0x02, dr := x, bsr := y } } ∧
    (∃ d, exec .fuserd s = .next { s with jtag := { s.jtag with ir := 0x10, dr := d } } ∧
      (∀ i < 290, d.getLsbD i = s.jtag.fuses.getLsbD i) ∧ d.getLsbD 290 = (s.jtag.prog != [])) ∧
    (∃ d, exec (.fusepgm mask) s = .next { s with jtag := { s.jtag with ir := 0x11, dr := d, prog :=
      s.jtag.prog ++ (if s.mode = .cold then (List.range 290).filter (fun i => mask.getLsbD i) else []) } }) ∧
    (∃ t, exec .bypass s = .next t ∧ t = { s with jtag := { s.jtag with ir := 0xFF, dr := t.jtag.dr } }) ∧
    exec .tapReset s = .next { s with jtag := { s.jtag with ir := 0x01 } }) ∧
  (∀ (s : State) (i : Nat) (r : List Nat), s.jtag.prog = i :: r → i < 290 →
    ∃ t, exec .fuseBitProgrammed s = .next t ∧
      t = { s with jtag := { s.jtag with fuses := t.jtag.fuses, prog := r } } ∧
      ∀ j < 290, t.jtag.fuses.getLsbD j =
        (s.jtag.fuses.getLsbD j || (j == i && !(decide (33 ≤ i ∧ i ≤ 288) && s.jtag.fuses.getLsbD 289))))

/-! ### The position unit (R21, R43, R45 to R78) -/

/-- QUADRATURE_EDGE of an accepted edge: a change of A or B alone is one count in the input's CNT, and, on the input that
drives p, one step of both decoders by NUM ÷ DEN; with no arbitration running, a move of p to a line above the high-water
mark takes the mark there, one boundary for each line (or none in SLEEP), but never past 2^39 − 1; the mark never falls. A
change of both together counts in ILL. An edge within the hold-off of its signal gives nothing. That A leads B in forward
motion is the model's (log entry 14). -/
def Obligations.QuadratureEdgesCount : Prop :=
  ∀ (n : Fin 4) (e e' : QEdge) (s : State) (x : Filt) (d : Int), s.mode ≠ .cold → s.mode ≠ .load →
    rb (R.POS_ENC_CTL n) 0 s = true → x = (encOf n s).f →
    d = (if (e' = .a ↔ x.a = x.b) then 1 else -1) * (if rb (R.POS_ENC_CTL n) 1 s then -1 else 1) →
    (accepted e s.time x = none → n.val ≠ driveInput s → exec (.quadratureEdge n e) s = .next s) ∧
    (accepted e s.time x = some e' → e' ≠ .ab → ∃ t, exec (.quadratureEdge n e) s = .next t ∧
      rd (R.POS_ENC_CNT n) t = rd (R.POS_ENC_CNT n) s + BitVec.ofInt 32 d ∧
      (encOf n t).f.a = (if e' = .a then !x.a else x.a) ∧ (encOf n t).f.b = (if e' = .b then !x.b else x.b) ∧
      (let u := if widthOf n s = 0 then none else some (s.time + 2 * widthOf n s)
       (encOf n t).f.endA = (if e' = .a then u else x.endA) ∧ (encOf n t).f.endB = (if e' = .b then u else x.endB)) ∧
      (n.val ≠ driveInput s → (∀ a, a ≠ R.POS_ENC_CNT n → rd a t = rd a s) ∧
        t = { s with regs := t.regs, cyc := t.cyc, pos := { s.pos with enc := t.pos.enc } }) ∧
      (Follows n s →
        Counted (driveNum s) (driveDen s) d s.pos.d0 t.pos.d0 ∧ Counted (driveNum s) (driveDen s) d s.pos.d1 t.pos.d1 ∧
        t.pos.use = s.pos.use ∧ s.pos.hwm ≤ t.pos.hwm ∧
        (s.pos.arb = true → t.pos.hwm = s.pos.hwm) ∧
        (s.pos.arb = false → s.pos.issued ≤ pOf t →
          t.pos.hwm = max s.pos.hwm (min (fdiv (pOf t) 256) (2 ^ 39 - 1))))) ∧
    (accepted e s.time x = some .ab → ∃ t, exec (.quadratureEdge n e) s = .next t ∧
      rd (R.POS_ENC_CNT n) t = rd (R.POS_ENC_CNT n) s ∧
      rf (R.POS_ENC_ERR n) 0 12 t = min 4095 (rf (R.POS_ENC_ERR n) 0 12 s + 1) ∧
      ((n.val ≠ driveInput s ∨ (Follows n s ∧ s.pos.illLine < 16 ∧ rb R.POS_STAT 2 s = false)) →
        SamePlace s t ∧ (∀ a, a ≠ R.POS_ENC_ERR n → rd a t = rd a s) ∧ t = { s with regs := t.regs, cyc := t.cyc, pos := t.pos }) ∧
      (Follows n s → (16 ≤ s.pos.illLine ∨ rb R.POS_STAT 2 s = true) → EncoderLost (failoverReady n s) s t))

/-- HOLD_OFF_EXPIRY at the end of the interval: the hold-off ends and the signal is sampled; a difference is undone by the
opposite of the count that the accepted edge gave, and GLT counts it; before the end nothing happens. The upkeep of an input:
ADAPTED_WIDTH_UPDATE clamps a quarter of E_min to GFMIN and GFMAX; GLITCH_FILTER_WRITE sets the program width; Z_EDGE checks
the count since the last Z edge in forward motion; STOP_DETECTION after 2^24 position cycles without a count sets STOPPED and
clears POS_VEL. -/
def Obligations.GlitchesAndEncoderUpkeep : Prop :=
  (∀ (n : Fin 4) (g : QSig) (level : Bool) (s : State) (x : Filt) (cur : Bool) (c : Int), counting s = true → x = (encOf n s).f →
    cur = (match g with | .a => x.a | .b => x.b) → c = (match g with | .a => x.cntA | .b => x.cntB) →
    (ended g s.time x = false → n.val ≠ driveInput s → exec (.holdOffExpiry n g level) s = .next s) ∧
    (ended g s.time x = true → ∃ t, exec (.holdOffExpiry n g level) s = .next t ∧
      (match g with | .a => (encOf n t).f.endA = none ∧ (encOf n t).f.a = level
                    | .b => (encOf n t).f.endB = none ∧ (encOf n t).f.b = level) ∧
      (level = cur → (n.val ≠ driveInput s ∨ Follows n s) → (∀ a, rd a t = rd a s) ∧ SamePlace s t ∧
        t = { s with pos := t.pos }) ∧
      (level ≠ cur → rf (R.POS_ENC_ERR n) 12 12 t = min 4095 (rf (R.POS_ENC_ERR n) 12 12 s + 1) ∧
        rd (R.POS_ENC_CNT n) t = rd (R.POS_ENC_CNT n) s - BitVec.ofInt 32 c ∧
        (n.val ≠ driveInput s → (∀ a, a ∉ [R.POS_ENC_CNT n, R.POS_ENC_ERR n] → rd a t = rd a s) ∧
          t = { s with regs := t.regs, cyc := t.cyc, pos := { s.pos with enc := t.pos.enc } }) ∧
        (Follows n s → (c = 1 ∨ c = -1) →
          Counted (driveNum s) (driveDen s) (-c) s.pos.d0 t.pos.d0 ∧
          Counted (driveNum s) (driveDen s) (-c) s.pos.d1 t.pos.d1)))) ∧
  (∀ (n : Fin 4) (s : State),
    (∀ m, 256 ≤ (encOf n s).edges → (encOf n s).emin = some m → ∃ t, exec (.adaptedWidthUpdate n) s = .next t ∧
      encOf n t = { encOf n s with
        adapted := min (rf (R.POS_ENC_GF n) 16 8 s) (max (rf (R.POS_ENC_GF n) 8 8 s) (m / 4)), edges := 0, emin := none } ∧
      (∀ k, k ≠ n.val → encOf k t = encOf k s) ∧ t = { s with pos := { s.pos with enc := t.pos.enc } }) ∧
    (∀ (w : Writer) (v : Word), v &&& 0xFE000000 = 0 → reaches w (R.POS_ENC_GF n) s = true →
      ∃ t, exec (.glitchFilterWrite w n v) s = .next t ∧ (encOf n t).prog = fld v 0 8 ∧
        (s.mode ≠ .load → (encOf n t).adapted = (encOf n s).adapted) ∧
        fld (rd (R.POS_ENC_GF n) t) 0 8 = fld v 0 8 ∧ rb (R.POS_ENC_GF n) 24 t = bit v 24 ∧
        (s.sealed = true → fld (rd (R.POS_ENC_GF n) t) 8 16 = fld (rd (R.POS_ENC_GF n) s) 8 16) ∧
        (s.sealed = false → fld (rd (R.POS_ENC_GF n) t) 8 16 = fld v 8 16) ∧
        t.rstat = (if s.sealed = true ∧ fld v 8 16 ≠ fld (rd (R.POS_ENC_GF n) s) 8 16 then 3 else 0) ∧
        (∀ a, a ≠ R.POS_ENC_GF n → a ≠ R.ASP_DROP → rd a t = rd a s) ∧
        t = { s with regs := t.regs, cyc := t.cyc, egress := t.egress, rdata := 0, rstat := t.rstat, pos := { s.pos with enc := t.pos.enc } }) ∧
    (s.mode ≠ .cold → s.mode ≠ .load → rb (R.POS_ENC_CTL n) 0 s = true → ∃ t, exec (.zEdge n) s = .next t ∧
      (encOf n t).lastZ = some (rd (R.POS_ENC_CNT n) s).toInt ∧ (encOf n t).revs = 0 ∧
      (∀ z, (encOf n s).lastZ = some z → rb (R.POS_ENC_CTL n) 2 s = true → (encOf n s).revs = 0 →
        2 < (wrapS 32 ((rd (R.POS_ENC_CNT n) s).toInt - z) - rf (R.POS_ENC_CTL n) 8 24 s).natAbs →
        rf (R.POS_ENC_ERR n) 24 8 t = min 255 (rf (R.POS_ENC_ERR n) 24 8 s + 1) ∧
        (n.val = driveInput s → rb R.POS_STAT 12 t = true)) ∧
      ((rb (R.POS_ENC_CTL n) 2 s = false ∨ (encOf n s).lastZ = none ∨ (encOf n s).revs ≠ 0 ∨
        ∃ z, (encOf n s).lastZ = some z ∧
          (wrapS 32 ((rd (R.POS_ENC_CNT n) s).toInt - z) - rf (R.POS_ENC_CTL n) 8 24 s).natAbs ≤ 2) →
        ∀ a, rd a t = rd a s) ∧
      (∀ a, a ∉ [R.POS_ENC_ERR n, R.POS_STAT, R.TIL_ASUML] → rd a t = rd a s) ∧
      t = { s with regs := t.regs, cyc := t.cyc, egress := t.egress, pos := { s.pos with enc := t.pos.enc } }) ∧
    (s.mode ≠ .cold → s.mode ≠ .load → s.pos.countAt + 2 ^ 25 ≤ s.time →
      ∃ t, exec .stopDetection s = .next t ∧ rd R.POS_VEL t = 0 ∧ rb R.POS_STAT 6 t = true ∧
        (∀ i < 32, i ≠ 6 → rb R.POS_STAT i t = rb R.POS_STAT i s) ∧
        (∀ a, a ∉ [R.POS_VEL, R.POS_STAT] → rd a t = rd a s) ∧ t = { s with regs := t.regs, cyc := t.cyc }))

/-- Dual decoding: DECODER_DISAGREEMENT of 4 position cycles or more starts arbitration, a shorter one leaves nothing;
ARBITRATION_END, 128 position cycles later, keeps the decoder that the replay agrees with, gives its state to the other and
sets DECFAIL, or finds the encoder lost; FONOW fails over where the conditions hold; DECRST returns a dropped decoder that has
agreed for 2^20 counts, and is otherwise discarded. What the replay starts from, and that agreement is of position and
remainder, is the model's reading; which decoder stays where both agree is open, the command's operand (log entry 106).
The model's reading or choice in it: log entries 101, 106. -/
def Obligations.DecodersAreArbitrated : Prop :=
  ∀ (s : State),
    (∀ (which : Fin 2) (dev : Deviation),
      (dev.cycles.toNat < 4 → exec (.decoderDisagreement which dev) s = .next s) ∧
      (s.mode ≠ .cold → s.mode ≠ .load → 4 ≤ dev.cycles.toNat → s.pos.dropped = none → s.pos.arb = false →
        s.pos.d0.p + (if which = 0 then dev.ticks.toInt else 0) ≠ s.pos.d1.p + (if which = 0 then 0 else dev.ticks.toInt) →
        ∃ t, exec (.decoderDisagreement which dev) s = .next t ∧ t.pos.arb = true ∧ t.pos.arbAt = s.time ∧
          rb R.POS_STAT 0 t = true ∧ rb R.POS_STAT 1 t = true ∧ t.pos.hwm = s.pos.hwm ∧
          t.pos.d0.p = s.pos.d0.p + (if which = 0 then dev.ticks.toInt else 0) ∧
          t.pos.d1.p = s.pos.d1.p + (if which = 0 then 0 else dev.ticks.toInt) ∧
          (∀ a, a ∉ [R.POS_STAT, R.TIL_ASUML] → rd a t = rd a s) ∧
          t = { s with regs := t.regs, cyc := t.cyc, egress := t.egress, pos := t.pos })) ∧
    ((s.pos.arb = false ∨ s.time < s.pos.arbAt + 256) → ∀ prefer, exec (.arbitrationEnd prefer) s = .next s) ∧
    (s.pos.arb = true → s.pos.arbAt + 256 ≤ s.time → ∀ (agrees : Dec → Prop),
      agrees = (fun x => x.p = (replayed s).p ∧ x.r = (replayed s).r) →
      (∀ prefer keep : Fin 2, agrees (if keep = 0 then s.pos.d0 else s.pos.d1) →
        (prefer = keep ∨ ¬ agrees (if keep = 0 then s.pos.d1 else s.pos.d0)) →
        ∃ t, exec (.arbitrationEnd prefer) s = .next t ∧ t.pos.arb = false ∧
        t.pos.d0 = (if keep = 0 then s.pos.d0 else s.pos.d1) ∧ t.pos.d1 = t.pos.d0 ∧
        t.pos.use = keep.val ∧ t.pos.dropped = some (1 - keep.val) ∧ t.pos.agreed = 0 ∧ rb R.POS_STAT 2 t = true ∧
        rb R.TIL_REDLOST 0 t = true ∧
        (t.pos.issued = pOf t ∧ (s.pos.issued ≤ pOf t → t.pos.hwm = max s.pos.hwm (min (fdiv (pOf t) 256) (2 ^ 39 - 1))))) ∧
      (¬ agrees s.pos.d0 → ¬ agrees s.pos.d1 → s.pos.issued = pOf s → fdiv (pOf s) 256 ≤ s.pos.hwm →
        ∀ prefer, ∃ t, exec (.arbitrationEnd prefer) s = .next t ∧ t.pos.arb = false ∧ rb R.POS_STAT 0 t = false ∧
          EncoderLost (mayFailover s) { s with pos := { s.pos with arb := false } } t)) ∧
    (∀ w, reaches w R.POS_CTL s = true → ∃ t, exec (.fonow w) s = .next t ∧ Answers 0 t ∧
      (mayFailover s = true → FailedOver s t ∧ (s.pos.arb = false → t.pos.hwm = s.pos.hwm ∧ rd R.POS_VEL t = 0 ∧
        (∀ a, a ∉ [R.POS_STAT, R.TIL_ASUML, R.POS_VEL] → rd a t = rd a s) ∧
        t = { s with regs := t.regs, cyc := t.cyc, egress := t.egress, pos := t.pos, rdata := 0, rstat := 0 })) ∧
      (mayFailover s = false → t = { s with rdata := 0, rstat := 0 })) ∧
    (∀ w, reaches w R.POS_CTL s = true → ∃ t, exec (.decrst w) s = .next t ∧ Answers 0 t ∧
      (s.pos.dropped ≠ none → 2 ^ 20 ≤ s.pos.agreed → t.pos.dropped = none ∧ rb R.POS_STAT 2 t = false ∧
        (∀ i < 32, i ≠ 2 → rb R.POS_STAT i t = rb R.POS_STAT i s) ∧ (∀ a, a ≠ R.POS_STAT → rd a t = rd a s) ∧
        t = { s with regs := t.regs, cyc := t.cyc, pos := { s.pos with dropped := none, agreed := 0 }, rdata := 0, rstat := 0 }) ∧
      ((s.pos.dropped = none ∨ s.pos.agreed < 2 ^ 20) → t = { s with rdata := 0, rstat := 0 }))

/-- PREDICTED_FIRE, EDGE_LOCKED_FIRE, PLACEMENT_CANCEL, STROBE_PULSE_END: a row group fires its next line once, at its instant
and not before; a prediction is the instant nearest to the crossing of θ at the measured velocity, for a threshold within the
next count; the edge-locked instant lies 4.0 ns and ELDLY after the crossing count, and waits for an arbitration; a placement
too late is cancelled till the next count; a pulse falls after WIDTH, or 2.0 ns before the next fire with STBSHORT.
The model's reading or choice in it: log entries 17, 23, 27, 46, 100. -/
def Obligations.RowGroupsFireWhenPlaced : Prop :=
  ∀ (g : Fin 64) (s : State),
    (∀ f t, armedPlacement g s = some (f, t) → (s.time < t → exec (.predictedFire g) s = .next s) ∧
      (t ≤ s.time → ∃ u, exec (.predictedFire g) s = .next u ∧ (rgOf g u).fired = some f.q ∧
        (rgOf g u).pend = none ∧ SamePlace s u ∧ Steady s u)) ∧
    (∀ t t0 x0 n d, predict g s = some t → s.pos.win.head? = some (t0, x0) → velocity s = some (n, d) →
      0 < n ∧ (rgOf g s).fired ≠ some (nextFire g s).q ∧ (nextFire g s).q < 2 ^ 39 ∧
      (let dist : Int := (256 * (nextFire g s).q + (nextFire g s).f) * driveDen s - x0
       0 ≤ dist ∧ dist < driveNum s ∧ 2 * (((t : Int) - t0) * n - dist * d) ≤ n ∧ -n ≤ 2 * (((t : Int) - t0) * n - dist * d)) ∧
      (rb (R.POS_PHASE g) 0 s = false → (rgOf g s).cancelled = false → (rgOf g s).kept = none →
        placement g s = some (nextFire g s, t))) ∧
    (∀ f c, (rgOf g s).pend = some f → (rgOf g s).elk = some c → rb (R.POS_PHASE g) 0 s = true →
      ((s.time < c + 16 + rf (R.POS_PHASE g) 12 12 s ∨ s.pos.arb = true) → exec (.edgeLockedFire g) s = .next s) ∧
      (c + 16 + rf (R.POS_PHASE g) 12 12 s ≤ s.time → s.pos.arb = false →
        ∃ u, exec (.edgeLockedFire g) s = .next u ∧ (rgOf g u).fired = some f.q ∧ (rgOf g u).pend = none ∧ SamePlace s u ∧
        Steady s u ∧
        (f.fires = true → groupDown g f.q s = false → s.mode ≠ .safe → s.jtag.ir ≠ 0 →
          ∀ o < 32, rb (R.HLK_STB o) 12 s = true → rf (R.HLK_STB o) 0 6 s = g.val → suppressed o g f.q s = false →
            Out.strobe o true (c + 16 + rf (R.POS_PHASE g) 12 12 s) ∈ u.wire))) ∧
    (∀ f t, placement g s = some (f, t) → tooLate t s = true → ∃ u, exec (.placementCancel g) s = .next u ∧
      (rgOf g u).cancelled = true ∧ armedPlacement g u = none ∧ (rgOf g u).fired = (rgOf g s).fired ∧ SamePlace s u ∧
      Steady s u ∧ ∀ a, portReg a = false → rd a u = rd a s) ∧
    (∀ (o : Fin 36) t e, Sparse.get none s.links.high o.val = some t → o.val < 32 → e = t + rf (R.HLK_STB o) 16 16 s →
      s.jtag.ir ≠ 0 →
      ((∀ n, nextInstant (rf (R.HLK_STB o) 0 6 s) s = some n → e + 8 ≤ n) →
        (s.time < e → exec (.strobePulseEnd o) s = .next s) ∧
        (e ≤ s.time → ∃ u, exec (.strobePulseEnd o) s = .next u ∧
          u = { s with links := { s.links with high := u.links.high }
                       wire := .strobe o false e :: s.wire } ∧
          Sparse.get none u.links.high o.val = none ∧
          ∀ k, k ≠ o.val → Sparse.get none u.links.high k = Sparse.get none s.links.high k)) ∧
      (∀ n, nextInstant (rf (R.HLK_STB o) 0 6 s) s = some n → n < e + 8 → t + 8 ≤ n → n ≤ s.time + 8 →
        ∃ u, exec (.strobePulseEnd o) s = .next u ∧ u.wire = .strobe o false (n - 8) :: s.wire ∧ rb R.PEEL_STAT 7 u = true ∧
          Sparse.get none u.links.high o.val = none ∧ ∀ a, a ∉ [R.PEEL_STAT, R.TIL_ASUMH] → rd a u = rd a s))

/-- EVENT_INPUT_CAPTURE of an edge that EDGE selects: time (that of the raw edge, FW cycles before) and interpolated
position reach the capture registers, or the shadow while the read window is open, or are lost with OVRN; another edge changes
the input's level alone. CAPTURE_READ_OPEN opens the window and latches the other three words; CAPTURE_READ_CLOSE closes it
and lands a shadowed capture.
The model's reading or choice in it: log entries 54, 90. -/
def Obligations.EventInputsAreCaptured : Prop :=
  (∀ (e : Fin 16) (rising : Bool) (s : State), counting s = true →
    ∃ u, exec (.eventInputCapture e rising) s = .next u ∧ (evOf e u).level = rising ∧ (evOf e u).window = (evOf e s).window ∧
      SamePlace s u ∧ Steady s u ∧
      (rb (R.POS_EV_CTL e) (if rising then 0 else 1) s = false → u = { s with pos := { s.pos with ev := u.pos.ev } }) ∧
      (rb (R.POS_EV_CTL e) (if rising then 0 else 1) s = true → ∀ t, t = s.time - 2 * rf (R.POS_EV_CTL e) 2 8 s →
        ((evOf e s).window = false → ∃ q, rd (R.POS_EV_TSL e) u = BitVec.ofNat 32 t ∧
          (rd (R.POS_EV_TSH e) u).toNat = t / 2 ^ 32 % 2 ^ 24 ∧ rd (R.POS_EV_PL e) u = BitVec.ofNat 32 (low 48 q) ∧
          (rd (R.POS_EV_PH e) u).toNat = low 48 q / 2 ^ 32) ∧
        ((evOf e s).window = true → (evOf e s).shadow = none → rb (R.POS_EV_STAT e) 0 u = true ∧
          ∃ q, (evOf e u).shadow = some (t, q)) ∧
        ((evOf e s).window = true → (evOf e s).shadow ≠ none → rb (R.POS_EV_STAT e) 1 u = true ∧
          (evOf e u).shadow = (evOf e s).shadow) ∧
        ((evOf e s).window = true → ∀ a ∈ [R.POS_EV_TSL e, R.POS_EV_TSH e, R.POS_EV_PL e, R.POS_EV_PH e], rd a u = rd a s))) ∧
  (∀ (w : Writer) (e : Fin 16) (s : State), hears w (R.POS_EV_TSL e) s = true →
    ∃ u, exec (.captureReadOpen w e) s = .next u ∧ u.rdata = rd (R.POS_EV_TSL e) s ∧ u.rstat = 0 ∧
      (evOf e u) = { evOf e s with window := true } ∧ (∀ k, k ≠ e.val → evOf k u = evOf k s) ∧
      Sparse.get [] u.latches (Writer.key w) = [(R.POS_EV_TSH e, (rd (R.POS_EV_TSH e) s).toNat),
        (R.POS_EV_PL e, (rd (R.POS_EV_PL e) s).toNat), (R.POS_EV_PH e, (rd (R.POS_EV_PH e) s).toNat)] ∧
      u = { s with pos := { s.pos with ev := u.pos.ev }, latches := u.latches, rdata := u.rdata, rstat := 0 }) ∧
  (∀ (w : Writer) (e : Fin 16) (s : State), hears w (R.POS_EV_TSL e) s = true →
    ∃ u, exec (.captureReadClose w e) s = .next u ∧ u.rstat = 0 ∧ (evOf e u).window = false ∧ (evOf e u).shadow = none ∧
      (∀ l, Sparse.get [] s.latches (Writer.key w) = [(R.POS_EV_PH e, l)] → u.rdata = BitVec.ofNat 32 l ∧
        Sparse.get [] u.latches (Writer.key w) = []) ∧
      (Sparse.get [] s.latches (Writer.key w) = [] → u.rdata = rd (R.POS_EV_PH e) s) ∧
      ((evOf e s).shadow = none → ∀ a, rd a u = rd a s) ∧
      (∀ t q, (evOf e s).shadow = some (t, q) → rd (R.POS_EV_TSL e) u = BitVec.ofNat 32 t ∧
        (rd (R.POS_EV_TSH e) u).toNat = t / 2 ^ 32 % 2 ^ 24 ∧ rd (R.POS_EV_PL e) u = BitVec.ofNat 32 (low 48 q) ∧
        (rd (R.POS_EV_PH e) u).toNat = low 48 q / 2 ^ 32 ∧ rb (R.POS_EV_STAT e) 0 u = false) ∧
      (∀ a, a ∉ [R.POS_EV_TSL e, R.POS_EV_TSH e, R.POS_EV_PL e, R.POS_EV_PH e, R.POS_EV_STAT e] → rd a u = rd a s) ∧
      u = { s with regs := u.regs, cyc := u.cyc, pos := { s.pos with ev := u.pos.ev }, latches := u.latches, rdata := u.rdata, rstat := 0 })

/-- REGISTRATION_OVR_CLEAR resumes the servo with i = 4,096 × c; SSI_FRAME_COMPLETE of a frame that runs stores the reading
and, after an earlier one, its deviation from the change of p between the two latch instants; REBASE in IDLE sets the
high-water mark one below the current print line, and is else discarded.
The model's reading or choice in it: log entry 66. -/
def Obligations.RegistrationSsiAndRebase : Prop :=
  (∀ (w : Writer) (k : Fin 8) (v : Word) (s : State), reaches w (R.POS_REG_CTL k) s = true → bit v 5 = false →
    ∃ t, exec (.registrationOvrClear w k v) s = .next t ∧ rb (R.POS_REG_CTL k) 5 t = false ∧
      (rb (R.POS_REG_CTL k) 5 s = true → regOf k t = { regOf k s with i := 4096 * (regOf k s).c }) ∧
      (rb (R.POS_REG_CTL k) 5 s = false → regOf k t = regOf k s) ∧ (∀ j, j ≠ k.val → regOf j t = regOf j s) ∧
      ((s.sealed = true ∧ ∃ i < 32, i ≠ 5 ∧ v.getLsbD i ≠ (rd (R.POS_REG_CTL k) s).getLsbD i) → t.rstat = 3) ∧
      ((s.sealed = false ∨ ∀ i < 32, i ≠ 5 → v.getLsbD i = (rd (R.POS_REG_CTL k) s).getLsbD i) → t.rstat = 0) ∧
      (∀ i < 32, i ≠ 5 → (rd (R.POS_REG_CTL k) t).getLsbD i =
        (if s.sealed then (rd (R.POS_REG_CTL k) s).getLsbD i else v.getLsbD i)) ∧
      (∀ a, a ≠ R.POS_REG_CTL k → a ≠ R.ASP_DROP → rd a t = rd a s) ∧
      t = { s with regs := t.regs, cyc := t.cyc, egress := t.egress, pos := { s.pos with reg := t.pos.reg }, rdata := 0, rstat := t.rstat }) ∧
  (∀ (n : Fin 2) (raw : BitVec 40) (s : State) (q : Int), (ssiOf n s).frame = some q →
    ∃ t v, exec (.ssiFrameComplete n raw) s = .next t ∧
      v = (let bits := rf (R.POS_SSI_CTL n) 2 5 s + 1
           if rb (R.POS_SSI_CTL n) 1 s then fromGray bits (raw.toNat % 2 ^ bits) else raw.toNat % 2 ^ bits) ∧
      ssiOf n t = { ssiOf n s with prev := some (v, q), frame := none, lastEnd := some s.time } ∧
      rd (R.POS_SSI_LAST n) t = BitVec.ofNat 32 v ∧ SamePlace s t ∧ Steady s t ∧
      ((ssiOf n s).prev = none → ∀ a, a ≠ R.POS_SSI_LAST n → rd a t = rd a s) ∧
      (∀ v0 q0, (ssiOf n s).prev = some (v0, q0) → ∃ dev : Int, rd (R.POS_SSI_DEV n) t = BitVec.ofInt 32 dev ∧
        (rf (R.POS_SSI_TOL n) 0 16 s < dev.natAbs → rb R.POS_STAT (9 + n) t = true) ∧
        (dev.natAbs ≤ rf (R.POS_SSI_TOL n) 0 16 s → rb R.POS_STAT (9 + n) t = rb R.POS_STAT (9 + n) s) ∧
        (0 < rf (R.POS_SSI_SCALE n) 16 16 s →
          let bits := rf (R.POS_SSI_CTL n) 2 5 s + 1
          let x : Int := sext bits ((v + 2 ^ bits - v0) % 2 ^ bits) * rf (R.POS_SSI_SCALE n) 0 16 s
          let den : Int := rf (R.POS_SSI_SCALE n) 16 16 s
          ((q - q0 - dev) * den - x < den ∧ -den < (q - q0 - dev) * den - x)))) ∧
  (∀ (w : Writer) (s : State), reaches w R.POS_CTL s = true →
    ∃ t, exec (.rebase w) s = .next t ∧ Answers 0 t ∧ Steady s t ∧
      (s.mode = .idle → t.pos.hwm = fdiv (pOf s) 256 - 1 ∧ pOf t = pOf s ∧
        t.first = none ∧ t.due = [] ∧ t.links.xfers = [] ∧ t.lst.ref = none ∧
        (∀ g < 64, (rgOf g t).pend = none ∨ rf (R.NZL_RG_N g) 0 18 s = 0) ∧
        rd R.SYN_EPOCH t = (if isHead s then rd R.SYN_EPOCH s + 1 else rd R.SYN_EPOCH s)) ∧
      (s.mode ≠ .idle → t = { s with rdata := 0, rstat := 0 }))

/-! ### Composer, commits, stream (R81 to R109, R126 to R129) -/

/-- LINE_COMPOSED: the line's codes, as plane rows, stream source and sprites stand when it is complete, await conditioning,
LASTL and LASTH show the line, event source 1 is raised, and the slice goes
on to the next due line. LANE_MISMATCH: counted, and the line is composed again; a second one on the line starts the
self-test; one on the composition after a self-test that both lanes passed counts as both failing. LANE_SELF_TEST_END fences
a failed lane, keeps both, or stops the slice.
The model's reading or choice in it: log entries 32, 39. -/
def Obligations.SlicesComposeLines : Prop :=
  ∀ (cl : Fin 16) (i : Int) (s : State), unitsRun s = true → (sliceOf cl s).cur = some i →
    (sliceWorks cl s = true → (sliceOf cl s).testing = false → -2 ^ 39 ≤ i → i < 2 ^ 39 →
      ∃ t s1, exec (.lineComposed cl) s = .next t ∧ rdLine (R.CLC_LASTL cl) (R.CLC_LASTH cl) t = i ∧ pendOf cl 1 t = true ∧
        s1 = [0, 1, 2, 3].foldl (fun s n => refreshSeg cl n i s) s ∧
        (cl.val, i, composeLine cl i (omitSprites cl s1 (activeSprites cl i s1)) s1) ∈ t.cmp.composed ∧
        (sliceOf cl t).cur = nextDue (sliceOf cl s).last s ∧ LinesGoOn [] s t) ∧
    (rb (R.CLC_CTL cl) 2 s = true → rf (R.CLC_LANE cl) 0 2 s = 3 → (sliceOf cl s).testing = false →
      ∃ t, exec (.laneMismatch cl) s = .next t ∧ rb (R.CLC_ASTAT cl) 3 t = true ∧
        rf (R.CLC_LANE cl) 8 8 t = min 255 (rf (R.CLC_LANE cl) 8 8 s + 1) ∧
        ((sliceOf cl s).third = false → rf (R.CLC_LANE cl) 0 2 t = 3 ∧
          sliceOf cl t = { sliceOf cl s with mis := (sliceOf cl s).mis + 1, redo := true
                                             testing := decide (1 ≤ (sliceOf cl s).mis), tested := i } ∧
          (∀ a, a ∉ [R.CLC_LANE cl, R.CLC_ASTAT cl, R.TIL_ASUML] → rd a t = rd a s) ∧
          t = { s with regs := t.regs, cyc := t.cyc, egress := t.egress, cmp := { s.cmp with slices := t.cmp.slices } }) ∧
        ((sliceOf cl s).third = true → SliceStops cl s t)) ∧
    ((sliceOf cl s).testing = true → ∀ pass0 pass1, ∃ t, exec (.laneSelfTestEnd cl pass0 pass1) s = .next t ∧
      (pass0 = false → pass1 = false → SliceStops cl s t) ∧
      ((pass0 || pass1) = true →
        sliceOf cl t = { sliceOf cl s with testing := false, third := pass0 && pass1 } ∧
        rf (R.CLC_LANE cl) 0 2 t =
          (if pass0 && pass1 then rf (R.CLC_LANE cl) 0 2 s else (if pass0 then 1 else 0) + (if pass1 then 2 else 0)) ∧
        ((pass0 && pass1) = false → rb (R.CLC_ASTAT cl) 4 t = true ∧ rb R.TIL_REDLOST 1 t = true) ∧
        LinesGoOn [R.CLC_LANE cl, R.TIL_REDLOST] s t))

/-- PROOF_BANK_WRITE of a register that is no part of a couple: the proof bank takes the value, in LOAD the active bank too;
while a commit is pending in the cluster the write is discarded with WREJ. A low word is staged, a high word places both.
STREAM_WP_WRITE moves the write offset and the append point, taken modulo the ring's size; STREAM_RESET takes every read
offset to the write offset and clears the stream errors.
The model's reading or choice in it: log entries 72, 112. -/
def Obligations.ProofBanksAndStreamRing : Prop :=
  (∀ (w : Writer) (a : BitVec 36) (v : Word) (s : State) (r : RegRow) (cl o : Nat), rowAt a.toNat = some r → r.ps = true →
    (∀ i < 32, v.getLsbD i = true → r.defined.testBit i = true) → reaches w a.toNat s = true →
    cl = (a.toNat - 0x310000000) / 0x10000 → o = a.toNat % 0x10000 →
    (o ∉ [0x110C, 0x112C, 0x114C, 0x116C, 0x11A8, 0x1110, 0x1130, 0x1150, 0x1170, 0x11AC] →
      ∃ t, exec (.proofBankWrite w a v) s = .next t ∧ Answers 0 t ∧
        t = { s with regs := t.regs, cyc := t.cyc, proof := t.proof, rdata := 0, rstat := 0 } ∧
        (s.mode = .load → proofOf a.toNat t = v ∧ rd a.toNat t = v ∧ (∀ b, b ≠ a.toNat → proofOf b t = proofOf b s ∧ rd b t = rd b s)) ∧
        (s.mode ≠ .load → proofPend cl s = none → proofOf a.toNat t = v ∧ (∀ b, b ≠ a.toNat → proofOf b t = proofOf b s) ∧
          ∀ b, rd b t = rd b s) ∧
        (s.mode ≠ .load → proofPend cl s ≠ none → rb (R.CLC_ASTAT cl) 7 t = true ∧ t.proof = s.proof ∧
          ∀ b, b ≠ R.CLC_ASTAT cl → rd b t = rd b s)) ∧
    (o ∈ [0x110C, 0x112C, 0x114C, 0x116C, 0x11A8] → ∃ t, exec (.proofBankWrite w a v) s = .next t ∧ Answers 0 t ∧
      t = { s with stages := t.stages, rdata := 0, rstat := 0 } ∧
      Sparse.get none t.stages (Writer.key w) = some (a.toNat + 4, v.toNat)) ∧
    (o ∈ [0x1110, 0x1130, 0x1150, 0x1170, 0x11AC] → ∀ l, Sparse.get none s.stages (Writer.key w) = some (a.toNat, l) →
      ∃ t, exec (.proofBankWrite w a v) s = .next t ∧ Answers 0 t ∧ Sparse.get none t.stages (Writer.key w) = none ∧
        (s.mode ≠ .load → proofPend cl s = none → proofOf a.toNat t = v ∧ proofOf (a.toNat - 4) t = BitVec.ofNat 32 l ∧
          (∀ b, b ≠ a.toNat → b ≠ a.toNat - 4 → proofOf b t = proofOf b s) ∧ ∀ b, rd b t = rd b s) ∧
        (s.mode ≠ .load → proofPend cl s ≠ none → rb (R.CLC_ASTAT cl) 7 t = true ∧ t.proof = s.proof ∧
          ∀ b, b ≠ R.CLC_ASTAT cl → rd b t = rd b s))) ∧
  (∀ (w : Writer) (v : Word) (s : State), reaches w R.CMP_STR_WP s = true → v &&& 0xFF80003F = 0 →
    ∃ t, exec (.streamWpWrite w v) s = .next t ∧ OnlyRegs [R.CMP_STR_WP] s { t with ingress := s.ingress } ∧
      Answers 0 t ∧ (rd R.CMP_STR_WP t).toNat = (if rd R.CMP_STR_SIZE s = 0 then 0 else v.toNat % (rd R.CMP_STR_SIZE s).toNat) ∧
      t.ingress = { s.ingress with append := (rd R.CMP_STR_WP t).toNat }) ∧
  (∀ (w : Writer) (s : State), reaches w R.CMP_STR_CTL s = true →
    ∃ t, exec (.streamReset w) s = .next t ∧ Answers 0 t ∧
      (∀ cl < 16, sliceOf cl t = { sliceOf cl s with rp := (rd R.CMP_STR_WP s).toNat, strErr := false } ∧
        rb (R.CLC_ASTAT cl) 2 t = false ∧ ∀ i < 32, i ≠ 2 → rb (R.CLC_ASTAT cl) i t = rb (R.CLC_ASTAT cl) i s) ∧
      (∀ a, (∀ cl < 16, a ≠ R.CLC_ASTAT cl) → rd a t = rd a s) ∧
      t = { s with regs := t.regs, cyc := t.cyc, cmp := { s.cmp with slices := t.cmp.slices }, rdata := 0, rstat := 0 })

/-- A commit issued is kept with the issuer's line and core cycle and sets OUT, or is discarded while OUT is set; the unit
decides the one issued first, a nozzle-map commit first among those of one cycle, by the acceptance table, clears OUT,
reports RESULT with its event source and keeps an accepted commit as pending. Of the hardware response's commit, an acceptance
is the end of the records it was issued for, a rejection has their SETMISS and their commit made again at a boundary. An
accepted commit arrives: the slices it reaches that have begun its line or a later one give up the line in progress and what
they composed from it on, and compose from its line again; the slice that begins its line in the very core cycle takes it
without recomposition.
The model's reading or choice in it: log entries 26, 40, 41. -/
def Obligations.CommitsAreIssuedAndDecided : Prop :=
  (∀ (s : State),
    (∀ (w : Writer) (n : Bool) (at_ : Option (Fin 16)) (mask : BitVec 16) (k : Nat), k = issuerOf at_ → reaches w (commitStat n k) s = true →
      ∃ t, exec (if n then .nozzleMapCommitIssue w at_ else .proofSetCommitIssue w at_ mask) s = .next t ∧ Answers 0 t ∧
        (rb (commitStat n k) 3 s = true → t = { s with rdata := 0, rstat := 0 }) ∧
        (rb (commitStat n k) 3 s = false → rb (commitStat n k) 3 t = true ∧
          t.cmp = { s.cmp with issued := s.cmp.issued ++
            [⟨n, k, commitLine n k s, if n then 0 else mask.toNat, s.time * 3 / 10⟩] } ∧
          (∀ i < 32, i ≠ 3 → rb (commitStat n k) i t = rb (commitStat n k) i s) ∧
          (∀ a, a ≠ commitStat n k → rd a t = rd a s) ∧ t = { s with regs := t.regs, cyc := t.cyc, cmp := t.cmp, rdata := 0, rstat := 0 })) ∧
    (∀ (c : Commit) (mask : Nat), firstCommit s.cmp.issued = some c → s.mode.fromProof = true → s.mode ≠ .sleep →
      c.issuer < 17 → mask = (if c.nozzle then enabledMask s else Nat.land c.mask (enabledMask s)) →
      (c ∈ s.cmp.issued ∧ ∀ d ∈ s.cmp.issued, c.cycle ≤ d.cycle ∧ (c.cycle = d.cycle → d.nozzle = true → c.nozzle = true)) ∧
      ∃ t, exec .commitDecision s = .next t ∧ rf (commitStat c.nozzle c.issuer) 0 3 t = commitResult mask c.line s ∧
        rb (commitStat c.nozzle c.issuer) 3 t = false ∧ t.cmp.issued = s.cmp.issued.erase c ∧
        (c.issuer < 16 → pendOf c.issuer (if c.nozzle then 4 else 3) t = true) ∧
        (t.cmp.pend.map (fun p => (p.nozzle, p.issuer, p.line, p.mask, p.flying)) =
          s.cmp.pend.map (fun p => (p.nozzle, p.issuer, p.line, p.mask, p.flying)) ++
            (if commitResult mask c.line s = 1 then [(c.nozzle, c.issuer, c.line, mask, mask)] else [])) ∧
        (∀ a, a ∉ [commitStat c.nozzle c.issuer, R.EVC_PENDSETL c.issuer, R.EVC_MERGE c.issuer] → rd a t = rd a s) ∧
        t = { s with regs := t.regs, cyc := t.cyc, evBefore := t.evBefore
                     cmp := { s.cmp with issued := t.cmp.issued, pend := t.cmp.pend } }) ∧
    (∀ (c : Commit) (r : Nat), firstCommit s.cmp.issued = some c → s.mode.fromProof = true → s.mode ≠ .sleep → c.issuer = 17 →
      r = commitResult (if c.nozzle then enabledMask s else Nat.land c.mask (enabledMask s)) c.line s →
      ∃ t, exec .commitDecision s = .next t ∧ t.cmp.issued = s.cmp.issued.erase c ∧
        (r = 1 → ∃ q ∈ t.cmp.pend, q.nozzle = c.nozzle ∧ q.issuer = 17 ∧ q.line = c.line) ∧
        (r = 1 → t.lst.auto = (s.lst.auto.filter (fun e => !(e.issued && e.applied))).map (fun e => { e with issued := false })) ∧
        (r ≠ 1 → t.lst.auto = s.lst.auto.map (fun e => if e.issued then { e with issued := false, applied := false } else e)) ∧
        rb R.NZL_CMTSTAT 4 t = autoOut t ∧ (∀ a, a ≠ R.NZL_CMTSTAT → rd a t = rd a s) ∧
        t = { s with regs := t.regs, cyc := t.cyc, cmp := { s.cmp with issued := t.cmp.issued, pend := t.cmp.pend }
                     lst := { s.lst with auto := t.lst.auto } })) ∧
  (∀ (p : PendCommit) (s : State), s.mode.fromProof = true → s.mode ≠ .sleep →
    (∀ (cl : Fin 16) (i : Int), s.cmp.pend.find? (fun q => !q.nozzle && bitN q.flying cl) = some p →
      (sliceOf cl s).last = some i → carries 7 (clusterNode cl) s = true →
      ∃ t, exec (.proofSetCommitArrival cl) s = .next t ∧ LinesGoOn [] s t ∧
        (unitsRun s = false → t = { s with cmp := { s.cmp with pend := t.cmp.pend } }) ∧
        (unitsRun s = true → justBegan cl p.line s = true → t.lst = s.lst ∧ t.cmp.composed = s.cmp.composed ∧
          (sliceOf cl t).cur = some p.line ∧ (sliceOf cl t).last = some i ∧
          (bitN p.mask cl = true → proofPend cl s = none → ∀ a ∈ psAddrs cl, rd a t = proofOf a s)) ∧
        (unitsRun s = true → justBegan cl p.line s = false → p.line ≤ i →
          (∀ e ∈ t.cmp.composed, e.1 = cl.val → e.2.1 < p.line) ∧
          (sliceWorks cl s = true → (sliceOf cl s).testing = false → (∀ j, (sliceOf cl s).cur = some j → p.line ≤ j) →
            (sliceOf cl t).cur = nextDue (some (p.line - 1)) s))) ∧
    (s.cmp.pend.find? (fun q => q.nozzle && q.flying != 0) = some p →
      ∃ t, exec .nozzleMapCommitArrival s = .next t ∧ LinesGoOn [] s t ∧
        (unitsRun s = false → nozzleArrived t ≠ none ∧ t = { s with cmp := { s.cmp with pend := t.cmp.pend } }) ∧
        (unitsRun s = true → (∃ e ∈ s.cmp.composed, p.line ≤ e.2.1) → ∀ (cl : Nat) (i : Int), cl < 16 → bitN p.mask cl = true →
          (sliceOf cl s).last = some i → p.line ≤ i →
          (∀ e ∈ t.cmp.composed, e.1 = cl → e.2.1 < p.line) ∧
          (sliceWorks cl s = true → (sliceOf cl s).testing = false → (∀ j, (sliceOf cl s).cur = some j → p.line ≤ j) →
            (sliceOf cl t).cur = nextDue (some (p.line - 1)) s))))

/-! ### Nozzle map, conditioning, codec, line store (R126 to R139, R155, R169 to R175) -/

/-- SETMISS, CLRMISS, SETTAB, SETRULE: WREJ while a nozzle-map commit is pending; UPDREJ for a nozzle of no used row group,
or SETRULE at a width other than 3; else the one field of the one nozzle in the staged bank, in LOAD also in the active one.
The bytes of the staged bank that an update reads are mended from their second copy where one is in error, with TABFIX.
NOZZLE_QUERY: NZL_QDAT shows the named nozzle's fields.
The model's reading or choice in it: log entry 71. -/
def Obligations.StagedNozzleUpdates : Prop :=
  ∀ (w : Writer) (at_ : Option (Fin 16)) (v : Word) (s : State) (g n : Nat), g = fld v 24 6 → n = fld v 0 17 →
    (∀ op : Fin 4, fld v 30 2 = op → v &&& 0x000E0000 = 0 → reaches w (updReg at_) s = true →
      ∃ t, exec (match op with
        | 0 => .setmiss w at_ v
        | 1 => .clrmiss w at_ v
        | 2 => .settab w at_ v
        | 3 => .setrule w at_ v) s = .next t ∧ Answers 0 t ∧
      (nozzlePend s ≠ none → rb R.NZL_STAT 4 t = true ∧ (∀ a, a ≠ R.NZL_STAT → rd a t = rd a s) ∧
        t = { s with regs := t.regs, cyc := t.cyc, rdata := 0, rstat := 0 }) ∧
      (nozzlePend s = none → (rf (R.NZL_RG_N g) 0 18 s ≤ n ∨ (op = 3 ∧ rf (R.NZL_RG g) 0 2 s ≠ 3)) →
        rb R.NZL_STAT 7 t = true ∧ (∀ a, a ∉ [R.NZL_STAT, R.TIL_ASUML] → rd a t = rd a s) ∧
        t = { s with regs := t.regs, cyc := t.cyc, egress := t.egress, rdata := 0, rstat := 0 }) ∧
      (nozzlePend s = none → n < rf (R.NZL_RG_N g) 0 18 s → 1 ≤ rf (R.NZL_RG g) 0 2 s → (op = 3 → rf (R.NZL_RG g) 0 2 s = 3) →
        let old := nozAt s.lst.mapS g n s
        let new := nozAt t.lst.mapS g n s
        (op = 0 → new = { old with miss := true }) ∧ (op = 1 → new = { old with miss := false }) ∧
        (op = 2 → rf (R.NZL_RG g) 0 2 s = 1 → new.tsel = bit v 20 ∧ new.miss = old.miss) ∧
        (op = 2 → rf (R.NZL_RG g) 0 2 s ≠ 1 → new = { old with tab := fld v 20 4 }) ∧
        (op = 3 → new = { old with rule := fld v 20 2 }) ∧
        (∀ m, m ≠ n → nozAt t.lst.mapS g m s = nozAt s.lst.mapS g m s) ∧
        (s.mode = .load → s.lst.mapA = s.lst.mapS → t.lst.mapA = t.lst.mapS) ∧
        (s.mode ≠ .load → t.lst.mapA = s.lst.mapA) ∧
        (∀ e ∈ s.lst.tabErr, e ∈ t.lst.tabErr ↔ e.1 ∉ (nozBytes g n s).map (.bank true)) ∧
        ((∃ e ∈ s.lst.tabErr, e.1 ∈ (nozBytes g n s).map (.bank true)) → rb R.NZL_STAT 3 t = true) ∧
        (s.lst.tabErr = [] →
          t = { s with lst := { s.lst with mapS := t.lst.mapS, mapA := t.lst.mapA }, rdata := 0, rstat := 0 }) ∧
        (∀ a, a ∉ [R.NZL_STAT, R.TIL_ASUML] → rd a t = rd a s) ∧
        t = { s with regs := t.regs, cyc := t.cyc, egress := t.egress, rdata := 0, rstat := 0
                     lst := { s.lst with mapS := t.lst.mapS, mapA := t.lst.mapA, tabErr := t.lst.tabErr } })) ∧
    (∀ q : Nat, v &&& 0x40FE0000 = 0 → q = (match at_ with
        | some cl => R.CLN_QRY cl
        | none => R.NZL_QRY) → reaches w q s = true →
      ∃ t, exec (.nozzleQuery w at_ v) s = .next t ∧ Answers 0 t ∧ rd q t = v ∧ OnlyRegs [q] s t ∧
      view (q + 4) t = (if n < rf (R.NZL_RG_N g) 0 18 s then
        let z := nozAt (if bit v 31 then s.lst.mapS else s.lst.mapA) g n s
        BitVec.ofNat 32 (256 + z.tab % 16 * 16 + (if z.miss then 8 else 0) + z.rule % 4 * 2 + (if z.tsel then 1 else 0)) else 0))

/-- NOZZLE_STATUS_RECORD: the oldest record goes into the status ring as its nozzle's, is dropped where the ring is full, or
is discarded where it names no nozzle; a dead nozzle under AUTOMISS gets MISS in the staged bank and a commit is owed.
AUTOMISS_CLEAR ends the hardware's retries. -/
def Obligations.NozzleStatusIsRecorded : Prop :=
  ∀ (s : State),
    (∀ (r : Nat) (rest : List Nat), s.lst.records = r :: rest → s.mode.fromProof = true → s.mode ≠ .sleep →
      ∃ t, exec .nozzleStatusRecord s = .next t ∧ t.lst.records = rest ∧
        (convertRecord r s = none → rb R.NZL_STAT 6 t = true ∧ (∀ a, a ∉ [R.NZL_STAT, R.TIL_ASUML] → rd a t = rd a s) ∧
          t = { s with regs := t.regs, cyc := t.cyc, egress := t.egress, lst := { s.lst with records := rest } }) ∧
        (∀ g n v, convertRecord r s = some (g, n, v) →
          let size := max 16 (min 8192 (rf R.NZL_SQ_SIZE 0 14 s))
          let wp := rf R.NZL_SQ_WP 0 13 s
          let full : Prop := (wp + 1) % size = rf R.NZL_SQ_RP 0 13 s % size
          let dead : Prop := rb R.NZL_CFG 0 s = true ∧ bitsN v 25 4 = 1
          let place := pantryBase (rf R.NZL_CFG 8 4 s) + 0x80000 + 2 * (4 * rf R.NZL_SQ_BASE 2 16 s + 4 * wp)
          (full → rb R.NZL_STAT 5 t = true ∧ rf R.NZL_SQ_DROP 0 16 t = min 0xFFFF (rf R.NZL_SQ_DROP 0 16 s + 1) ∧ t.mem = s.mem ∧
            ∀ a, a ∉ [R.NZL_STAT, R.NZL_SQ_DROP, R.TIL_ASUML] → rd a t = rd a s) ∧
          (¬ full → rf R.NZL_SQ_WP 0 13 t = (wp + 1) % size ∧ readBytes place 8 t = leBytes 8 v ∧
            (∀ a, a < place ∨ place + 8 ≤ a → mb a t = mb a s) ∧ ∀ a, a ∉ [R.NZL_STAT, R.NZL_SQ_WP, R.TIL_ASUML] → rd a t = rd a s) ∧
          (¬ dead → t.lst = { s.lst with records := rest }) ∧
          (dead → t.lst.auto = s.lst.auto ++ [{ g := g, n := n, applied := (nozzlePend s).isNone }] ∧
            (nozzlePend s ≠ none → rb R.NZL_STAT 4 t = true ∧ t.lst.mapS = s.lst.mapS) ∧
            (nozzlePend s = none → 1 ≤ rf (R.NZL_RG g) 0 2 s →
              nozAt t.lst.mapS g n s = { nozAt s.lst.mapS g n s with miss := true })) ∧
          t = { s with regs := t.regs, cyc := t.cyc, mem := t.mem, ue := t.ue, ce := t.ce, egress := t.egress, lst := t.lst })) ∧
    (∀ (w : Writer) (v : Word) (row : RegRow), rowAt R.NZL_CFG = some row → v &&& 0xF800F0FC = 0 → bit v 0 = false →
      reaches w R.NZL_CFG s = true →
      ∃ t, exec (.automissClear w v) s = .next t ∧ t.lst = { s.lst with auto := [] } ∧
        (∀ i < 32, (rd R.NZL_CFG t).getLsbD i = bitAfter row s.sealed ((setNow R.NZL_CFG s).getLsbD i) ((rd R.NZL_CFG s).getLsbD i) (v.getLsbD i) i) ∧
        rb R.NZL_CMTSTAT 4 t = (s.cmp.issued.any (fun c => c.issuer == 17) || s.cmp.pend.any (fun p => p.issuer == 17)) ∧
        (hitsSeal row R.NZL_CFG v s → t.rstat = 3) ∧ (¬ hitsSeal row R.NZL_CFG v s → t.rstat = 0) ∧
        (∀ a, a ∉ [R.NZL_CFG, R.NZL_CMTSTAT, R.ASP_DROP] → rd a t = rd a s) ∧
        t = { s with regs := t.regs, cyc := t.cyc, egress := t.egress, lst := t.lst, rdata := 0, rstat := t.rstat })

/-- LINE_READY: the line in hand stands in the store with its entry and the codec's report, and slices and codec go on. A
mismatch of the pipelines or encoders is counted and the work done again; a second one starts the self-test; the self-test
fences a copy, keeps both, or leaves the unit without one.
The model's reading or choice in it: log entries 30, 72. -/
def Obligations.LinesAreConditionedAndCoded : Prop :=
  ∀ (c : Coded) (s : State), unitsRun s = true → s.lst.busy = some c →
    (c.testing = false → c.encTesting = false → c.bytes.length ≤ (if compressed s then 65472 else 0xC000) →
      ∃ t, exec .lineReady s = .next t ∧ LinesGoOn [] s t ∧
        (c.fate = .stored → -2 ^ 39 ≤ c.line → c.line < 2 ^ 39 → rdLine R.COD_LASTL R.COD_LASTH t = c.line ∧
          rf R.COD_LSIZE 16 11 t = c.red % 2 ^ 11 ∧
          (nextDue s.lst.lastCond s = none → s.pos.hwm < c.line + rf R.LST_DREL 0 14 s + 1 → compressed s = true →
            rf R.LST_WP 0 21 s < 1570816 →
            (∃ x ∈ t.lst.stored, x.line = c.line ∧ x.blk = rf R.LST_WP 0 21 s ∧ x.len = c.bytes.length / 64 ∧ x.ver = c.ver) ∧
            rf R.LST_WP 0 21 t = (rf R.LST_WP 0 21 s + c.bytes.length / 64) % 1570816 ∧
            (∀ k < c.bytes.length, mb (0x20000 + (64 * rf R.LST_WP 0 21 s + k) % (64 * 1570816)) t = c.bytes.getD k 0)))) ∧
    (rf R.NZL_PIPE 0 2 s = 3 → c.testing = false → ∃ t, exec .pipelineMismatch s = .next t ∧ rb R.NZL_STAT 0 t = true ∧
      rf R.NZL_PIPE 8 8 t = min 255 (rf R.NZL_PIPE 8 8 s + 1) ∧
      (c.third = false → t.lst = { s.lst with busy := some { c with mis := c.mis + 1, testing := decide (1 ≤ c.mis) } } ∧
        (∀ a, a ∉ [R.NZL_STAT, R.NZL_PIPE, R.TIL_ASUML] → rd a t = rd a s) ∧
        t = { s with regs := t.regs, cyc := t.cyc, egress := t.egress, lst := t.lst }) ∧
      (c.third = true → LineUnitLost R.NZL_PIPE R.NZL_STAT 2 1 2 c.line s t)) ∧
    (c.testing = true → ∀ pass0 pass1, ∃ t, exec (.pipelineSelfTestEnd pass0 pass1) s = .next t ∧
      (pass0 = false → pass1 = false → LineUnitLost R.NZL_PIPE R.NZL_STAT 2 1 2 c.line s t) ∧
      ((pass0 || pass1) = true → t.lst = { s.lst with busy := some { c with testing := false, third := pass0 && pass1 } } ∧
        rf R.NZL_PIPE 0 2 t = (if pass0 && pass1 then rf R.NZL_PIPE 0 2 s else (if pass0 then 1 else 0) + (if pass1 then 2 else 0)) ∧
        ((pass0 && pass1) = false → rb R.NZL_STAT 1 t = true ∧ rb R.TIL_REDLOST 2 t = true) ∧
        (∀ a, a ∉ [R.NZL_STAT, R.NZL_PIPE, R.TIL_ASUML, R.TIL_REDLOST] → rd a t = rd a s) ∧
        t = { s with regs := t.regs, cyc := t.cyc, egress := t.egress, lst := t.lst })) ∧
    (rb R.COD_CFG 0 s = true → rf R.COD_PIPE 0 2 s = 3 → c.encTesting = false → ∃ t, exec .codecMismatch s = .next t ∧
      rb R.COD_STAT 0 t = true ∧ rf R.COD_PIPE 8 8 t = min 255 (rf R.COD_PIPE 8 8 s + 1) ∧ t.fresh = s.fresh + 1 ∧
      ((t.lst = { s.lst with busy := some { c with encMis := c.encMis + 1, encTesting := decide (1 ≤ c.encMis), encThird := false } } ∨
          t.lst = { s.lst with busy := some { c with encMis := 1, encTesting := false, encThird := false } }) ∧
        (∀ a, a ∉ [R.COD_STAT, R.COD_PIPE, R.TIL_ASUML] → rd a t = rd a s) ∧
        t = { s with regs := t.regs, cyc := t.cyc, egress := t.egress, lst := t.lst, fresh := t.fresh } ∨
        c.encThird = true ∧ LineUnitLost R.COD_PIPE R.COD_STAT 2 2 3 c.line s { t with fresh := s.fresh })) ∧
    (c.encTesting = true → ∀ pass0 pass1, ∃ t, exec (.encoderSelfTestEnd pass0 pass1) s = .next t ∧
      (pass0 = false → pass1 = false → LineUnitLost R.COD_PIPE R.COD_STAT 2 2 3 c.line s t) ∧
      ((pass0 || pass1) = true → t.lst = { s.lst with busy := some { c with encTesting := false, encThird := pass0 && pass1 } } ∧
        rf R.COD_PIPE 0 2 t = (if pass0 && pass1 then rf R.COD_PIPE 0 2 s else (if pass0 then 1 else 0) + (if pass1 then 2 else 0)) ∧
        ((pass0 && pass1) = false → rb R.COD_STAT 1 t = true ∧ rb R.TIL_REDLOST 3 t = true) ∧
        (∀ a, a ∉ [R.COD_STAT, R.COD_PIPE, R.TIL_ASUML, R.TIL_REDLOST] → rd a t = rd a s) ∧
        t = { s with regs := t.regs, cyc := t.cyc, egress := t.egress, lst := t.lst }))

/-- The line store's test hardware: LINE_STORE_SCRUB, while EN is set, goes on block by block, counts each of the block's
corrected words in its slice and reports the uncorrectable words of the block; at the threshold the slice is copied into a
free spare. SLICE_COPY_END puts the spare
in for good, or for a march test; SLICE_MARCH_END copies the slice back or keeps the spare; COPY_BACK_END goes on to the
next slice.
The model's reading or choice in it: log entries 52, 54, 116. -/
def Obligations.LineStoreIsScrubbedAndRepaired : Prop :=
  ∀ (s : State), storeTests s = true →
    (∀ (found : Found) (base : Nat), rb R.LST_SCRUB 16 s = true → base = 64 * s.lst.scrubBlk →
      ∃ t, exec (.lineStoreScrub found) s = .next t ∧ t.lst.scrubBlk = (s.lst.scrubBlk + 1) % 1572864 ∧ t.mem = s.mem ∧ (found.bad = [] → t.ce = s.ce) ∧
      (∀ w ∈ found.bad, base + 8 * (w.val % 8) ∈ t.ue ∧ rb R.LST_STAT 4 t = true ∧ (rd R.LST_UEADDR t).toNat = base % 2 ^ 27) ∧
      ((∀ w ∈ s.ue, ¬ (base ≤ w ∧ w < base + 64)) →
        (found.bad = [] → (s.lst.scrubBlk + 1) % 1572864 ≠ 0 →
          (∀ k ∈ found.corrected.take 8, Sparse.get 0 s.lst.scrubCnt k.val + (found.corrected.take 8).count k <
            max 1 (rf R.LST_CETHR 0 16 s)) →
          rf R.LST_ECCCNT 0 16 t = min 0xFFFF (rf R.LST_ECCCNT 0 16 s + (found.corrected.take 8).length) ∧
          (∀ k : Fin 72, Sparse.get 0 t.lst.scrubCnt k.val = Sparse.get 0 s.lst.scrubCnt k.val + (found.corrected.take 8).count k) ∧
          (∀ a, a ≠ R.LST_ECCCNT → rd a t = rd a s) ∧
          t = { s with regs := t.regs, cyc := t.cyc, lst := { s.lst with scrubBlk := t.lst.scrubBlk, scrubCnt := t.lst.scrubCnt } }) ∧
        (∀ k p, found.bad = [] → found.corrected = [k] → Sparse.get 0 s.lst.scrubCnt k.val + 1 = max 1 (rf R.LST_CETHR 0 16 s) →
          s.lst.job = .idle → s.lst.repair = none → s.lst.repairQ = [] → freeSpare s = some p → t.lst.repair = some (k.val, p)) ∧
        (∀ w, found.bad = [w] → found.corrected = [] → rf R.LST_ECCCNT 16 16 t = min 0xFFFF (rf R.LST_ECCCNT 16 16 s + 1) ∧
          ∀ a, a ∉ [R.LST_STAT, R.LST_UEADDR, R.LST_ECCCNT, R.TIL_ASUML] → rd a t = rd a s))) ∧
    (∀ k p, s.lst.repair = some (k, p) → k < 72 → p < 2 → s.lst.repairQ = [] →
      ∃ t, exec .sliceCopyEnd s = .next t ∧ t.lst.repair = none ∧ StandsIn k p s t) ∧
    (∀ k p, s.lst.repair = none → s.lst.repairQ = [] → jobNow s = .load k p → k < 72 →
      ∃ t, exec .sliceCopyEnd s = .next t ∧ t.lst = { s.lst with job := .march k p } ∧ rf R.LST_SLICE 0 7 t = k ∧
        rb R.LST_SLICE 7 t = true ∧ (∀ a, a ≠ R.LST_SLICE → rd a t = rd a s) ∧ t = { s with regs := t.regs, cyc := t.cyc, lst := t.lst }) ∧
    (∀ k p, s.lst.job = .march k p → k < 72 → p < 2 →
      (∃ t, exec (.sliceMarchEnd true) s = .next t ∧ t.lst = { s.lst with job := .back k p } ∧ rb R.LST_SLICE 7 t = false ∧
        (∀ i < 32, i ≠ 7 → rb R.LST_SLICE i t = rb R.LST_SLICE i s) ∧ (∀ a, a ≠ R.LST_SLICE → rd a t = rd a s) ∧
        t = { s with regs := t.regs, cyc := t.cyc, lst := t.lst }) ∧
      (s.lst.repair = none → s.lst.repairQ = [] → ∃ t, exec (.sliceMarchEnd false) s = .next t ∧
        t.lst = { s.lst with job := .idle, nextMarch := (k + 1) % 72 } ∧ StandsIn k p s t)) ∧
    (∀ k p, s.lst.job = .back k p → s.lst.repairQ = [] → ∃ t, exec .copyBackEnd s = .next t ∧
      t = { s with lst := { s.lst with job := .idle, nextMarch := (k + 1) % 72 } })

/-! ### Head links (R185 to R219) -/

/-- GEN1_WORD_STREAM, GEN2_FRAME, GEN3_DATA_FRAME: what is first in the order of print line, ORDER and row group leaves the
port, its code stream packed from bit 0 up, a Gen-2 frame in the codes of 8b/10b; a Gen-3 frame leaves in its turn, behind FIRE
and TIME frames and retransmissions, with its header and CRC, and is kept until acknowledged.
The model's reading or choice in it: log entries 44, 53, 120. -/
def Obligations.TransfersLeaveThePorts : Prop :=
  ∀ (s : State),
    (∀ (y : Xfer) (n b : Nat), n < y.codes.length → b < y.w →
      ((slotWords y).getD ((n * y.w + b) / 16) 0).testBit ((n * y.w + b) % 16) = (y.codes.getD n 0).testBit b) ∧
    (∀ (p : Fin 4) (x : Xfer), firstXfer (onPort 1 p s) = some x → packing 1 p s = true →
      (∀ y ∈ s.links.xfers, y.gen = 1 → y.port = p → x.q ≤ y.q) ∧
      ∃ (t : State) (l : List Xfer), exec (.gen1WordStream p) s = .next t ∧
        l.Perm (s.links.xfers.filter (fun y => y.gen == 1 && y.port == p.val && y.q == x.q)) ∧
        l.Pairwise (fun a b => a.order < b.order ∨ (a.order = b.order ∧ a.g ≤ b.g)) ∧
        t.links.xfers = s.links.xfers.filter (fun y => !(y.gen == 1 && y.port == p.val && y.q == x.q)) ∧
        (s.jtag.ir ≠ 0 → t.wire = .gen1 p x.q (l.flatMap slotWords) true :: s.wire) ∧ (s.jtag.ir = 0 → t.wire = s.wire) ∧
        t = { s with links := t.links, wire := t.wire }) ∧
    (∀ (k : Fin 24) (x : Xfer), firstXfer (onPort 2 k s) = some x → packing 2 k s = true →
      (∀ y ∈ s.links.xfers, y.gen = 2 → y.port = k → x.q < y.q ∨ (x.q = y.q ∧
        (x.order < y.order ∨ (x.order = y.order ∧ x.g ≤ y.g)))) ∧
      ∃ t b code, exec (.gen2Frame k) s = .next t ∧ t.links.xfers = s.links.xfers.filter (fun y => !(y == x)) ∧
        (s.jtag.ir ≠ 0 → t.wire = .gen2 k (gen2Chars b false) code :: s.wire) ∧ (s.jtag.ir = 0 → t.wire = s.wire) ∧
        code = (encodeChars (Sparse.get 0 s.links.rd2 k != 0) (gen2Chars b false)).1 ∧
        (x.g < 64 → x.w < 4 → x.hlane < 16 → x.codes.length < 2 ^ 17 →
          getLE b 0 2 = low 16 x.q ∧ getLE b 2 1 = x.g + 64 * x.w ∧
          getLE b 3 1 = x.hlane + (if x.pois then 16 else 0) + (if x.noFire then 32 else 0) ∧
          getLE b 4 3 = x.codes.length ∧ getLE b 7 1 = 0 ∧ b.length = 8 + (x.codes.length * x.w + 7) / 8 ∧
          ∀ n < x.codes.length, ∀ i < x.w, (b.getD (8 + (n * x.w + i) / 8) 0).getLsbD ((n * x.w + i) % 8) =
            (x.codes.getD n 0).testBit i) ∧
        t = { s with links := t.links, wire := t.wire }) ∧
    (∀ (k : Fin 8) (x : Xfer), firstXfer ((onPort 3 k s).filter (fun x =>
        beforeCutoff k x.g ((dataFrame x).payload.length / 8) x.q s)) = some x →
      packing 3 k s = true → portUp k s = true → dataTurn k s = true → replayWords k s + (dataFrame x).payload.length / 8 + 3 ≤ 8192 →
      ∃ t f, exec (.gen3DataFrame k) s = .next t ∧ FrameSent k f s t ∧ OnLinks [] s t ∧ f.typ = 1 ∧ f.q = x.q ∧ f.g = x.g ∧
        f.hlane = x.hlane ∧ f.w = x.w ∧ f.n = x.codes.length ∧
        f.flags = (if x.zero then 1 else 0) + (if x.pois then 4 else 0) + (if x.red then 8 else 0) + (if x.noFire then 16 else 0) ∧
        f.payload.length = (if x.zero then 0 else 8 * ((x.codes.length * x.w + 63) / 64)) ∧
        t.links.xfers = s.links.xfers.filter (fun y => !(y == x))) ∧
    (∀ (k : Nat) (f : Frame3) (b : List Byte), b = frameBytes k f s → f.typ < 16 → f.flags < 256 → f.seq < 65536 → f.g < 64 → f.w < 4 →
      f.hlane < 256 → f.n < 2 ^ 24 → f.payload.length % 8 = 0 → f.payload.length < 2 ^ 19 →
      getLE b 0 1 = f.typ + 16 * lmask k s ∧ getLE b 1 1 = f.flags ∧ getLE b 2 2 = f.seq ∧ getLE b 4 5 = low 40 f.q ∧
      getLE b 9 1 = f.g + 64 * f.w ∧ getLE b 10 1 = f.hlane ∧ getLE b 11 3 = f.n ∧ getLE b 14 2 = f.payload.length / 8 ∧
      slice b 16 f.payload.length = f.payload ∧ getLE b (16 + f.payload.length) 4 = crc32c (b.take (16 + f.payload.length)) ∧
      b.length = f.payload.length + 24)

/-- FIRE_FRAME: the first send for the next fire of a row group goes, with the predicted instant, to every Gen-3 port that
carries a slot of it and is up, at once where the port is free. TIME_FRAME: after training and every 2^20 position cycles, with the time and the latency.
The model's reading or choice in it: log entry 53. -/
def Obligations.FireAndTimeFramesAreSent : Prop :=
  ∀ (s : State),
    (∀ (g : Fin 64) (f : Fire) (at_ : Nat), extrapolated g s = some (f, at_) → lineFires g f s = true → linksSend s = true →
      peelWorks s = true → (∀ q t h, (rgOf g s).sent = some (q, t, h) → q ≠ f.q) → g3Ports g f.q s ≠ [] →
      (rgOf g s).cancelled = false → s.time ≤ at_ → inFireWin at_ s = true →
      ∃ t, exec (.fireFrame g) s = .next t ∧ (rgOf g t).sent = some (f.q, at_, false) ∧ fireTime g f.q t = some at_ ∧
        (∀ k ∈ g3Ports g f.q s, portUp k s = true → ∃ x : Frame3, x.typ = 2 ∧ x.q = f.q ∧ x.g = g ∧ x.flags = 0 ∧
          x.payload = leBytes 7 (at_ % 2 ^ 56) ++ [0] ∧
          ((g3Of k s).freeAt ≤ s.time → (g3Of k s).fires = [] → FrameSent k x s t) ∧
          (s.time < (g3Of k s).freeAt → g3Of k t = { g3Of k s with fires := (g3Of k s).fires ++ [x] })) ∧
        (∀ k, (k ∉ g3Ports g f.q s ∨ portUp k s = false) → g3Of k t = g3Of k s) ∧
        (∀ h, h ≠ g.val → rgOf h t = rgOf h s) ∧
        (∀ a, (∀ k < 32, a ≠ R.HLK_G3P_REPLAY k) → rd a t = rd a s) ∧
        t = { s with fresh := s.fresh + 1, regs := t.regs, cyc := t.cyc, pos := { s.pos with rg := t.pos.rg }
                     links := { s.links with g3 := t.links.g3 }, wire := t.wire }) ∧
    (∀ (k : Fin 8), g3Live s = true → portUp k s = true →
      (∀ u, (g3Of k s).lastTime = some u → u + 2 ^ 21 ≤ s.time) →
      (g3Of k s).freeAt ≤ s.time → (g3Of k s).fires = [] → fireOwed k s = false →
      ∃ t x, exec (.timeFrame k) s = .next t ∧ FrameSent k x s t ∧ OnLinks [] s t ∧ (g3Of k t).lastTime = some s.time ∧
        x.typ = 3 ∧ x.payload = leBytes 8 (s.time % 2 ^ 56) ++ leBytes 8 (rf (R.HLK_G3P_RTT k) 0 24 s))

/-- What a head answers: a frame whose check fails is discarded and counted; ACK releases the frame it names, NAK has it
sent again and counts the lanes it names, STATUS entries wait as nozzle status records, TEMP entries reach HLK_TEMP. No
answer for ACKTO: the frame goes again, and at the sixteenth in a row the port goes down.
The model's reading or choice in it: log entries 44, 45, 47. -/
def Obligations.HeadsAnswerFrames : Prop :=
  ∀ (k : Fin 8) (s : State), g3Live s = true → portUp k s = true →
    (∀ (b : List Byte) (c : Instr), c ∈ [.gen3Ack k b, .gen3Nak k b, .gen3Status k b, .gen3Temp k b] → rxIntact b = false →
      ∃ t, exec c s = .next t ∧ rf (R.HLK_G3P_RXERR k) 0 16 t = min 0xFFFF (rf (R.HLK_G3P_RXERR k) 0 16 s + 1) ∧
        rb R.HLK_STAT 3 t = true ∧ (∀ a, a ∉ [R.HLK_G3P_RXERR k, R.HLK_STAT, R.TIL_ASUMH] → rd a t = rd a s) ∧
        t = { s with regs := t.regs, cyc := t.cyc, egress := t.egress }) ∧
    (∀ b : List Byte, rxIntact b = true →
      (getLE b 0 1 % 16 = 8 → ∃ t, exec (.gen3Ack k b) s = .next t ∧ OnLinks [] s t ∧ t.wire = s.wire ∧
        g3Of k t = { g3Of k s with
          replay := (g3Of k s).replay.filter (fun f => f.seq != getLE b 2 2)
          again := (g3Of k s).again.filter (fun q => q != getLE b 2 2)
          silent := 0 }) ∧
      (getLE b 0 1 % 16 = 9 → (∀ l < 4, Sparse.get 0 (g3Of k s).naks l < 3) → ∀ f,
        (g3Of k s).replay.find? (fun f => f.seq == getLE b 2 2) = some f →
        ∃ t s', exec (.gen3Nak k b) s = .next t ∧ SentAgain k f s' t ∧ OnLinks [R.HLK_G3P_RETX k] s s' ∧
          rf (R.HLK_G3P_RETX k) 16 16 s' = min 0xFFFF (rf (R.HLK_G3P_RETX k) 16 16 s + 1) ∧ s'.wire = s.wire ∧
          g3Of k s' = { g3Of k s with naks := (g3Of k s').naks, silent := 0 } ∧
          ∀ l < 4, Sparse.get 0 (g3Of k s').naks l =
            (if bitN (getLE b 10 1 / 16) l then Sparse.get 0 (g3Of k s).naks l + 1 else 0)) ∧
      (getLE b 0 1 % 16 = 9 → ∀ l < 4, bitN (getLE b 10 1 / 16) l = true → 3 ≤ Sparse.get 0 (g3Of k s).naks l →
        bitN (lmask k s) l = true → ∃ t, exec (.gen3Nak k b) s = .next t ∧ bitN (lmask k t) l = false ∧ rb R.HLK_STAT 0 t = true ∧
          rb R.TIL_REDLOST 10 t = true) ∧
      (getLE b 0 1 % 16 = 0xA → ∃ t, exec (.gen3Status k b) s = .next t ∧
        t = { s with lst := { s.lst with records := t.lst.records } } ∧
        t.lst.records.length = s.lst.records.length + getLE b 14 2 ∧ s.lst.records <+: t.lst.records) ∧
      (getLE b 0 1 % 16 = 0xB → ∃ t, exec (.gen3Temp k b) s = .next t ∧
        (∀ e, getLE b 14 2 = 1 → e = getLE b 16 8 →
          rd (R.HLK_TEMP (16 * k + e % 16)) t = BitVec.ofNat 32 (e / 2 ^ 16 % 65536 + getLE b 4 5 % 65536 * 65536) ∧
          ∀ n < 16, rb (R.WAV_TS_SRC n) 0 s = false → rf (R.WAV_TS_SRC n) 1 3 s = k → rf (R.WAV_TS_SRC n) 4 4 s = e % 16 →
            rf (R.WAV_TS_T n) 0 16 t = e / 2 ^ 16 % 65536 ∧ rb (R.WAV_TS_K n) 17 t = false) ∧
        (∀ a, (∀ h < 128, a ≠ R.HLK_TEMP h) → (∀ n < 16, a ≠ R.WAV_TS_T n ∧ a ≠ R.WAV_TS_K n) → rd a t = rd a s) ∧
        t = { s with regs := t.regs, cyc := t.cyc, wav := t.wav })) ∧
    (∀ (seq : BitVec 16) (f : Frame3), (g3Of k s).replay.find? (fun f => f.seq == seq.toNat) = some f →
      (g3Of k s).again.contains f.seq = false → f.sent + 40 * rf R.HLK_CFG 0 8 s ≤ s.time →
      ((g3Of k s).silent < 15 → ∃ t s', exec (.ackTimeout k seq) s = .next t ∧ SentAgain k f s' t ∧ OnLinks [] s s' ∧
        g3Of k s' = { g3Of k s with silent := (g3Of k s).silent + 1 } ∧ s'.wire = s.wire) ∧
      ((g3Of k s).silent = 15 → ∃ t, exec (.ackTimeout k seq) s = .next t ∧ PortFails k s t ∧ (g3Of k t).silent = 0 ∧
        OnLinks [R.HLK_G3P_STAT k, R.HLK_STAT, R.HLK_RSWSTAT, R.TIL_ASUMH] s t))

/-- Lanes and routes: RX_LANE_FAILURE takes the lane out and the port down with its last one; PORT_RETRAIN trains the failed
lanes; LANE_TRAINING_END brings a lane in with the latency measured, and the port up once none trains and both directions
work; ROUTE_SWITCH is refused as PENDING, SAME or LATE, or accepted for its line.
The model's reading or choice in it: log entry 24. -/
def Obligations.LanesAndRoutesSwitch : Prop :=
  ∀ (s : State),
    (∀ (r k : Fin 8) (l : Nat), (k.val, l) = rxPort r s → g3Live s = true → portUsed k s = true → bitN (rxLanes k s) (l - 4) = true →
      ∃ t, exec (.rxLaneFailure r) s = .next t ∧ bitN (rxLanes k t) (l - 4) = false ∧ rb (R.HLK_RX_EQ r) 8 t = false ∧
        rb R.HLK_STAT 1 t = true ∧ rb R.TIL_REDLOST 10 t = true ∧
        (rxLanes k s = 2 ^ (l - 4) → PortFails k s t) ∧
        (rxLanes k s ≠ 2 ^ (l - 4) → portUp k t = portUp k s ∧ portDown k t = portDown k s ∧ t.links = s.links) ∧
        OnLinks [R.HLK_G3P_STAT k, R.HLK_RX_EQ r, R.HLK_G3P_RXERR k, R.HLK_STAT, R.HLK_RSWSTAT, R.TIL_REDLOST, R.TIL_ASUMH] s
          { t with fresh := s.fresh }) ∧
    (∀ (w : Writer) (k : Fin 8), reaches w (R.HLK_G3P_STAT k) s = true → portUsed k s = true →
      ∃ t, exec (.portRetrain w k) s = .next t ∧ Answers 0 t ∧
        (∀ l, l ∈ (g3Of k t).train ↔ l ∈ (g3Of k s).train ∨ (l ∈ portLanes k s ∧
          (if l < 4 then bitN (lmask k s) l else bitN (rxLanes k s) (l - 4)) = false)) ∧
        rb (R.HLK_G3P_STAT k) 8 t = (g3Of k t).train.any (fun _ => true) ∧ lmask k t = lmask k s ∧ rxLanes k t = rxLanes k s ∧
        OnLinks [R.HLK_G3P_STAT k] s { t with rdata := s.rdata, rstat := s.rstat }) ∧
    (∀ (k : Fin 8) (lane : Fin 6) (rtt : BitVec 24), g3Live s = true → lane.val ∈ (g3Of k s).train →
      (∃ t, exec (.laneTrainingEnd k lane false rtt) s = .next t ∧ (g3Of k t).train = (g3Of k s).train.filter (fun l => l != lane.val) ∧
        lmask k t = lmask k s ∧ rxLanes k t = rxLanes k s ∧ OnLinks [R.HLK_G3P_STAT k] s t ∧ t.wire = s.wire) ∧
      ∃ t, exec (.laneTrainingEnd k lane true rtt) s = .next t ∧ lane.val ∉ (g3Of k t).train ∧
        rf (R.HLK_G3P_RTT k) 0 24 t = (rtt.toNat - 4 * rf (R.HLK_G3P_CFG k) 8 8 s) / 2 ∧
        (lane.val < 4 → bitN (lmask k t) lane = true ∧ rxLanes k t = rxLanes k s) ∧
        (4 ≤ lane.val → bitN (rxLanes k t) (lane - 4) = true ∧ lmask k t = lmask k s ∧
          rb (R.HLK_RX_EQ (k.val + (lane.val - 4))) 8 t = true) ∧
        ((g3Of k s).train = [lane.val] → lmask k t ≠ 0 → rxLanes k t ≠ 0 → portUp k t = true ∧ portDown k t = false ∧
          rb (R.HLK_G3P_STAT k) 8 t = false ∧ (g3Of k t).lastTime = none) ∧
        OnLinks [R.HLK_G3P_STAT k, R.HLK_G3P_RTT k, R.HLK_RX_EQ (k.val + (lane.val - 4))] s t ∧ t.wire = s.wire) ∧
    (∀ (w : Writer) (tsel : Bool) (l : Int), reaches w R.HLK_RSWSTAT s = true → l = rdLine R.HLK_RSWL R.HLK_RSWH s →
      ∃ t, exec (.routeSwitch w tsel) s = .next t ∧ Answers 0 t ∧
        (rf R.HLK_RSWSTAT 4 3 t = if s.links.rswPend.isSome then 4 else if tsel = rb R.HLK_RSWSTAT 0 s then 5
          else if l < s.pos.hwm + 5 then 3 else 1) ∧
        (rf R.HLK_RSWSTAT 4 3 t = 1 → rb R.HLK_RSWSTAT 1 t = true ∧
          t.links = { s.links with rswPend := some (l, tsel), routes := (l, tsel) :: s.links.routes }) ∧
        (rf R.HLK_RSWSTAT 4 3 t ≠ 1 → rb R.HLK_RSWSTAT 1 t = rb R.HLK_RSWSTAT 1 s ∧ t.links = s.links) ∧
        rb R.HLK_RSWSTAT 0 t = rb R.HLK_RSWSTAT 0 s ∧ (∀ a, a ≠ R.HLK_RSWSTAT → rd a t = rd a s) ∧
        t = { s with regs := t.regs, cyc := t.cyc, links := t.links, rdata := 0, rstat := 0 })

/-- The Peel's engines: PACKING_MISMATCH is counted and the frame built again, a second one on it starts the self-test;
ENGINE_SELF_TEST_END fences an engine, keeps both, or leaves none, which forces SAFE. SPIT_TRANSFER_END fires the row
group's spit line by strobe, or by a FIRE frame 240 ns after its end.
The model's reading or choice in it: log entries 30, 31, 46. -/
def Obligations.EnginesAndSpitting : Prop :=
  ∀ (s : State),
    ((s.mode = .armed ∨ s.mode = .print ∨ s.mode = .blank ∨ s.mode = .calibrate ∨ s.mode = .drain ∨ s.mode = .spit) →
      rb R.PEEL_CFG 0 s = true → rf R.PEEL_PIPE 0 2 s = 3 → s.links.testing = false →
      ∃ t, exec .packingMismatch s = .next t ∧ rb R.PEEL_STAT 4 t = true ∧
        rf R.PEEL_PIPE 8 8 t = min 255 (rf R.PEEL_PIPE 8 8 s + 1) ∧
        ((s.links.third = false ∨ s.links.held ≠ packedFrame s) →
          (let n := if s.links.held = packedFrame s then s.links.mis else 0
           t.links = { s.links with held := packedFrame s, mis := n + 1, third := false, testing := decide (1 ≤ n) }) ∧
          OnLinks [R.PEEL_STAT, R.PEEL_PIPE, R.TIL_ASUMH] s t ∧ t.wire = s.wire) ∧
        (s.links.third = true → s.links.held = packedFrame s → rf R.PEEL_PIPE 0 2 t = 0 ∧ rb R.PEEL_STAT 6 t = true ∧
          rb R.TIL_FORCE 3 t = true ∧ rb R.TIL_REDLOST 4 t = true ∧ t.mode = .safe ∧ t.prev = s.mode ∧ t.cause = 0xB)) ∧
    (s.links.testing = true → ∀ pass0 pass1, ∃ t, exec (.engineSelfTestEnd pass0 pass1) s = .next t ∧ t.links.testing = false ∧
      (pass0 = false → pass1 = false → rf R.PEEL_PIPE 0 2 t = 0 ∧ rb R.PEEL_STAT 6 t = true ∧ rb R.TIL_FORCE 3 t = true ∧
        rb R.TIL_REDLOST 4 t = true ∧ (s.mode.fromProof = true → s.mode ≠ .sleep → t.mode = .safe)) ∧
      ((pass0 || pass1) = true → t.links = { s.links with testing := false, third := pass0 && pass1 } ∧
        rf R.PEEL_PIPE 0 2 t = (if pass0 && pass1 then rf R.PEEL_PIPE 0 2 s else (if pass0 then 1 else 0) + (if pass1 then 2 else 0)) ∧
        ((pass0 && pass1) = false → rb R.PEEL_STAT 5 t = true ∧ rb R.TIL_REDLOST 4 t = true) ∧
        OnLinks [R.PEEL_STAT, R.PEEL_PIPE, R.TIL_REDLOST, R.TIL_ASUMH] s t ∧ t.wire = s.wire)) ∧
    (∀ (g : Fin 64) (q : Int), s.mode = .spit → s.links.spit.find? (fun e => e.1 == g.val) = some (g.val, q) →
      s.links.xfers.any (fun x => x.spit && x.g == g.val) = false →
      ∃ t, exec (.spitTransferEnd g) s = .next t ∧ t.links.spit = s.links.spit.filter (fun e => e.1 != g.val) ∧
        (peelWorks s = true → ∀ k ∈ g3Ports g s.pos.hwm s, portUp k s = true →
          ∃ x ∈ (g3Of k t).replay ++ (g3Of k t).fires, x.typ = 2 ∧ x.q = q ∧ x.g = g ∧
          x.payload = leBytes 7 ((s.time + 960) % 2 ^ 56) ++ [0]) ∧
        (peelWorks s = true → s.jtag.ir ≠ 0 → ∀ o < 32, rb (R.HLK_STB o) 12 s = true → rf (R.HLK_STB o) 0 6 s = g.val →
          rf (R.HLK_STB o) 6 6 s < 4 → (∃ r ∈ routesOf g s.pos.hwm s, r.gen = 1 ∧ r.port = rf (R.HLK_STB o) 6 6 s) →
          Out.strobe o true (s.time + 32 * rf R.HLK_LSET 0 8 s) ∈ t.wire) ∧
        t.mode = s.mode ∧ t.mem = s.mem ∧ SamePlace s t ∧ Steady s t)

/-! ### Waveform block (R223 to R244) -/

/-- WAVEFORM_SAMPLE at the phase SPH: every voice is evaluated (a trigger whose start has come begins a cycle; within a
segment the level lies on the line to the segment's end value, rounded to nearest; a voice that is disabled, or neither runs
nor starts, holds its level), every gain takes its step of the ramp, every sample lies within its ceiling, and the samples
leave 300 ns later in their lanes' octets while the link carries data, zeros in PROOF, SAFE and after NOWAV. Code group
synchronisation ends at an LMFC boundary with an ILAS of 128 samples, which are lost. A copy that dissents is counted, the second time
within 2^20 samples dropped; without a majority of three SAFE is forced.
The model's reading or choice in it: log entries 48, 49, 50. -/
def Obligations.WaveformSamplesAreMade : Prop :=
  ∀ (dissent : Option (Fin 3)) (s : State), samplesRun s = true → s.time % 100 = rf R.WAV_JSTAT 4 7 s → s.wav.lastT ≠ some s.time →
    ∃ t ys m, exec (.waveformSample dissent) s = .next t ∧ (dissent = none ∨ t.mode = s.mode → t.wav.n = s.wav.n + 1 ∧
      t.wav.lastT = some s.time ∧
      (∀ v < 64, ∀ x y, x = voiceOf v s → y = voiceOf v t →
        ((rb (R.WAV_VO_CFG v) 8 s = false ∨ (x.run = false ∧ ∀ o ∈ x.q, s.time < o)) → y = x) ∧
        (∀ o, rb (R.WAV_VO_CFG v) 8 s = true → o ∈ x.q → o ≤ s.time → (∀ p ∈ x.q, p ≤ s.time → p ≤ o) →
          y.t0 = o ∧ y.q = x.q.filter (fun p => !decide (p ≤ s.time)) ∧
          (rb (R.WAV_VO_CFG v) 14 s = false → y.k = 16384)) ∧
        (∀ w, rb (R.WAV_VO_CFG v) 8 s = true → (∀ o ∈ x.q, s.time < o) → x.run = true → w = segAt v x.j s.time s →
          x.j < fld (waveReg (R.WAV_VO_CFG v) s.time s) 16 6 + 1 → x.tau ≤ s.time - x.t0 → s.time - x.t0 < x.tau + fld w 17 15 →
          bit w 16 = false →
          y = { x with lvl := y.lvl } ∧
          -(fld w 17 15 : Int) < 2 * ((y.lvl - x.lj) * fld w 17 15
            - (sext 16 (fld w 0 16) * 256 - x.lj) * ((s.time - x.t0 - x.tau : Nat) : Int)) ∧
          2 * ((y.lvl - x.lj) * fld w 17 15 - (sext 16 (fld w 0 16) * 256 - x.lj) * ((s.time - x.t0 - x.tau : Nat) : Int))
            ≤ fld w 17 15)) ∧
      (∀ c < 32, ∀ x y, x = outOf c s → y = outOf c t →
        (x.ramp ≤ x.i → y = { x with gain := x.g1, num := y.num, exp := y.exp }) ∧
        (x.i < x.ramp → y = { x with i := x.i + 1, gain := y.gain, num := y.num, exp := y.exp } ∧
          (2 * ((y.gain : Int) * x.ramp - (x.g0 * x.ramp + ((x.g1 : Int) - x.g0) * (x.i + 1)))).natAbs ≤ x.ramp)) ∧
      ys.length = m ∧ m = (match rf R.WAV_CFG 0 2 s with
        | 0 => 0
        | 1 => 32
        | _ => 16) ∧
      (rf R.WAV_JSTAT 1 2 s = 3 → ∃ lanes, Out.samples (s.wav.n + 1) ys (s.time + 1200) lanes ∈ t.wire ∧
        ∀ l, l = (jesdShape (rf R.WAV_CFG 0 2 s)).1 → lanes.length = l ∧ ∀ j < l, ∃ o,
          lanes[j]? = some ((physLane j s).1, (physLane j s).2, o) ∧ o.length = 2 * (m / l) ∧
          (rb R.WAV_CFG 2 s = false → ∀ i, i + 1 < o.length → ∀ y, y = low 16 (ys.getD (m / l * j + i / 2) 0) →
            o[i]? = some (false, BitVec.ofNat 8 (if i % 2 = 0 then y / 256 else y)))) ∧
      (rf R.WAV_JSTAT 1 2 s = 1 → rb R.WAV_JSTAT 0 s = true → (s.time + 1200) % 3200 = s.wav.lmfc →
        rf R.WAV_JSTAT 1 2 t = 2 ∧ t.wav.ilas = 127 ∧ Out.jesd 2 ∈ t.wire) ∧
      (rf R.WAV_JSTAT 1 2 s = 2 → t.wav.ilas = s.wav.ilas - 1 ∧
        rf R.WAV_JSTAT 1 2 t = (if s.wav.ilas ≤ 1 then 3 else 2)) ∧
      (∀ c < m, -(fld (waveReg (R.WAV_OUT_CEIL c) s.time s) 16 16 : Int) ≤ ys.getD c 0 ∧
        ys.getD c 0 ≤ fld (waveReg (R.WAV_OUT_CEIL c) s.time s) 0 16) ∧
      ((s.mode = .proof ∨ s.mode = .safe ∨ rb R.TIL_FORCE 4 s = true) → ∀ c < m, ys.getD c 0 = 0)) ∧
    (dissent = none → (∀ a, a ∉ [R.WAV_STAT, R.WAV_JSTAT, R.TIL_ASUMH] → (∀ c < 32, a ≠ R.WAV_OUT_OSTAT c) → rd a t = rd a s) ∧
      t = { s with regs := t.regs, cyc := t.cyc, egress := t.egress, wav := t.wav, wire := t.wire, fresh := t.fresh }) ∧
    (∀ c, dissent = some c → rb R.TIL_FORCE 4 s = false → bitN (rf R.WAV_VOTE 0 3 s) c = true →
      rf R.WAV_VOTE 8 8 t = min 255 (rf R.WAV_VOTE 8 8 s + 1) ∧
      (rf R.WAV_VOTE 0 3 s = 7 → rb R.WAV_STAT 6 t = true ∧
        let again : Prop := ∃ n, Sparse.get none s.wav.dissent c.val = some n ∧ s.wav.n + 1 ≤ n + 2 ^ 20
        (again → bitN (rf R.WAV_VOTE 0 3 t) c = false ∧ rb R.WAV_STAT 7 t = true ∧ rb R.TIL_REDLOST 5 t = true) ∧
        (¬ again → rf R.WAV_VOTE 0 3 t = 7)) ∧
      (rf R.WAV_VOTE 0 3 s ≠ 7 → rb R.WAV_STAT 8 t = true ∧ rb R.TIL_FORCE 4 t = true ∧ t.mode = .safe))

/-- OUTPUT_GAIN_WRITE starts a ramp from the gain in use to the target; TEMPERATURE_STALE sets STALE, k held; SYSREF_EDGE
aligns the multiframe clock and the sample phase, or raises SYSMIS on a displaced edge; REALIGN is kept in IDLE and
discarded elsewhere; SYNCN follows SYNC~; held low it reruns code group synchronisation on a link past it, counted and with
JSYNC where the link is up.
The model's reading or choice in it: log entries 50, 51. -/
def Obligations.GainSensorsAndLink : Prop :=
  ∀ (s : State),
    (∀ (w : Writer) (c : Fin 32) (v : Word), reaches w (R.WAV_OUT_GAIN c) s = true → ∃ t, exec (.outputGainWrite w c v) s = .next t ∧
      rd (R.WAV_OUT_GAIN c) t = v ∧
      outOf c t = { outOf c s with g0 := (outOf c s).gain, g1 := fld v 0 16, ramp := fld v 16 16, i := 0 } ∧
      (∀ k, k ≠ c.val → outOf k t = outOf k s) ∧ (∀ a, a ≠ R.WAV_OUT_GAIN c → rd a t = rd a s) ∧
      t = { s with regs := t.regs, cyc := t.cyc, wav := { s.wav with outs := t.wav.outs }, rdata := 0, rstat := 0 }) ∧
    (∀ (k : Fin 16), s.mode ≠ .cold → s.mode ≠ .load → rf (R.WAV_TS_SRC k) 16 16 s ≠ 0 → rb (R.WAV_TS_K k) 17 s = false →
      Sparse.get 0 s.wav.sens k.val + rf (R.WAV_TS_SRC k) 16 16 s * 4000000 ≤ s.time →
      ∃ t, exec (.temperatureStale k) s = .next t ∧ rb (R.WAV_TS_K k) 17 t = true ∧ rb R.WAV_STAT 3 t = true ∧
        rf (R.WAV_TS_K k) 0 16 t = rf (R.WAV_TS_K k) 0 16 s ∧
        (∀ a, a ∉ [R.WAV_TS_K k, R.WAV_STAT, R.TIL_ASUMH] → rd a t = rd a s) ∧ t = { s with regs := t.regs, cyc := t.cyc, egress := t.egress }) ∧
    (samplesRun s = true → ∀ edge, edge = s.time + 40 * min 79 (rf R.WAV_CFG 8 8 s) → ∃ t, exec .sysrefEdge s = .next t ∧
      ((s.wav.realign = true ∨ (rb R.WAV_JSTAT 3 s = false ∧ s.mode = .proof)) → rb R.WAV_JSTAT 3 t = true ∧
        rf R.WAV_JSTAT 4 7 t = edge % 100 ∧ t.wav = { s.wav with realign := false, lmfc := edge % 3200 } ∧
        (∀ a, a ≠ R.WAV_JSTAT → rd a t = rd a s) ∧ t = { s with regs := t.regs, cyc := t.cyc, wav := t.wav }) ∧
      (s.wav.realign = false → rb R.WAV_JSTAT 3 s = true → edge % 3200 ≠ s.wav.lmfc → rb R.WAV_STAT 4 t = true ∧ t.wav = s.wav ∧
        (∀ a, a ∉ [R.WAV_STAT, R.TIL_ASUMH] → rd a t = rd a s) ∧ t = { s with regs := t.regs, cyc := t.cyc, egress := t.egress }) ∧
      (s.wav.realign = false → ((rb R.WAV_JSTAT 3 s = true ∧ edge % 3200 = s.wav.lmfc) ∨
        (rb R.WAV_JSTAT 3 s = false ∧ s.mode ≠ .proof)) → t = s)) ∧
    (∀ w, reaches w R.WAV_CFG s = true → exec (.realign w) s =
      .next { s with wav := { s.wav with realign := s.wav.realign || s.mode == .idle }, rdata := 0, rstat := 0 }) ∧
    (∃ t, exec .resynchronisation s = .next t ∧ rb R.WAV_JSTAT 0 t = false ∧ (∀ i < 32, 3 ≤ i → i < 16 → rb R.WAV_JSTAT i t = rb R.WAV_JSTAT i s) ∧
      ((samplesRun s = false ∨ rf R.WAV_JSTAT 1 2 s < 2) → (∀ i < 32, i ≠ 0 → rb R.WAV_JSTAT i t = rb R.WAV_JSTAT i s) ∧
        (∀ a, a ≠ R.WAV_JSTAT → rd a t = rd a s) ∧ t = { s with regs := t.regs, cyc := t.cyc }) ∧
      (samplesRun s = true → 2 ≤ rf R.WAV_JSTAT 1 2 s → rf R.WAV_CFG 0 2 s ≠ 0 → rf R.WAV_JSTAT 1 2 t = 1 ∧ t.wire = .jesd 1 :: s.wire ∧
        (s.mode ≠ .proof → rf R.WAV_JSTAT 16 16 t = min 0xFFFF (rf R.WAV_JSTAT 16 16 s + 1) ∧ rb R.WAV_STAT 5 t = true) ∧
        (s.mode = .proof → rf R.WAV_JSTAT 16 16 t = rf R.WAV_JSTAT 16 16 s ∧ ∀ a, a ≠ R.WAV_JSTAT → rd a t = rd a s)) ∧
      (∀ a, a ∉ [R.WAV_JSTAT, R.WAV_STAT, R.TIL_ASUMH] → rd a t = rd a s) ∧
      t = { s with regs := t.regs, cyc := t.cyc, egress := t.egress, wire := t.wire }) ∧
    (∃ t, exec .wsyncNRelease s = .next t ∧ rb R.WAV_JSTAT 0 t = true ∧ (∀ i < 32, i ≠ 0 → rb R.WAV_JSTAT i t = rb R.WAV_JSTAT i s) ∧
      (∀ a, a ≠ R.WAV_JSTAT → rd a t = rd a s) ∧ t = { s with regs := t.regs, cyc := t.cyc })

/-! ### Levain-16 (R247 to R278) -/

/-- The stack operations: what each takes from the stacks and leaves there, and the registers of the bank it reads or
writes; no flag changes, and no other bank (R247). -/
def Obligations.StackOpsMoveItems : Prop :=
  ∀ (cl m : Fin 16) (x y z : Half),
    Does cl m (.lvNop cl m) 0 [] (fun _ => []) [] [] id ∧
    Does cl m (.lvDup cl m) 0 [x] (fun _ => [x, x]) [] [] id ∧
    Does cl m (.lvDrop cl m) 0 [x] (fun _ => []) [] [] id ∧
    Does cl m (.lvSwap cl m) 0 [x, y] (fun _ => [y, x]) [] [] id ∧
    Does cl m (.lvOver cl m) 0 [x, y] (fun _ => [y, x, y]) [] [] id ∧
    Does cl m (.lvRot cl m) 0 [x, y, z] (fun _ => [z, x, y]) [] [] id ∧
    Does cl m (.lvNip cl m) 1 [x, y] (fun _ => [x]) [] [] id ∧
    Does cl m (.lvTuck cl m) 1 [x, y] (fun _ => [x, y, x]) [] [] id ∧
    Does cl m (.lvTwoDup cl m) 1 [x, y] (fun _ => [x, y, x, y]) [] [] id ∧
    Does cl m (.lvTwoDrop cl m) 1 [x, y] (fun _ => []) [] [] id ∧
    Does cl m (.lvMinusRot cl m) 1 [x, y, z] (fun _ => [y, z, x]) [] [] id ∧
    Does cl m (.lvDepth cl m) 1 [] (fun k => [BitVec.ofNat 16 k.ds.length]) [] [] id ∧
    Does cl m (.lvRdepth cl m) 1 [] (fun k => [BitVec.ofNat 16 k.rs.length]) [] [] id ∧
    Does cl m (.lvRtCopy cl m) 1 [] (fun _ => [x]) [x] [x] id ∧
    Does cl m (.lvToRt cl m) 0 [x] (fun _ => []) [] [x] id ∧
    Does cl m (.lvFromRt cl m) 0 [] (fun _ => [x]) [x] [] id ∧
    Does cl m (.lvToA cl m) 0 [x] (fun _ => []) [] [] (fun k => { k with a := x }) ∧
    Does cl m (.lvFromA cl m) 0 [] (fun k => [k.a]) [] [] id ∧
    Does cl m (.lvToB cl m) 0 [x] (fun _ => []) [] [] (fun k => { k with b := x }) ∧
    Does cl m (.lvFromB cl m) 0 [] (fun k => [k.b]) [] [] id ∧
    Does cl m (.lvToRc cl m) 1 [x] (fun _ => []) [] [] (fun k => { k with rc := x }) ∧
    Does cl m (.lvFromRc cl m) 1 [] (fun k => [k.rc]) [] [] id ∧
    Does cl m (.lvToSt cl m) 1 [x] (fun _ => []) [] [] (fun k => { k with st := x &&& 0x1F }) ∧
    Does cl m (.lvAAdd cl m) 1 [x] (fun _ => []) [] [] (fun k => { k with a := k.a + x }) ∧
    Does cl m (.lvBAdd cl m) 1 [x] (fun _ => []) [] [] (fun k => { k with b := k.b + x }) ∧
    (∀ k : BitVec 11, Does cl m (.lvLit cl m k) 1 [] (fun _ => [k.signExtend 16]) [] [] id) ∧
    Does cl m (.lvFlit cl m x) 2 [] (fun _ => [x]) [] [] id ∧
    (∀ (n : Fin 15) (l : List Half), l.length = n.val + 1 →
      Does cl m (.lvPick cl m n) 1 l (fun _ => l.getD n 0 :: l) [] [] id) ∧
    (∀ (c : Fin 8) (s : State), Ready cl m 1 c s → (theCtx cl m c s).ds.length < 16 → (theCtx cl m c s).rs.length ≤ 16 →
      ∃ t v, exec (.lvFromSt cl m) s = .next t ∧ BankOnly cl m c s t ∧
        theCtx cl m c t = past 1 { theCtx cl m c s with ds := v :: (theCtx cl m c s).ds } ∧
        v.extractLsb' 0 5 = (theCtx cl m c s).st.extractLsb' 0 5 ∧ v.extractLsb' 5 3 = 0 ∧
        v.extractLsb' 8 3 = BitVec.ofNat 3 c ∧ v.extractLsb' 11 1 = BitVec.ofBool (risingOf cl m s) ∧ v.extractLsb' 12 4 = 0)

/-- Arithmetic, logic, shifts and rotates: the result, and the flags it sets (R256, R260 to R262). -/
def Obligations.ArithmeticSetsFlags : Prop :=
  ∀ (cl m : Fin 16) (a b : Half) (n : Nat), n = b.toNat % 32 →
    let keep : Half → Option Bool := fun _ => none
    Computes cl m (.lvAdd cl m) 0 [b, a] (fun _ => a + b) (fun _ => some (decide ((a + b).toNat ≠ a.toNat + b.toNat)))
      (fun _ => some (decide ((a + b).toInt ≠ a.toInt + b.toInt))) ∧
    Computes cl m (.lvAdc cl m) 1 [b, a] (fun st => a + b + carry st)
      (fun st => some (decide ((a + b + carry st).toNat ≠ a.toNat + b.toNat + (carry st).toNat)))
      (fun st => some (decide ((a + b + carry st).toInt ≠ a.toInt + b.toInt + (carry st).toInt))) ∧
    Computes cl m (.lvInc cl m) 0 [a] (fun _ => a + 1) (fun _ => some (decide (a = 0xFFFF))) (fun _ => some (decide (a = 0x7FFF))) ∧
    Computes cl m (.lvSub cl m) 0 [b, a] (fun _ => a - b) (fun _ => some (decide (a.toNat < b.toNat)))
      (fun _ => some (decide ((a - b).toInt ≠ a.toInt - b.toInt))) ∧
    Computes cl m (.lvSbc cl m) 1 [b, a] (fun st => a - b - carry st)
      (fun st => some (decide (a.toNat < b.toNat + (carry st).toNat)))
      (fun st => some (decide ((a - b - carry st).toInt ≠ a.toInt - b.toInt - (carry st).toInt))) ∧
    Computes cl m (.lvDec cl m) 1 [a] (fun _ => a - 1) (fun _ => some (decide (a = 0))) (fun _ => some (decide (a = 0x8000))) ∧
    Computes cl m (.lvNeg cl m) 0 [a] (fun _ => -a) (fun _ => some (decide (a ≠ 0))) (fun _ => some (decide (a = 0x8000))) ∧
    Computes cl m (.lvAbs cl m) 1 [a] (fun _ => if a.msb then -a else a) keep (fun _ => some (decide (a = 0x8000))) ∧
    Computes cl m (.lvAnd cl m) 0 [b, a] (fun _ => a &&& b) keep keep ∧ Computes cl m (.lvOr cl m) 0 [b, a] (fun _ => a ||| b) keep keep ∧
    Computes cl m (.lvXor cl m) 0 [b, a] (fun _ => a ^^^ b) keep keep ∧ Computes cl m (.lvNot cl m) 0 [a] (fun _ => ~~~a) keep keep ∧
    Computes cl m (.lvMin cl m) 1 [b, a] (fun _ => if a.slt b then a else b) keep keep ∧
    Computes cl m (.lvMax cl m) 1 [b, a] (fun _ => if a.slt b then b else a) keep keep ∧
    Computes cl m (.lvMinu cl m) 1 [b, a] (fun _ => BitVec.ofNat 16 (min a.toNat b.toNat)) keep keep ∧
    Computes cl m (.lvMaxu cl m) 1 [b, a] (fun _ => BitVec.ofNat 16 (max a.toNat b.toNat)) keep keep ∧
    Computes cl m (.lvClz cl m) 1 [a] (fun _ => if a = 0 then 16 else BitVec.ofNat 16 (15 - a.toNat.log2)) keep keep ∧
    Computes cl m (.lvPopc cl m) 1 [a] (fun _ => BitVec.ofNat 16 ((List.range 16).map (fun i => a.toNat / 2 ^ i % 2)).sum) keep keep ∧
    Computes cl m (.lvShl cl m) 0 [b, a] (fun _ => a <<< n) (fun _ => if n = 0 then none else some ((a.zeroExtend 48 <<< n).getLsbD 16)) keep ∧
    Computes cl m (.lvShr cl m) 0 [b, a] (fun _ => a >>> n) (fun _ => if n = 0 then none else some (a.getLsbD (n - 1))) keep ∧
    Computes cl m (.lvSar cl m) 0 [b, a] (fun _ => a.sshiftRight n)
      (fun _ => if n = 0 then none else some ((a.signExtend 48).getLsbD (n - 1))) keep ∧
    Computes cl m (.lvRol cl m) 1 [b, a] (fun _ => (a <<< (n % 16)) ||| (a >>> (16 - n % 16))) keep keep ∧
    Computes cl m (.lvRor cl m) 1 [b, a] (fun _ => (a >>> (n % 16)) ||| (a <<< (16 - n % 16))) keep keep

/-- The multiplier (R263, R321, R322) and the divider (R264, R265).
The model's reading or choice in it: log entry 92. -/
def Obligations.ProductsAndQuotients : Prop :=
  ∀ (cl m : Fin 16) (a b : Half),
    let ps : BitVec 40 := a.signExtend 40 * b.signExtend 40
    let pu : BitVec 40 := a.zeroExtend 40 * b.zeroExtend 40
    let none_ : BitVec 40 → List Half := fun _ => []
    let keep : BitVec 40 → Half → Half := fun _ st => st
    Multiplies cl m (.lvMul cl m) [b, a] none_ (fun _ => ps) [0, 1, 2] keep ∧
    Multiplies cl m (.lvMulu cl m) [b, a] none_ (fun _ => pu) [0, 1, 2] keep ∧
    Multiplies cl m (.lvMac cl m) [b, a] none_ (fun v => v + ps) [0, 1, 2] keep ∧
    Multiplies cl m (.lvMacu cl m) [b, a] none_ (fun v => v + pu) [0, 1, 2] keep ∧
    Multiplies cl m (.lvMsu cl m) [b, a] none_ (fun v => v - ps) [0, 1, 2] keep ∧
    Multiplies cl m (.lvClrm cl m) [] none_ (fun _ => 0) [0, 1, 2] keep ∧
    Multiplies cl m (.lvFromMrl cl m) [] (fun v => [v.extractLsb' 0 16]) id [] keep ∧
    Multiplies cl m (.lvFromMrh cl m) [] (fun v => [v.extractLsb' 16 16]) id [] keep ∧
    Multiplies cl m (.lvFromMrg cl m) [] (fun v => [(v.extractLsb' 32 8).signExtend 16]) id [] keep ∧
    Multiplies cl m (.lvToMrl cl m) [a] none_ (fun v => v.extractLsb' 16 24 ++ a) [0] keep ∧
    Multiplies cl m (.lvToMrh cl m) [a] none_ (fun v => v.extractLsb' 32 8 ++ a ++ v.extractLsb' 0 16) [1] keep ∧
    Multiplies cl m (.lvToMrg cl m) [a] none_ (fun v => a.extractLsb' 0 8 ++ v.extractLsb' 0 32) [2] keep ∧
    (∀ (n : Fin 25) (q : BitVec 40 → Int), (∀ v, n.val = 0 → q v = v.toInt) →
      (∀ v, n.val ≠ 0 → 2 ^ n.val * q v ≤ v.toInt + 2 ^ (n.val - 1) ∧ v.toInt + 2 ^ (n.val - 1) < 2 ^ n.val * (q v + 1)) →
      Multiplies cl m (.lvRnd cl m n) [] (fun v => [BitVec.ofInt 16 (max (-32768) (min 32767 (q v)))]) id []
        (fun v st => flagged none (some (decide (q v < -32768 ∨ 32767 < q v))) (BitVec.ofInt 16 (max (-32768) (min 32767 (q v)))) st)) ∧
    (∀ (d : Half) (x y : Int), x = (a ++ b).toInt → d ≠ 0 → y = x.tdiv d.toInt → Does cl m (.lvDiv cl m) 1 [d, a, b]
      (fun _ => [BitVec.ofInt 16 (x - y * d.toInt), BitVec.ofInt 16 y]) [] [] (fun k => { k with
        st := setDZ false (flagged none (some (decide (y < -32768 ∨ 32767 < y))) (BitVec.ofInt 16 y) k.st) })) ∧
    (∀ (d : Half) (x : Nat), x = (a ++ b).toNat → d ≠ 0 → Does cl m (.lvDivu cl m) 1 [d, a, b]
      (fun _ => [BitVec.ofNat 16 (x % d.toNat), BitVec.ofNat 16 (x / d.toNat)]) [] [] (fun k => { k with
        st := setDZ false (flagged none (some (decide (65535 < x / d.toNat))) (BitVec.ofNat 16 (x / d.toNat)) k.st) })) ∧
    (∀ (i : Instr) (q : Half), (i = .lvDiv cl m ∧ q = if a.msb then 0x8000 else 0x7FFF) ∨ (i = .lvDivu cl m ∧ q = 0xFFFF) →
      ∀ (c : Fin 8) (s : State) (r : List Half) (k u : Ctx), k = theCtx cl m c s → Ready cl m 1 c s → k.ds = 0 :: a :: b :: r →
        k.ds.length ≤ 16 → k.rs.length ≤ 16 →
        u = past 1 { k with ds := b :: q :: r, st := setDZ true (setV false (stPut 2 false k.st)) } →
        (stDZT k.st = false → ∃ t, exec i s = .next t ∧ BankOnly cl m c s t ∧ theCtx cl m c t = u) ∧
        (stDZT k.st = true → ∃ t t', exec i s = .next t ∧ BankOnly cl m c s t' ∧ theCtx cl m c t' = u ∧
          Traps cl m c 8 u.pc u.slot 0 t' t))

/-- Transfers: their targets, the return address of a call, FETCH outside local RAM with no effect (R251 to R253, R257 to
R259); BR.cc and its sixteen conditions, T read without popping, a stack too short for it being a stack trap (R258). A LOOP not taken on
a Rising cell is a transfer predicted wrong (R295). -/
def Obligations.TransfersLandOnTargets : Prop :=
  ∀ (cl m : Fin 16) (x : Half) (k : BitVec 11),
    let page : Ctx → Int := fun b => ((b.pc &&& 0x7800) ||| k.toNat : Nat)
    Transfers cl m (.lvRet cl m) 0 [] [] [x] (fun _ => true) (fun _ => x.toNat) none id ∧
    Transfers cl m (.lvJmp cl m k) 1 [] [] [] (fun _ => true) page none id ∧
    Transfers cl m (.lvCall cl m k) 1 [] [] [] (fun _ => true) page (some 1) id ∧
    Transfers cl m (.lvJz cl m k) 1 [x] [] [] (fun _ => decide (x = 0)) page none id ∧
    Transfers cl m (.lvJnz cl m k) 1 [x] [] [] (fun _ => decide (x ≠ 0)) page none id ∧
    Transfers cl m (.lvLoop cl m k) 1 [] [] [] (fun b => decide (b.rc ≠ 1)) (fun b => (b.pc : Int) - k.toNat) none
      (fun b => { b with rc := b.rc - 1 }) ∧
    Transfers cl m (.lvFjmp cl m x) 2 [] [] [] (fun _ => true) (fun _ => x.toNat) none id ∧
    Transfers cl m (.lvFcall cl m x) 2 [] [] [] (fun _ => true) (fun _ => x.toNat) (some 2) id ∧
    (∀ y : Half, Transfers cl m (.lvFjz cl m x) 2 [y] [] [] (fun _ => decide (y = 0)) (fun _ => x.toNat) none id ∧
      Transfers cl m (.lvFjnz cl m x) 2 [y] [] [] (fun _ => decide (y ≠ 0)) (fun _ => x.toNat) none id) ∧
    Transfers cl m (.lvExec cl m) 1 [x] [] [] (fun _ => true) (fun _ => x.toNat) (some 1) id ∧
    Transfers cl m (.lvJmpt cl m) 1 [x] [] [] (fun _ => true) (fun _ => x.toNat) none id ∧
    (∀ (d : BitVec 7) (cc : BitVec 4) (l : List Half), l = (if 7 ≤ cc.toNat ∧ cc.toNat ≤ 12 then [x] else []) →
      Transfers cl m (.lvBr cl m cc d) 1 l l [] (fun b => [true, stZ b.st, !stZ b.st, stC b.st, !stC b.st, stV b.st, !stV b.st,
        x.msb, !x.msb, x.msb != stV b.st, x.msb == stV b.st, stZ b.st || x.msb != stV b.st, !stZ b.st && x.msb == stV b.st,
        stC b.st || stZ b.st, !stC b.st && !stZ b.st, stDZ b.st].getD cc.toNat false) (fun b => b.pc + d.toInt) none id) ∧
    (∀ (d : BitVec 7) (cc : BitVec 4) (c : Fin 8) (s : State) (b : Ctx), b = theCtx cl m c s → Ready cl m 1 c s → b.ds = [] →
      7 ≤ cc.toNat → cc.toNat ≤ 12 → ∃ t, exec (.lvBr cl m cc d) s = .next t ∧ Traps cl m c 2 b.pc b.slot 0 s t) ∧
    (∀ (c : Fin 8) (s : State) (b : Ctx) (n : Nat), b = theCtx cl m c s → Ready cl m 1 c s → b.ds.length ≤ 16 → b.rs.length ≤ 16 →
      k.toNat ≤ b.pc → n = (cellOf cl m s).fetch.brmiss → ∃ t, exec (.lvLoop cl m k) s = .next t ∧
        (cellOf cl m t).fetch.brmiss = (if risingOf cl m s ∧ b.rc = 1 then min 0xFFFF (n + 1) else n))

/-- What comes before every Levain command: FETCH past local RAM, MEMUE at an uncorrectable word, then the stack traps, in
that order, each with no effect of the command (R249, R253, R277); without an issuing context nothing follows. ILLOP traps
at the word in error, TRAP n after its own (R277). On a Rising cell a word that the instruction cache does not hold is a miss
(R296). A word spells its operations by slot, by major op and operand, by the kind of a far form or the code of an extended op;
codes that the tables do not list are ILLOP (R250, R256, R257, R259, R260).
The model's reading or choice in it: log entries 97, 123. -/
def Obligations.TrapsComeInOrder : Prop :=
  (∀ (i : Instr) (cl m : Fin 16) (h : Shape) (c : Fin 8) (s : State) (k : Ctx), levainOf i = some (cl, m, h) → k = theCtx cl m c s →
    (issuing cl m s = none → exec i s = .next s) ∧
    (issuing cl m s = some c.val →
      (0x8000 ≤ k.pc → ∃ t, exec i s = .next t ∧ Traps cl m c 6 k.pc k.slot 0x8000 s t) ∧
      (k.pc < 0x8000 → (∀ n ≤ 2, 1 ≤ n → wordAt cl m k.pc (fetched cl m k.pc n s) = none) →
        ∃ t, exec i s = .next t ∧ Traps cl m c 9 k.pc k.slot k.pc s t ∧ rb (R.PAN_STAT cl) 4 t = true)) ∧
    (Ready cl m h.words c s →
      (k.ds.length < h.pops → ∃ t, exec i s = .next t ∧ Traps cl m c 2 k.pc k.slot 0 s t) ∧
      (h.pops ≤ k.ds.length → 16 < k.ds.length - h.pops + h.pushes → ∃ t, exec i s = .next t ∧ Traps cl m c 1 k.pc k.slot 0 s t) ∧
      (h.pops ≤ k.ds.length → k.ds.length - h.pops + h.pushes ≤ 16 →
        (k.rs.length < h.rpops → ∃ t, exec i s = .next t ∧ Traps cl m c 4 k.pc k.slot 0 s t) ∧
        (h.rpops ≤ k.rs.length → 16 < k.rs.length - h.rpops + h.rpushes →
          ∃ t, exec i s = .next t ∧ Traps cl m c 3 k.pc k.slot 0 s t)))) ∧
  (∀ (cl m : Fin 16) (c : Fin 8) (n : Fin 64) (s : State) (k : Ctx), k = theCtx cl m c s → Ready cl m 1 c s → k.ds.length ≤ 16 →
    k.rs.length ≤ 16 →
    (∃ t, exec (.lvIllop cl m) s = .next t ∧ Traps cl m c 5 k.pc k.slot 0 s t) ∧
    ∃ t t', exec (.lvTrap cl m n) s = .next t ∧ BankOnly cl m c s t' ∧ theCtx cl m c t' = past 1 k ∧
      Traps cl m c (0x40 + n) (past 1 k).pc 0 0 t' t) ∧
  (∀ (cl m : Fin 16) (c : Fin 8) (s : State) (k : Ctx) (n : Nat), k = theCtx cl m c s → Ready cl m 0 c s → k.ds.length ≤ 16 →
    k.rs.length ≤ 16 → n = (cellOf cl m s).fetch.icmiss →
    ∃ t, exec (.lvNop cl m) s = .next t ∧ (cellOf cl m t).fetch.icmiss =
      if risingOf cl m s = true ∧ (Sparse.get [] (cellOf cl m s).fetch.cache (k.pc / 8 % 256)).any (fun x => x.tag == k.pc / 2048) = false
      then min 0xFFFF (n + 1) else n) ∧
  (∀ (cl m : Fin 16) (w next : Half),
    (w.toNat < 0x8000 → levainOp cl m w next 0 = shortOp cl m (w.toNat / 1024) ∧
      levainOp cl m w next 1 = shortOp cl m (w.toNat / 32 % 32) ∧ levainOp cl m w next 2 = shortOp cl m (w.toNat % 32)) ∧
    (∀ (j : Fin 16) (k : BitVec 11), w.toNat = 0x8000 + 0x800 * j + k.toNat →
      (j = 0 → levainOp cl m w next 0 = .lvJmp cl m k) ∧ (j = 1 → levainOp cl m w next 0 = .lvCall cl m k) ∧
      (j = 5 → levainOp cl m w next 0 = .lvLit cl m k) ∧ (j = 8 → levainOp cl m w next 0 = .lvLoop cl m k) ∧
      (j = 4 → levainOp cl m w next 0 = .lvBr cl m (k.extractLsb' 7 4) (k.extractLsb' 0 7)) ∧
      (j = 15 → levainOp cl m w next 0 = .lvIllop cl m) ∧
      (j = 6 → 7 ≤ k.toNat → levainOp cl m w next 0 = .lvIllop cl m) ∧ (j = 6 → k.toNat = 2 → levainOp cl m w next 0 = .lvFlit cl m next) ∧
      (j = 7 → k.toNat < 0x100 → levainOp cl m w next 0 = plainXop cl m k.toNat) ∧
      (j = 7 → ∀ n : Fin 15, k.toNat = 0x100 + n → levainOp cl m w next 0 = .lvPick cl m n) ∧
      (j = 7 → 0x200 ≤ k.toNat → levainOp cl m w next 0 = .lvIllop cl m)))

/-- Loads of one word and of two (R266, R267, R288): the pair is one access at an even address, its words taken from one
pending entry, from memory, or, where stores of some of its words are pending otherwise, the load waits.
The model's reading or choice in it: log entry 77. -/
def Obligations.LoadsPushTheirWord : Prop :=
  ∀ (cl m : Fin 16) (x : Half) (d : BitVec 11),
    Loads cl m (.lvLd cl m) 0 [x] (fun _ => x.toNat) id ∧
    Loads cl m (.lvLda cl m) 0 [] (fun k => k.a.toNat) id ∧
    Loads cl m (.lvLdaInc cl m) 0 [] (fun k => k.a.toNat) (fun k => { k with a := k.a + 1 }) ∧
    Loads cl m (.lvLdbInc cl m) 0 [] (fun k => k.b.toNat) (fun k => { k with b := k.b + 1 }) ∧
    Loads cl m (.lvIn cl m d) 1 [] (fun _ => 0xC000 + d.toNat) id ∧
    Loads cl m (.lvLdo cl m d) 1 [] (fun k => (k.a + d.zeroExtend 16).toNat) id ∧
    Loads cl m (.lvLdi cl m x) 2 [] (fun _ => x.toNat) id ∧
    ∀ (c : Fin 8) (s : State) (r : List Half) (k : Ctx) (b : Nat) (q : List SbEntry), k = theCtx cl m c s → b = winBase cl m c s →
      q = (cellOf cl m s).sbuf → Ready cl m 1 c s → k.ds = x :: r → r.length < 15 → k.rs.length ≤ 16 →
      (namesMemory cl m b x.toNat s → namesMemory cl m b (x + 1).toNat s →
        (NonePending b x.toNat q → NonePending b (x + 1).toNat q → ueIn (wordPlace cl m b x.toNat) 2 s = false →
          ueIn (wordPlace cl m b (x + 1).toNat) 2 s = false → ∃ t, exec (.lvLd2 cl m) s = .next t ∧ WindowOnly cl m c s t ∧
          theCtx cl m c t = past 1 { k with ds := [BitVec.ofNat 16 (readN (wordPlace cl m b (x + 1).toNat) 2 s),
            BitVec.ofNat 16 (readN (wordPlace cl m b x.toNat) 2 s)] ++ r }) ∧
        (∀ e lo hi, q = [e] → e.words = [lo, hi] → entryKeys e = [wordKey b x.toNat, wordKey b (x + 1).toNat] →
          wordKey b x.toNat ≠ wordKey b (x + 1).toNat →
          ∃ t, exec (.lvLd2 cl m) s = .next t ∧ BankOnly cl m c s t ∧ theCtx cl m c t = past 1 { k with ds := hi :: lo :: r }) ∧
        (∀ e, q = [e] → wordKey b x.toNat ∈ entryKeys e → wordKey b (x + 1).toNat ∉ entryKeys e →
          ∃ t, exec (.lvLd2 cl m) s = .next t ∧ Waits cl m c s t))

/-- Stores of one word and of two (R266, R267, R287, R289), and the fence, which discards what is fetched (R298): all wait for
room, or for an empty buffer.
The model's reading or choice in it: log entries 61, 77. -/
def Obligations.StoresEnterTheBuffer : Prop :=
  ∀ (cl m : Fin 16) (x v : Half) (d : BitVec 11),
    Stores cl m (.lvSt cl m) 0 [x, v] (fun _ => x.toNat) v id ∧
    Stores cl m (.lvSta cl m) 0 [v] (fun k => k.a.toNat) v id ∧
    Stores cl m (.lvStaInc cl m) 0 [v] (fun k => k.a.toNat) v (fun k => { k with a := k.a + 1 }) ∧
    Stores cl m (.lvStbInc cl m) 0 [v] (fun k => k.b.toNat) v (fun k => { k with b := k.b + 1 }) ∧
    Stores cl m (.lvOut cl m d) 1 [v] (fun _ => 0xC000 + d.toNat) v id ∧
    Stores cl m (.lvSto cl m d) 1 [v] (fun k => (k.a + d.zeroExtend 16).toNat) v id ∧
    Stores cl m (.lvSti cl m x) 2 [v] (fun _ => x.toNat) v id ∧
    ∀ (c : Fin 8) (s : State) (r : List Half) (k u : Ctx) (y : Cell) (w : Half) (es : List SbEntry) (fab : Nat → Option Nat),
      k = theCtx cl m c s → y = cellOf cl m s → Ready cl m 1 c s → k.rs.length ≤ 16 → r.length ≤ 16 →
      fab = (fun a => if a < 0x8000 then none else some (wordPlace cl m (winBase cl m c s) a)) →
      es = (if x.toNat % 2 = 0 then [{ c := c, addr := x.toNat, fab := fab x.toNat, words := [v, w] }]
        else [{ c := c, addr := x.toNat, fab := fab x.toNat, words := [v] },
          { c := c, addr := (x + 1).toNat, fab := fab (x + 1).toNat, words := [w] }]) →
      (k.ds = x :: w :: v :: r → u = past 1 { k with ds := r } → x.toNat < 0xBFFF →
        (y.sbuf.length + es.length ≤ 4 → ∃ t, exec (.lvSt2 cl m) s = .next t ∧ CellOnly cl m c s t ∧ theCtx cl m c t = u ∧
          cellOf cl m t = { y with ctxs := (cellOf cl m t).ctxs, idleSince := (cellOf cl m t).idleSince
                                   fetch := (cellOf cl m t).fetch, sbuf := y.sbuf ++ es }) ∧
        (4 < y.sbuf.length + es.length → ∃ t, exec (.lvSt2 cl m) s = .next t ∧ Waits cl m c s t)) ∧
      (k.ds = r →
        (y.sbuf = [] → ∃ t, exec (.lvIfence cl m) s = .next t ∧ BankOnly cl m c s t ∧ theCtx cl m c t = past 1 k ∧
          (cellOf cl m t).fetch.buf = []) ∧
        (y.sbuf ≠ [] → ∃ t, exec (.lvIfence cl m) s = .next t ∧ Waits cl m c s t))

/-- STORE_DRAIN: the oldest entry leaves the buffer and its words stand in memory, every other byte as it was; a window
store into a register block draws DATAERR in its context, whatever that does meanwhile (R278, R287, R325). Atomics: the old
word is pushed and the pantry holds old + x or x; outside the window ILLOP; before that the buffer drains (R268, R289); what the
fabric does not carry waits (R400). The
cell's own words of the I/O page (R266, R310, R338, R352, R356): reads, and which contexts' writes they take.
The model's reading or choice in it: log entries 74, 75, 76. -/
def Obligations.DrainAtomicsAndCellWords : Prop :=
  (∀ (cl m : Fin 16) (s : State),
    ((cellOf cl m s).sbuf = [] → exec (.storeDrain cl m) s = .next s) ∧
    (∀ e q p, (cellOf cl m s).sbuf = e :: q → p = e.fab.getD (localWord cl m e.addr) → e.words.length ≤ 2 → e.words ≠ [] →
      ((e.fab = none ∧ e.addr + e.words.length ≤ 0x8000) ∨ (∃ f, e.fab = some f ∧ f % (2 * e.words.length) = 0 ∧ hasMemory f s = true ∧ inReach cl f s = true) →
        ∃ t, exec (.storeDrain cl m) s = .next t ∧ cellOf cl m t =
            { cellOf cl m s with sbuf := q, idleSince := (cellOf cl m t).idleSince, fetch := (cellOf cl m t).fetch } ∧
          (∀ i < e.words.length, readN (p + 2 * i) 2 t = (e.words.getD i 0).toNat) ∧
          (∀ a, ¬ (p ≤ a ∧ a < p + 2 * e.words.length) → mb a t = mb a s) ∧
          t = { s with regs := t.regs, cyc := t.cyc, cells := t.cells, mem := t.mem, ue := t.ue, ce := t.ce } ∧
          (∀ a, a ∉ [R.PAN_WMAX01 cl, R.PAN_WMAX23 cl] → rd a t = rd a s) ∧
          (∀ i, i ≠ cl.val * 16 + m → Sparse.get {} t.cells i = Sparse.get {} s.cells i)) ∧
      (∀ f, e.fab = some f → inReach cl f s = false → exec (.storeDrain cl m) s = .next s) ∧
      (∀ f k, e.fab = some f → f % 2 = 0 → isBlock f s = true → inReach cl f s = true → e.words.length = 1 → k = theCtx cl m e.c s → e.c < 8 →
        ∃ t, exec (.storeDrain cl m) s = .next t ∧ (cellOf cl m t).sbuf = q ∧ Steady s t ∧
          (e.c < 7 → k.state ∈ [.stopped, .trapped] → theCtx cl m e.c t = k) ∧
          (e.c < 7 → k.state ∈ [.ready, .running, .waiting] → theCtx cl m e.c t = { k with state := .trapped } ∧
            ((theCtx cl m 7 s).state = .trapidle → (cellOf cl m t).trapcode = BitVec.ofNat 16 (0x8000 + e.c * 256 + 7) ∧
              (cellOf cl m t).trapadr = BitVec.ofNat 16 e.addr ∧
              (cellOf cl m t).trappc = BitVec.ofNat 16 (if k.state = .waiting then k.pc - 1 else k.pc))) ∧
          (e.c = 7 → (cellOf cl m t).stopped = true))) ∧
    (∀ (c : Fin 8) (x v : Half) (r : List Half) (k : Ctx) (p : Nat), k = theCtx cl m c s → Ready cl m 1 c s → k.ds = x :: v :: r →
      k.ds.length ≤ 16 → k.rs.length ≤ 16 → p = wordPlace cl m (winBase cl m c s) x.toNat →
      ∀ i new, (i = .lvAadd cl m ∧ new = BitVec.ofNat 16 (readN p 2 s) + v) ∨ (i = .lvAswap cl m ∧ new = v) →
      ((x.toNat < 0x8000 ∨ 0xC000 ≤ x.toNat) → ∃ t, exec i s = .next t ∧ Traps cl m c 5 k.pc k.slot 0 s t) ∧
      (0x8000 ≤ x.toNat → x.toNat < 0xC000 →
        (((cellOf cl m s).sbuf ≠ [] ∨ inReach cl p s = false) → ∃ t, exec i s = .next t ∧ Waits cl m c s t) ∧
        ((cellOf cl m s).sbuf = [] → inReach cl p s = true → (∃ j, placeOf p = .pantry j) → ueIn p 2 s = false →
          ∃ t, exec i s = .next t ∧ readN p 2 t = new.toNat ∧ (∀ a, a ≠ p → a ≠ p + 1 → mb a t = mb a s) ∧
            theCtx cl m c t = past 1 { k with ds := BitVec.ofNat 16 (readN p 2 s) :: r } ∧
            (∀ d, d ≠ c.val → theCtx cl m d t = theCtx cl m d s) ∧ (∀ a, memReg cl a = false → rd a t = rd a s) ∧
            t = { s with regs := t.regs, cyc := t.cyc, cells := t.cells, mem := t.mem, ue := t.ue, ce := t.ce }) ∧
        ((cellOf cl m s).sbuf = [] → inReach cl p s = true → (∃ j, placeOf p = .pantry j) → ueIn p 2 s = true →
          ∃ t, exec i s = .next t ∧ Traps cl m c 9 k.pc k.slot x.toNat s t)))) ∧
  (∀ (cl m : Fin 16) (c : Fin 8) (s : State) (x : Cell), x = cellOf cl m s →
    (Ready cl m 2 c s → NonePending (winBase cl m c s) 0xC142 x.sbuf → (theCtx cl m c s).ds.length < 16 → (theCtx cl m c s).rs.length ≤ 16 →
      (∀ a ∈ [0xC108, 0xC143, 0xC170, 0xC171, 0xC172, 0xC173, 0xC174, 0xC175], NonePending (winBase cl m c s) a x.sbuf) →
      WordReads cl m c 0xC108 (BitVec.ofNat 16 x.sbuf.length) s ∧
      WordReads cl m c 0xC142 (BitVec.ofNat 16 (prioOf cl m c s * 256 + ((theCtx cl m c s).svc.map (fun i => i + 64)).getD 0)) s ∧
      WordReads cl m c 0xC143 (BitVec.ofNat 16 (x.owner.getD 0 + (if x.live then 8 else 0) + (if x.owner = none then 16 else 0)
        + x.valid * 256)) s ∧
      WordReads cl m c 0xC170 x.trapcode s ∧ WordReads cl m c 0xC171 x.trappc s ∧ WordReads cl m c 0xC172 x.trapsl s ∧
      WordReads cl m c 0xC173 x.trapadr s ∧ WordReads cl m c 0xC174 x.trapst s ∧ WordReads cl m c 0xC175 x.trapact s) ∧
    (∀ (a : Half), 0xC010 ≤ a.toNat → a.toNat < 0xC100 →
      (Ready cl m 2 c s → NonePending (winBase cl m c s) a.toNat x.sbuf → (theCtx cl m c s).ds.length < 16 →
        (theCtx cl m c s).rs.length ≤ 16 → WordReads cl m c a 0 s) ∧
      (∀ v u, WordStore cl m c v s u → ∃ t, exec (.lvSti cl m a) s = .next t ∧ BankOnly cl m c s t ∧ theCtx cl m c t = u)) ∧
    (∀ (v : Half) (u : Ctx) (lo : Nat), WordStore cl m c v s u → v.toNat < 256 →
      Sparse.get none s.stages (Writer.key (.ctx cl m c)) = some (0x200000C001, lo) →
      ∃ t, exec (.lvSti cl m 0xC001) s = .next t ∧ CellOnly cl m c { s with stages := t.stages } t ∧
        theCtx cl m c t = { u with winbase := some (lo + v.toNat * 65536) } ∧
        Sparse.get none t.stages (Writer.key (.ctx cl m c)) = none) ∧
    (∀ (j : Fin 32) (a : Half) (v old : Half) (u : Ctx), old = setWordOf cl m c j s → a.toNat % 32 = j → c ≠ 7 →
      (∀ d : Nat, a.toNat = 0xC180 + d → d < 96 → WordStore cl m c v s u →
        ∃ t, exec (.lvSti cl m a) s = .next t ∧ BankOnly cl m c s t ∧ theCtx cl m c t = { u with sets := (theCtx cl m c t).sets } ∧
          setWordOf cl m c j t = (if d < 32 then v else if d < 64 then old ||| v else old &&& ~~~v) ∧
          (∀ i : Nat, i ≠ j → setWordOf cl m c i t = setWordOf cl m c i s))) ∧
    (∀ (a v : Half) (u : Ctx), WordStore cl m c v s u →
      (a = 0xC171 → c ≠ 7 → ∃ t, exec (.lvSti cl m a) s = .next t ∧ BankOnly cl m c s t ∧ theCtx cl m c t = u) ∧
      (a = 0xC171 → c = 7 → ∃ t, exec (.lvSti cl m a) s = .next t ∧ CellOnly cl m c s t ∧ (cellOf cl m t).trappc = v) ∧
      (a = 0xC172 → c = 7 → v.toNat < 4 → ∃ t, exec (.lvSti cl m a) s = .next t ∧ CellOnly cl m c s t ∧ (cellOf cl m t).trapsl = v) ∧
      (a = 0xC175 → c = 7 → v.toNat < 4 → ∃ t, exec (.lvSti cl m a) s = .next t ∧ CellOnly cl m c s t ∧ (cellOf cl m t).trapact = v) ∧
      (a = 0xC144 → v.toNat < 4096 → ∃ t, exec (.lvSti cl m a) s = .next t ∧ CellOnly cl m c s t ∧ theCtx cl m c t = u ∧
        ∀ i, bitN (cellOf cl m t).dirty i = (bitN x.dirty i && !(decide (i < 12) && v.getLsbD i)))))

/-- String operations alone and under REP (R269 to R271): one element each; REP with RC = 0 performs none; SUMS repeated
sums RC words; SCANS stops at the first word its rule names; FILLS fills the buffer; a word that is no string op is ILLOP.
The model's reading or choice in it: log entry 77. -/
def Obligations.StringOpsAndRep : Prop :=
  ∀ (cl m : Fin 16) (c : Fin 8) (s : State) (k : Ctx) (q : List SbEntry) (b : Nat) (at_ : Nat → Half), k = theCtx cl m c s →
    q = (cellOf cl m s).sbuf → b = winBase cl m c s → at_ = (fun a => BitVec.ofNat 16 (readN (localWord cl m a) 2 s)) →
    Ready cl m 1 c s → k.ds.length ≤ 16 → k.rs.length ≤ 16 →
    let sound : Nat → Prop := fun a => a < 0x8000 ∧ ueIn (localWord cl m a) 2 s = false ∧ NonePending b a q
    let puts : List Nat → Half → State → Prop := fun l v t => ∃ es : List SbEntry,
      cellOf cl m t = { cellOf cl m s with ctxs := (cellOf cl m t).ctxs, idleSince := (cellOf cl m t).idleSince
                                           fetch := (cellOf cl m t).fetch, sbuf := q ++ es } ∧
      es = l.map (fun a => { c := c, addr := a, fab := none, words := [v] })
    (∀ i, i ∈ [(Instr.lvMovs cl m, (1 : Half)), (.lvMovsd cl m, -1)] → sound k.a.toNat → k.b.toNat < 0x8000 →
      (q.length < 4 → ∃ t, exec i.1 s = .next t ∧ CellOnly cl m c s t ∧ puts [k.b.toNat] (at_ k.a.toNat) t ∧
        theCtx cl m c t = past 1 { k with a := k.a + i.2, b := k.b + i.2, rc := k.rc - 1 }) ∧
      (4 ≤ q.length → ∃ t, exec i.1 s = .next t ∧ Waits cl m c s t)) ∧
    (∀ v r, k.ds = v :: r →
      (k.b.toNat < 0x8000 → q.length < 4 → ∃ t, exec (.lvFills cl m) s = .next t ∧ CellOnly cl m c s t ∧ puts [k.b.toNat] v t ∧
        theCtx cl m c t = past 1 { k with b := k.b + 1, rc := k.rc - 1 }) ∧
      (sound k.a.toNat → ∃ t, exec (.lvScans cl m) s = .next t ∧ BankOnly cl m c s t ∧
        theCtx cl m c t = past 1 { k with a := k.a + 1, rc := k.rc - 1, st := (subF (at_ k.a.toNat) v 0 k.st).2 }) ∧
      (sound k.a.toNat → ∃ t, exec (.lvSums cl m) s = .next t ∧ BankOnly cl m c s t ∧
        theCtx cl m c t = past 1 { k with
          a := k.a + 1, rc := k.rc - 1, ds := (v + at_ k.a.toNat) :: r, st := (addF v (at_ k.a.toNat) 0 k.st).2 })) ∧
    (sound k.a.toNat → sound k.b.toNat → ∃ t, exec (.lvCmps cl m) s = .next t ∧ BankOnly cl m c s t ∧
      theCtx cl m c t = past 1 { k with
        a := k.a + 1, b := k.b + 1, rc := k.rc - 1, st := (subF (at_ k.a.toNat) (at_ k.b.toNat) 0 k.st).2 }) ∧
    (∀ (g : BitVec 11), (3 ≤ g.toNat ∨ 0x7FFF ≤ k.pc) →
      ∃ t, exec (.lvRep cl m g) s = .next t ∧ Traps cl m c 5 k.pc k.slot 0 s t) ∧
    (∀ (g : BitVec 11) (w : Half), g.toNat < 3 → k.pc < 0x7FFF → wordAt cl m (k.pc + 1) (fetched cl m k.pc 2 s) = some w →
      ((w.toNat < 0xB850 ∨ 0xB855 < w.toNat) → ∃ t, exec (.lvRep cl m g) s = .next t ∧ Traps cl m c 5 k.pc k.slot 0 s t) ∧
      (0xB850 ≤ w.toNat → w.toNat ≤ 0xB855 →
        (k.rc = 0 → ∃ t, exec (.lvRep cl m g) s = .next t ∧ BankOnly cl m c s t ∧
          theCtx cl m c t = past 2 k) ∧
        (∀ v r, k.ds = v :: r → (∀ j < k.rc.toNat, sound (k.a.toNat + j)) →
          (w = 0xB855 → g = 0 → ∃ t, exec (.lvRep cl m g) s = .next t ∧ BankOnly cl m c s t ∧
            (theCtx cl m c t).st.extractLsb' 3 13 = k.st.extractLsb' 3 13 ∧ theCtx cl m c t = past 2 { k with
              a := k.a + k.rc, rc := 0, st := (theCtx cl m c t).st
              ds := (v + BitVec.ofNat 16 ((List.range k.rc.toNat).map (fun j => (at_ (k.a.toNat + j)).toNat)).sum) :: r }) ∧
          (∀ j < k.rc.toNat, w = 0xB854 → (g = 1 ∨ g = 2) →
            (∀ i < j, (at_ (k.a.toNat + i) = v) = (g = 2)) → ((at_ (k.a.toNat + j) = v) = (g = 1) ∨ j + 1 = k.rc.toNat) →
            ∃ t, exec (.lvRep cl m g) s = .next t ∧ BankOnly cl m c s t ∧ stZ (theCtx cl m c t).st = decide (at_ (k.a.toNat + j) = v) ∧
              (theCtx cl m c t).st.extractLsb' 3 13 = k.st.extractLsb' 3 13 ∧ theCtx cl m c t = past 2 { k with
                a := k.a + BitVec.ofNat 16 (j + 1), rc := k.rc - BitVec.ofNat 16 (j + 1), st := (theCtx cl m c t).st })) ∧
        (∀ v r, k.ds = v :: r → w = 0xB852 → g = 0 → k.b.toNat + k.rc.toNat ≤ 0x8000 → q.length + k.rc.toNat ≤ 4 →
          ∃ t, exec (.lvRep cl m g) s = .next t ∧ CellOnly cl m c s t ∧
            puts ((List.range k.rc.toNat).map (fun j => k.b.toNat + j)) v t ∧
            theCtx cl m c t = past 2 { k with b := k.b + k.rc, rc := 0 })))

/-- WAIT, YIELD, DONE, TRET (R274, R317, R319, R320, R324, R326).
The model's reading or choice in it: log entry 56. -/
def Obligations.SchedulingInstructions : Prop :=
  ∀ (cl m : Fin 16) (c : Fin 8) (s : State) (k : Ctx), k = theCtx cl m c s → Ready cl m 1 c s → k.ds.length < 16 → k.rs.length ≤ 16 →
    (∀ g : BitVec 11, (c = 7 ∨ 16 ≤ g.toNat) → ∃ t, exec (.lvWait cl m g) s = .next t ∧ Traps cl m c 5 k.pc k.slot 0 s t) ∧
    (∀ g : BitVec 11, c ≠ 7 → g.toNat < 16 → ∃ s0 s1, BankOnly cl m c s s0 ∧ theCtx cl m c s0 = past 1 k ∧ ServiceEnds cl m c s0 s1 ∧
      let due : Nat → Prop := fun i => Deliverable cl i s1 ∧ bitsN (rd64 (R.EVC_TGT_L cl i) (R.EVC_TGT_H cl i) s1) (4 * m.val) 4 = 8 + c ∧
        bitN (setOf cl m c (g.toNat % 8) s1) i = true
      ((∀ i, ¬ due i) → (g.toNat < 8 ∨ k.rc ≠ 0) → ∃ t s2, exec (.lvWait cl m g) s = .next t ∧ CellOnly cl m c s1 s2 ∧
        theCtx cl m c s2 = { past 1 k with svc := none, state := .waiting, wset := g.toNat % 8, tmo := decide (8 ≤ g.toNat), phase := 0 } ∧
        BestRuns cl m s2 t ∧ t = { s1 with cells := t.cells }) ∧
      ((∀ i, ¬ due i) → 8 ≤ g.toNat → k.rc = 0 → (∀ d < 8, (theCtx cl m d s).state ≠ .ready) →
        ∃ t, exec (.lvWait cl m g) s = .next t ∧ t = { s1 with cells := t.cells } ∧ (cellOf cl m t).running = some c.val ∧
          theCtx cl m c t = past 1 { k with svc := none, ds := 0xFFFF :: k.ds }) ∧
      (∀ i, due i → (∀ j, due j → j ≠ i → priOf cl i s1 < priOf cl j s1) → (∀ d < 8, (theCtx cl m d s).state ≠ .ready) →
        ∃ t, exec (.lvWait cl m g) s = .next t ∧ Claimed cl i m s1 t ∧ (cellOf cl m t).running = some c.val ∧
          theCtx cl m c t = past 1 { k with svc := some i, given := coreCycle s, ds := BitVec.ofNat 16 i :: k.ds })) ∧
    (c ≠ 7 → ∃ s0 s1, BankOnly cl m c s s0 ∧ theCtx cl m c s0 = past 1 k ∧ ServiceEnds cl m c s0 s1 ∧
      ((∀ d < 8, (theCtx cl m d s).state = .ready → groupOf cl m c s1 ≤ groupOf cl m d s1) → exec (.lvDone cl m) s = .next s1) ∧
      ((∀ d < 8, (theCtx cl m d s).state = .ready → groupOf cl m d s0 ≠ groupOf cl m c s0) → exec (.lvYield cl m) s = .next s0) ∧
      (∀ d < 8, d ≠ c.val → (theCtx cl m d s).state = .ready → groupOf cl m d s0 = groupOf cl m c s0 → k.state = .running →
        (∀ e < 8, e ≠ d → (theCtx cl m e s).state = .ready → groupOf cl m e s0 = groupOf cl m c s0 → Before cl m d e s) →
        ∃ t, exec (.lvYield cl m) s = .next t ∧ t = { s0 with cells := t.cells } ∧ (cellOf cl m t).running = some d ∧
          (cellOf cl m t).switching = true ∧ theCtx cl m d t = { theCtx cl m d s with state := .running } ∧
          theCtx cl m c t = { past 1 k with state := .ready })) ∧
    (c = 7 → ∀ i, (i = .lvDone cl m ∨ i = .lvYield cl m) → ∃ t, exec i s = .next t ∧ BankOnly cl m c s t ∧ theCtx cl m c t = past 1 k) ∧
    (c ≠ 7 → ∃ t, exec (.lvTret cl m) s = .next t ∧ Traps cl m c 5 k.pc k.slot 0 s t) ∧
    (∀ (x : Cell) (h : Nat) (y : Ctx) (act : Nat), x = cellOf cl m s → c = 7 → x.handling = some h → h < 7 → y = theCtx cl m h s →
      act = (if x.handledStopped then 0 else x.trapact.toNat % 4) →
      ∃ s0 t, BankOnly cl m c s s0 ∧ theCtx cl m c s0 = k ∧ exec (.lvTret cl m) s = .next t ∧
      OnContexts cl m s0 { t with regs := (if x.trapq = [] then t.regs else s0.regs), egress := s.egress } ∧
      (x.trapq = [] → (theCtx cl m 7 t).state = .trapidle ∧ (theCtx cl m 7 t).ds = [] ∧ (cellOf cl m t).handling = none ∧
        (act = 1 → ((theCtx cl m h t).state = .ready ∨ (theCtx cl m h t).state = .running) ∧
          theCtx cl m h t = { y with state := (theCtx cl m h t).state, pc := x.trappc.toNat, slot := x.trapsl.toNat % 4 }) ∧
        (act = 2 → Started cl m h s (theCtx cl m h t)) ∧
        (act = 0 ∨ act = 3 → theCtx cl m h t = { y with state := .stopped, svc := none, due := none })) ∧
      (∀ e q, x.trapq = e :: q → e.c < 7 → e.c ≠ h → y.state ≠ .stopped → (cellOf cl m t).running = some 7 ∧ (cellOf cl m t).handling = some e.c ∧
        (cellOf cl m t).trapq = q.filter (fun z => decide (act = 1) || z.c != h) ∧
        (cellOf cl m t).trapcode = BitVec.ofNat 16 (0x8000 + e.c * 256 + e.code) ∧ (cellOf cl m t).trappc = BitVec.ofNat 16 e.pc ∧
        (theCtx cl m 7 t).ds = [BitVec.ofNat 16 e.code, BitVec.ofNat 16 e.c, BitVec.ofNat 16 e.pc]))

/-- Contexts start, stop, switch in, time out, a delivery in the same core cycle winning (R332); cells restart and sleep (R274,
R312, R313, R318, R328, R334). The model's reading or choice in it: log entry 60. -/
def Obligations.ContextsStartAndStop : Prop :=
  ∀ (w : Writer) (cl m : Fin 16) (mask : BitVec 7) (s : State),
    (reaches w (R.cluster cl) s = true →
      (∃ t t', exec (.startreq w cl m mask) s = .next t' ∧ Asked t t' ∧ OnContexts cl m s t ∧
        (∀ c < 7, mask.getLsbD c = true → Started cl m c s (theCtx cl m c t) ∧ bitN (cellOf cl m t).valid c = false ∧
          (cellOf cl m t).owner ≠ some c ∧ Sparse.get none t.stages (ctxWriter cl m c) = none ∧
          Sparse.get [] t.latches (ctxWriter cl m c) = []) ∧
        (mask ≠ 0 → (cellOf cl m t).asleep = false) ∧
        (∀ c < 8, (c = 7 ∨ mask.getLsbD c = false) →
          theCtx cl m c t = { theCtx cl m c s with state := (theCtx cl m c t).state } ∧
          ((theCtx cl m c s).state ∉ [.ready, .running] → (cellOf cl m s).running ≠ some c → (theCtx cl m c t).state = (theCtx cl m c s).state))) ∧
      (∃ t t', exec (.stopreq w cl m mask) s = .next t' ∧ Asked t t' ∧ OnContexts cl m s t ∧
        (∀ c < 7, mask.getLsbD c = true → (theCtx cl m c t).state = .stopped ∧
          ((theCtx cl m c s).state ≠ .stopped → theCtx cl m c t = { theCtx cl m c s with state := .stopped, due := none, svc := none } ∧
            (cellOf cl m t).owner ≠ some c ∧ (cellOf cl m t).running ≠ some c)) ∧
        (∀ c < 8, (c = 7 ∨ mask.getLsbD c = false) →
          theCtx cl m c t = { theCtx cl m c s with state := (theCtx cl m c t).state } ∧
          ((theCtx cl m c s).state ≠ .ready → (theCtx cl m c t).state = (theCtx cl m c s).state))) ∧
      ∃ t t', exec (.crestart w cl m) s = .next t' ∧ Asked t t' ∧
        OnContexts cl m { s with regs := (wb (R.EVC_CELL cl m) 31 false s).regs } t ∧
        (cellOf cl m t).stopped = false ∧ (cellOf cl m t).asleep = false ∧ (cellOf cl m t).valid = 0 ∧ (cellOf cl m t).trapq = [] ∧
        (∀ c < 8, (cellOf cl m t).owner ≠ some c) ∧
        (theCtx cl m 7 t).state = .trapidle ∧
        ∀ c < 7, (rb (R.EVC_CELL_CFG cl m) (8 + c) s = true → Started cl m c s (theCtx cl m c t)) ∧
          (rb (R.EVC_CELL_CFG cl m) (8 + c) s = false → (theCtx cl m c t).state = .stopped)) ∧
    (∀ (r : Nat) (x : Cell), x = cellOf cl m s → x.running = some r → x.switching = true → cellsIssue s = true →
      ∃ t, exec (.contextSwitch cl m) s = .next t ∧ CellOnly cl m r s t ∧ (cellOf cl m t).switching = false ∧
        (cellOf cl m t).switches = min 0xFFFF (x.switches + 1) ∧
        theCtx cl m r t = { theCtx cl m r s with due := none, ds := (theCtx cl m r s).due.toList ++ (theCtx cl m r s).ds }) ∧
    (((cellOf cl m s).running = none ∨ (cellOf cl m s).switching = false) → exec (.contextSwitch cl m) s = .next s) ∧
    (∀ (c : Fin 7) (k : Ctx), k = theCtx cl m c s → s.mode.fromProof = true → s.mode ≠ .sleep → k.state = .waiting → k.tmo = true →
      k.rc.toNat ≤ 1 → ∃ t, exec (.waitTimeout cl m c) s = .next t ∧
        ((theCtx cl m c t).state = .ready ∨ (theCtx cl m c t).state = .running) ∧
        (dueSource cl m c s = none → t = { s with cells := t.cells } ∧
          theCtx cl m c t = { k with state := (theCtx cl m c t).state, rc := 0, tmo := false, phase := 0, due := some 0xFFFF }) ∧
        (∀ i, dueSource cl m c s = some i → Claimed cl i m s t ∧
          theCtx cl m c t = { k with state := (theCtx cl m c t).state, rc := 0, tmo := false, phase := 0, svc := some i
                                     given := coreCycle s, due := some (BitVec.ofNat 16 i) }) ∧
        ∀ d, d ≠ c.val → theCtx cl m d t = { theCtx cl m d s with state := (theCtx cl m d t).state }) ∧
    (∀ x : Cell, x = cellOf cl m s → s.mode.fromProof = true → s.mode ≠ .sleep → x.asleep = false →
      ((rb (R.EVC_CELL_CFG cl m) 0 s = true ∧ x.sbuf = [] ∧ x.idleSince.getD 0 + 16 ≤ coreCycle s ∧
        ∀ c < 8, (theCtx cl m c s).state ∈ [.stopped, .trapidle] ∨ ((theCtx cl m c s).state = .waiting ∧ (theCtx cl m c s).tmo = false)) →
        ∃ t, exec (.cellSleep cl m) s = .next t ∧ (cellOf cl m t).asleep = true ∧ t = { s with cells := t.cells } ∧
          ∀ c, theCtx cl m c t = theCtx cl m c s) ∧
      ((rb (R.EVC_CELL_CFG cl m) 0 s = false ∨ x.sbuf ≠ []) → exec (.cellSleep cl m) s = .next s))

/-- The event controller (R330 to R334): EVENT_DELIVERY delivers the most urgent deliverable source that some waiting
context can have, to the first such target after RR, and counts the sleeping targets passed over; PENDSET, PENDCLR, MASKSET,
MASKCLR act on the bits that carry 1 and that no later writer has changed in this core cycle.
The model's reading or choice in it: log entries 55, 91. -/
def Obligations.SourcesAreDelivered : Prop :=
  ∀ (w : Writer) (cl : Fin 16) (hi : Bool) (v : Word) (s : State),
    (s.mode.fromProof = true → s.mode ≠ .sleep → Sparse.get 0 s.evAhead cl = 0 →
      (∀ i e c, Deliverable cl i s → Awaits cl i e c s → Wakes cl i e s →
        (∀ d < (e + 15 - rf (R.EVC_SRC cl i) 10 4 s) % 16, ∀ c' e', e' = (rf (R.EVC_SRC cl i) 10 4 s + 1 + d) % 16 →
          Awaits cl i e' c' s → ¬ Wakes cl i e' s) →
        (∀ j, Deliverable cl j s → j ≠ i → (priOf cl j s < priOf cl i s ∨ (priOf cl j s = priOf cl i s ∧ j < i)) →
          ∀ e' c', ¬ Awaits cl j e' c' s) →
        ∃ t, exec (.eventDelivery cl) s = .next t ∧ Claimed cl i e s t ∧ (cellOf cl e t).asleep = false ∧
          ((theCtx cl e c t).state = .ready ∨ (theCtx cl e c t).state = .running) ∧
          theCtx cl e c t = { theCtx cl e c s with
            state := (theCtx cl e c t).state, svc := some i, given := coreCycle s, due := some (BitVec.ofNat 16 i) } ∧
          rf (R.EVC_DELIV cl) 16 16 t = min 0xFFFF (rf (R.EVC_DELIV cl) 16 16 s +
            ((List.range ((e + 15 - rf (R.EVC_SRC cl i) 10 4 s) % 16)).filter (fun d =>
              waitsFor cl i ((rf (R.EVC_SRC cl i) 10 4 s + 1 + d) % 16) s)).length) ∧
          ((cellOf cl e s).running = none → (∀ d < 8, (theCtx cl e d s).state ≠ .ready) → (cellOf cl e t).running = some c ∧
            (cellOf cl e t).switching = true) ∧
          (∀ x, x ≠ cl.val * 16 + e → Sparse.get {} t.cells x = Sparse.get {} s.cells x) ∧
          t = { s with regs := t.regs, cyc := t.cyc, cells := t.cells, evAhead := t.evAhead, evBefore := t.evBefore }) ∧
      ((∀ i e c, Deliverable cl i s → ¬ Awaits cl i e c s) → exec (.eventDelivery cl) s = .next s) ∧
      ((∀ i e c, Deliverable cl i s → Awaits cl i e c s → ¬ Wakes cl i e s) →
        ∃ t, exec (.eventDelivery cl) s = .next t ∧ t = { s with regs := t.regs, cyc := t.cyc } ∧
          rf (R.EVC_DELIV cl) 0 16 t = rf (R.EVC_DELIV cl) 0 16 s ∧ ∀ a, a ≠ R.EVC_DELIV cl → rd a t = rd a s)) ∧
    (reaches w (R.cluster cl) s = true → (∀ j < 128, Sparse.get 0 s.cyc.ranks (128 * cl + j) ≤ writerRank w cl) →
      let o := if hi then 32 else 0
      let pend : Nat → State → Bool := fun i t => bitN (rd64 (R.EVC_PENDSETL cl) (R.EVC_PENDSETH cl) t) i
      (∃ t, exec (.evcPendset w cl hi v) s = .next t ∧ (∀ i < 64, pend i t = (pend i s || (decide (o ≤ i) && v.getLsbD (i - o)))) ∧
        (∀ a, a ∉ [R.EVC_PENDSETL cl, R.EVC_PENDSETH cl, R.EVC_MERGE cl] → rd a t = rd a s) ∧
        t = { s with regs := t.regs, cyc := t.cyc, evBefore := t.evBefore, rdata := 0, rstat := 0 }) ∧
      (∃ t, exec (.evcPendclr w cl hi v) s = .next t ∧ (∀ i < 64, pend i t = (pend i s && !(decide (o ≤ i) && v.getLsbD (i - o)))) ∧
        (∀ a, a ∉ [R.EVC_PENDSETL cl, R.EVC_PENDSETH cl] → rd a t = rd a s) ∧
        t = { s with regs := t.regs, cyc := t.cyc, evAhead := t.evAhead, evBefore := t.evBefore, rdata := 0, rstat := 0 }) ∧
      (∃ t, exec (.evcMaskset w cl hi v) s = .next t ∧ (∀ i < 64, maskOf cl i t = (maskOf cl i s || (decide (o ≤ i) && v.getLsbD (i - o)))) ∧
        (∀ a, a ∉ [R.EVC_MASKSETL cl, R.EVC_MASKSETH cl] → rd a t = rd a s) ∧ t = { s with regs := t.regs, cyc := t.cyc, rdata := 0, rstat := 0 }) ∧
      (∃ t, exec (.evcMaskclr w cl hi v) s = .next t ∧ (∀ i < 64, maskOf cl i t = (maskOf cl i s && !(decide (o ≤ i) && v.getLsbD (i - o)))) ∧
        (∀ a, a ∉ [R.EVC_MASKSETL cl, R.EVC_MASKSETH cl] → rd a t = rd a s) ∧ t = { s with regs := t.regs, cyc := t.cyc, rdata := 0, rstat := 0 }))

/-! ### Timers and DMA (R358 to R380) -/

/-- Overflow, match, capture, the read window of CAP, writes of CNT and PER, and what an event brings in the next core cycle
(R358 to R365). The slow clock (R367 to R370, R480): the ratio measured, the make-up of a running timer on the core clock when
the timers resume, none when no slow edge comes.
The model's reading or choice in it: log entries 70, 90. -/
def Obligations.TimersCountCaptureAndSleep : Prop :=
  (∀ (w : Writer) (cl : Fin 16) (n : Fin 8) (v : Word) (s : State) (x : Tmr), x = tmrOf cl n s →
    (timersRun s = true → ticks cl n s = true →
      (tPer cl n s ≤ tCnt cl n s → ∃ t, exec (.timerOverflow cl n) s = .next t ∧ Overflows cl n s t ∧
        TimerOnly cl n (tmrRegs cl n) s t ∧
        (rd (R.TMR_CMP cl n) s = 0 → exec (.timerMatch cl n) s = .next t) ∧
        (rd (R.TMR_CMP cl n) s ≠ 0 → exec (.timerMatch cl n) s = .next s)) ∧
      (tCnt cl n s < tPer cl n s → exec (.timerOverflow cl n) s = .next s ∧
        (tCnt cl n s + 1 = tCmp cl n s → ∃ t, exec (.timerMatch cl n) s = .next t ∧
          TimerOnly cl n [R.TMR_CNT cl n, R.TMR_STAT cl n] s t ∧ rd (R.TMR_CNT cl n) t = rd (R.TMR_CMP cl n) s ∧
          (∀ i < 32, rb (R.TMR_STAT cl n) i t = (rb (R.TMR_STAT cl n) i s || decide (i = 1))) ∧
          tmrOf cl n t = { x with now := { x.now with spent := true, mat := true } }) ∧
        (tCnt cl n s + 1 ≠ tCmp cl n s → exec (.timerMatch cl n) s = .next s))) ∧
    ((timersRun s = false ∨ ticks cl n s = false) →
      exec (.timerOverflow cl n) s = .next s ∧ exec (.timerMatch cl n) s = .next s) ∧
    (∀ c : Word, timersRun s = true → x.now.cap = true →
      c = (if ticks cl n s then (if tCnt cl n s < tPer cl n s then rd (R.TMR_CNT cl n) s + 1 else 0) else rd (R.TMR_CNT cl n) s) →
      ∃ t, exec (.timerCapture cl n) s = .next t ∧ TimerOnly cl n (R.TMR_CAP cl n :: tmrRegs cl n) s t ∧
        rd (R.TMR_CNT cl n) t = c ∧ (tmrOf cl n t).now.cap = false ∧ (tmrOf cl n t).window = x.window ∧
        (x.window = false → rd (R.TMR_CAP cl n) t = c ∧ (tmrOf cl n t).shadow = x.shadow) ∧
        (x.window = true → rd (R.TMR_CAP cl n) t = rd (R.TMR_CAP cl n) s) ∧
        (x.window = true → x.shadow = none → (tmrOf cl n t).shadow = some c) ∧
        (x.window = true → x.shadow ≠ none → rb (R.TMR_STAT cl n) 3 t = true ∧ (tmrOf cl n t).shadow = x.shadow) ∧
        (x.window = false ∨ x.shadow = none → rb (R.TMR_STAT cl n) 2 t = true ∧ (tmrOf cl n t).now.capd = true)) ∧
    ((timersRun s = false ∨ x.now.cap = false) → exec (.timerCapture cl n) s = .next s) ∧
    (∀ (c : Nat) (y : TmrNow) (t : State), t = timerAfter cl n c y s →
      ((clockStopped s = false ∧ ((y.ovf = true ∧ rb (R.TMR_CTL cl n) 21 s = true) ∨ (y.mat = true ∧ rb (R.TMR_CTL cl n) 22 s = true) ∨
        (y.capd = true ∧ rb (R.TMR_CTL cl n) 23 s = true))) → pendOf cl (8 + n) t = true) ∧
      (∀ k : Fin 4, rf (R.DMA_CTL cl k) 3 5 s = n + 1 →
        ((y.ovf = true ∧ rb (R.TMR_CTL cl n) 26 s = true) ∨ (y.mat = true ∧ rb (R.TMR_CTL cl n) 27 s = true)) →
        rb (R.DMA_STAT cl k) 2 t = true ∧ (rb (R.DMA_STAT cl k) 2 s = true → rb (R.DMA_STAT cl k) 9 t = true)) ∧
      (∀ j : Fin 8, tMstr cl j s = n →
        (((tClk cl j s = 3 ∧ y.ovf = true) ∨ (tClk cl j s = 4 ∧ y.mat = true)) → y.made = false → (tmrOf cl j t).now.due = true) ∧
        (((tSlv cl j s = 1 ∧ y.ovf = true) ∨ (tSlv cl j s = 3 ∧ y.mat = true)) → (tmrOf cl j t).now.zero = true) ∧
        (((tSlv cl j s = 2 ∧ y.ovf = true) ∨ (tSlv cl j s = 3 ∧ y.mat = true)) → (tmrOf cl j t).now.start = true)) ∧
      (∀ j : Fin 8, tCsrc cl j s = 17 + n → y.ovf = true → (tmrOf cl j t).now.cap = true)) ∧
    (∀ gate : Bool, x.now.above = true → x.now.spent = false → x.now.zero = false → x.now.per = none → x.now.start = false →
      x.now.cap = false → rd (R.TMR_CNT cl n) (timerEnd cl n gate s) = 0 ∧ rb (R.TMR_STAT cl n) 0 (timerEnd cl n gate s) = true ∧
      rb (R.TMR_CTL cl n) 0 (timerEnd cl n gate s) = (rb (R.TMR_CTL cl n) 0 s && !rb (R.TMR_CTL cl n) 1 s)) ∧
    (∀ (m : Fin 16) (c : Fin 8), hears (.ctx cl m c) (R.TMR_CAP cl n) s = true →
      (∃ t, exec (.capLowRead (.ctx cl m c) cl n) s = .next t ∧ t.rdata = BitVec.ofNat 32 (fld (rd (R.TMR_CAP cl n) s) 0 16) ∧
        tmrOf cl n t = { x with window := true } ∧
        Sparse.get [] t.latches (ctxWriter cl m c) = [(ioHigh (R.TMR_CAP cl n), fld (rd (R.TMR_CAP cl n) s) 16 16)] ∧
        t = { s with tmr := t.tmr, latches := t.latches, rdata := t.rdata, rstat := 0 }) ∧
      (∀ h < 65536, Sparse.get [] s.latches (ctxWriter cl m c) = [(ioHigh (R.TMR_CAP cl n), h)] →
        ∃ t, exec (.capHighRead (.ctx cl m c) cl n) s = .next t ∧ t.rdata = BitVec.ofNat 32 h ∧
        tmrOf cl n t = { x with window := false, shadow := none } ∧ Sparse.get [] t.latches (ctxWriter cl m c) = [] ∧
        rd (R.TMR_CAP cl n) t = x.shadow.getD (rd (R.TMR_CAP cl n) s) ∧ (∀ a, a ≠ R.TMR_CAP cl n → rd a t = rd a s) ∧
        t = { s with regs := t.regs, cyc := t.cyc, tmr := t.tmr, latches := t.latches, rdata := t.rdata, rstat := 0 })) ∧
    (hears w (R.TMR_CAP cl n) s = true → (∀ m c, w ≠ .ctx cl m c) → ∀ i, i = .capLowRead w cl n ∨ i = .capHighRead w cl n →
      exec i s = .next { s with rdata := rd (R.TMR_CAP cl n) s, rstat := 0 }) ∧
    (reaches w (R.TMR_CAP cl n) s = true →
      (∃ t, exec (.timerCountWrite w cl n v) s = .next t ∧ rd (R.TMR_CNT cl n) t = v ∧ (∀ a, a ≠ R.TMR_CNT cl n → rd a t = rd a s) ∧
        tmrOf cl n t = { x with now := { x.now with spent := x.now.spent || timersRun s } } ∧
        (∀ j, j ≠ cl.val * 8 + n.val → Sparse.get {} t.tmr j = Sparse.get {} s.tmr j) ∧
        t = { s with regs := t.regs, tmr := t.tmr, rdata := 0, rstat := 0 }) ∧
      ∃ t, exec (.timerPeriodWrite w cl n v) s = .next t ∧
        t = { s with regs := t.regs, tmr := t.tmr, rdata := 0, rstat := 0 } ∧ (∀ a, a ≠ R.TMR_PER cl n → rd a t = rd a s) ∧
        (∀ j, j ≠ cl.val * 8 + n.val → Sparse.get {} t.tmr j = Sparse.get {} s.tmr j) ∧
        (rb (R.TMR_CTL cl n) 0 s = false → rd (R.TMR_PER cl n) t = v ∧ tmrOf cl n t = { x with pbuf := none }) ∧
        (rb (R.TMR_CTL cl n) 0 s = true → rb (R.TMR_CTL cl n) 2 s = false → tmrOf cl n t = { x with pbuf := some v.toNat } ∧
          rd (R.TMR_PER cl n) t = rd (R.TMR_PER cl n) s) ∧
        (rb (R.TMR_CTL cl n) 0 s = true → rb (R.TMR_CTL cl n) 2 s = true → timersRun s = true → rd (R.TMR_PER cl n) t = rd (R.TMR_PER cl n) s ∧
          tmrOf cl n t = { x with now := { x.now with per := some v.toNat } } ∧
          ∀ gate : Bool, rd (R.TMR_PER cl n) (timerEnd cl n gate t) = v ∧ (tmrOf cl n (timerEnd cl n gate t)).pbuf = none))) ∧
  (∀ (s : State),
    (∀ (cl : Fin 16) (q : BitVec 48), s.mode.fromProof = true → s.mode ≠ .sleep →
      ∃ t, exec (.slowRatioMeasurement cl q) s = .next t ∧ rb (R.TMR_SLCTL cl) 1 t = true ∧
        rd (R.TMR_SLRATIO cl) t = (if rb (R.TMR_SLCTL cl) 0 s then rd (R.TMR_SLRATIO cl) s else BitVec.ofNat 32 (2 * q.toNat)) ∧
        Sparse.get 0 t.slowRatio cl = (if rb (R.TMR_SLCTL cl) 0 s then Sparse.get 0 s.slowRatio cl else 2 * q.toNat % 2 ^ 32) ∧
        (∀ i < 32, i ≠ 1 → rb (R.TMR_SLCTL cl) i t = rb (R.TMR_SLCTL cl) i s) ∧
        (∀ a, a ∉ [R.TMR_SLCTL cl, R.TMR_SLRATIO cl] → rd a t = rd a s) ∧
        t = { s with regs := t.regs, cyc := t.cyc, slowAt := some (coreCycle s), slowRatio := t.slowRatio }) ∧
    (s.tmrStopped = true → (s.waking = true ∨ s.mode ≠ .sleep) →
      (∃ t, exec .slowClockTimeout s = .next t ∧ t = { s with regs := t.regs, cyc := t.cyc, tmrStopped := false } ∧
        (∀ cl < 16, rd (R.TMR_SLN cl) t = 0 ∧ rb (R.TMR_SLCTL cl) 2 t = false) ∧
        ∀ cl < 16, ∀ n < 8, rd (R.TMR_CNT cl n) t = rd (R.TMR_CNT cl n) s) ∧
      ∀ (q : BitVec 48) (m : Nat), m = min q.toNat (2 ^ 32 - 1) → ∃ t, exec (.timerResume q) s = .next t ∧ t.tmrStopped = false ∧
        t = { s with regs := t.regs, cyc := t.cyc, tmr := t.tmr, tmrStopped := false, slowAt := some (coreCycle s) } ∧
        ∀ cl < 16, rd (R.TMR_SLN cl) t = BitVec.ofNat 32 m ∧ rb (R.TMR_SLCTL cl) 2 t = decide (2 ^ 32 - 1 < q.toNat) ∧
          ∀ n < 8, ∀ (x : Tmr) (e k c p : Nat), x = tmrOf cl n s → x.slept = true →
            tClk cl n s = 0 → rb (R.TMR_CTL cl n) 1 s = false → x.pbuf = none →
            e = m * Sparse.get 0 s.sleepRatio cl / 65536 - rf (R.TMR_SLPH cl) 0 16 s → p = tPer cl n s + 1 →
            k = (x.rho + e) / (tPre cl n s + 1) → c = tCnt cl n s + k →
            (tmrOf cl n t).rho = (x.rho + e) % (tPre cl n s + 1) ∧ rb (R.TMR_STAT cl n) 4 t = true ∧
            (c < p → tCnt cl n t = c ∧ rf (R.TMR_MISS cl n) 0 16 t = rf (R.TMR_MISS cl n) 0 16 s) ∧
            (p ≤ c → tCnt cl n t = (c - p) % p ∧ rb (R.TMR_STAT cl n) 0 t = true ∧ (tmrOf cl n t).now.ovf = true ∧
              (tmrOf cl n t).now.made = true ∧
              rf (R.TMR_MISS cl n) 0 16 t = min 0xFFFF (rf (R.TMR_MISS cl n) 0 16 s + (c - p) / p))))

/-- DMA: START and its refusals, STOP, the units, and how a channel ends (R372 to R379).
The model's reading or choice in it: log entries 62, 71, 73. -/
def Obligations.DmaMovesBytes : Prop :=
  ∀ (w : Writer) (cl : Fin 16) (k : Fin 4) (s : State),
    (reaches w (R.DMA_CTL cl k) s = true → ∀ v : Word, bit v 0 = true → bit v 1 = false → reservedHit (R.DMA_CTL cl k) v = false →
      ∃ t, exec (.dmaStart w cl k v) s = .next t ∧
        (rb (R.DMA_STAT cl k) 0 s = true → rb (R.DMA_STAT cl k) 8 t = true ∧ (∀ a, a ≠ R.DMA_STAT cl k → rd a t = rd a s) ∧
          t = { s with regs := t.regs, cyc := t.cyc, rdata := 0, rstat := 0 }) ∧
        (∀ u, rb (R.DMA_STAT cl k) 0 s = false → u = codedWrite (R.DMA_CTL cl k) v s →
          (dmaBad cl k u = true → rb (R.DMA_STAT cl k) 5 t = true ∧ rf (R.DMA_STAT cl k) 6 2 t = 3 ∧ rb (R.DMA_STAT cl k) 0 t = false ∧
            rd (R.DMA_REMAIN cl k) t = rd (R.DMA_REMAIN cl k) s ∧ t.rstat = 1) ∧
          (dmaBad cl k u = false → t.rstat = 0 ∧ rd (R.DMA_REMAIN cl k) t = rd (R.DMA_COUNT cl k) s ∧
            (rd (R.DMA_COUNT cl k) s ≠ 0 → rb (R.DMA_STAT cl k) 0 t = true) ∧
            (rd (R.DMA_COUNT cl k) s = 0 → rb (R.DMA_STAT cl k) 3 t = true ∧ rb (R.DMA_STAT cl k) 0 t = false)) ∧
          t.mem = s.mem ∧ (∀ a, a ∉ [R.DMA_CTL cl k, R.DMA_STAT cl k, R.DMA_REMAIN cl k, R.TIL_ASUMH, R.EVC_PENDSETL cl,
            R.EVC_PENDSETH cl, R.EVC_MERGE cl] → rd a t = rd a s))) ∧
    (∀ v : Word, bit v 0 = false → exec (.dmaStart w cl k v) s = .next s) ∧
    (reaches w (R.DMA_CTL cl k) s = true → ∃ t, exec (.dmaStop w cl k) s = .next t ∧ t.rstat = 0 ∧
      (rb (R.DMA_STAT cl k) 0 s = false → t = { s with rdata := 0, rstat := 0 }) ∧
      (rb (R.DMA_STAT cl k) 0 s = true → rb (R.DMA_STAT cl k) 0 t = false ∧ rb (R.DMA_STAT cl k) 4 t = true ∧
        rd (R.DMA_REMAIN cl k) t = rd (R.DMA_REMAIN cl k) s ∧ t.mem = s.mem ∧ (dmaOf cl t).unit ≠ some k.val ∧
        (rb (R.DMA_CTL cl k) 2 s = true → s.mode ≠ .sleep → pendOf cl (16 + k) t = true))) ∧
    (s.mode.fromProof = true → s.mode ≠ .sleep →
      (∀ (left n r : Nat), (dmaOf cl s).unit = none → (∀ j < k.val, dmaReady cl j s = false) → dmaReady cl k s = true →
        left = (rd (R.DMA_REMAIN cl k) s).toNat → n = (if rf (R.DMA_CTL cl k) 3 5 s = 0 then left else min left (burstBytes cl k s)) →
        r = (if rf (R.DMA_CTL cl k) 8 7 s = 0 ∨ 64 < rf (R.DMA_CTL cl k) 8 7 s then 64 else rf (R.DMA_CTL cl k) 8 7 s) →
        ∃ t, exec (.dmaUnitStart cl) s = .next t ∧
          dmaOf cl t = { unit := some k.val, left := n, wait := (128 + r - 1) / r, olds := (dmaOf cl s).olds } ∧
          (∀ i < 32, rb (R.DMA_STAT cl k) i t = (if i = 1 then true else if i = 2 then false else rb (R.DMA_STAT cl k) i s)) ∧
          (∀ a, a ≠ R.DMA_STAT cl k → rd a t = rd a s) ∧ t = { s with regs := t.regs, cyc := t.cyc, dma := t.dma }) ∧
      ((dmaOf cl s).unit = none → (∀ j < 4, dmaReady cl j s = false) → exec (.dmaUnitStart cl) s = .next s) ∧
      (∀ (left n from_ : Nat) (x y : Side) (e : DmaEng), e = dmaOf cl s → e.unit = some k.val → e.met = .none_ → n = e.left → 0 < n →
        left = (rd (R.DMA_REMAIN cl k) s).toNat → n ≤ left → left ≤ (rd (R.DMA_COUNT cl k) s).toNat →
        from_ = (rd (R.DMA_COUNT cl k) s).toNat - left → x = srcSide cl k s → y = dstSide cl k s →
        (∀ i < n, plainByte (x.addr (from_ + i)) s = true ∧ plainByte (y.addr (from_ + i)) s = true ∧
          carried (.dma cl k) (x.addr (from_ + i)) s = true ∧ carried (.dma cl k) (y.addr (from_ + i)) s = true ∧
          Sparse.get none e.olds (k * 2 ^ 36 + x.addr (from_ + i)) = none) →
        (∀ i < n, ∀ j < n, x.addr (from_ + i) ≠ y.addr (from_ + j) ∧ (i ≠ j → y.addr (from_ + i) ≠ y.addr (from_ + j))) →
        ∃ t, exec (if n < left then .dmaBurstEnd cl else .dmaComplete cl k) s = .next t ∧
          (∀ i < n, mb (y.addr (from_ + i)) t = mb (x.addr (from_ + i)) s) ∧ (∀ a, (∀ i < n, y.addr (from_ + i) ≠ a) → mb a t = mb a s) ∧
          (rd (R.DMA_REMAIN cl k) t).toNat = left - n ∧ rb (R.DMA_STAT cl k) 1 t = false ∧ dmaOf cl t = { olds := (dmaOf cl t).olds } ∧
          (n < left → rb (R.DMA_STAT cl k) 0 t = rb (R.DMA_STAT cl k) 0 s ∧
            (∀ a, a ∉ [R.DMA_STAT cl k, R.DMA_REMAIN cl k] → rd a t = rd a s)) ∧
          (n = left → rb (R.DMA_STAT cl k) 0 t = false ∧ rb (R.DMA_STAT cl k) 3 t = true ∧
            (rb (R.DMA_CTL cl k) 2 s = true → pendOf cl (16 + k) t = true) ∧
            (∀ a, a ∉ [R.DMA_STAT cl k, R.DMA_REMAIN cl k, R.EVC_PENDSETL cl, R.EVC_PENDSETH cl, R.EVC_MERGE cl] → rd a t = rd a s)) ∧
          t = { s with regs := t.regs, cyc := t.cyc, mem := t.mem, ue := t.ue, ce := t.ce, dma := t.dma, evBefore := t.evBefore
                       fresh := t.fresh }) ∧
      (∀ (left : Nat) (x y : Side) (cl' : Nat), (dmaOf cl s).unit = some k.val → (dmaOf cl s).met = .none_ → 0 < (dmaOf cl s).left →
        left = (rd (R.DMA_COUNT cl k) s).toNat - (rd (R.DMA_REMAIN cl k) s).toNat → x = srcSide cl k s → y = dstSide cl k s →
        carried (.dma cl k) (x.addr left) s = true → carried (.dma cl k) (y.addr left) s = true →
        placeOf (x.addr left) = .pantry cl' → ueIn (x.addr left) 1 s = true → ∃ t, exec (.dmaError cl k) s = .next t ∧
          rb (R.DMA_STAT cl k) 0 t = false ∧ rb (R.DMA_STAT cl k) 5 t = true ∧ rf (R.DMA_STAT cl k) 6 2 t = 2 ∧ t.mem = s.mem ∧
          rd (R.DMA_REMAIN cl k) t = rd (R.DMA_REMAIN cl k) s) ∧
      (∀ e : Nat, (dmaOf cl s).unit = some k.val → (dmaOf cl s).met = .err e → e < 4 → ∃ t, exec (.dmaError cl k) s = .next t ∧
        dmaOf cl t = { olds := (dmaOf cl t).olds } ∧
        rb (R.DMA_STAT cl k) 0 t = false ∧ rb (R.DMA_STAT cl k) 5 t = true ∧ rf (R.DMA_STAT cl k) 6 2 t = e ∧ t.mem = s.mem ∧
        rd (R.DMA_REMAIN cl k) t = rd (R.DMA_REMAIN cl k) s ∧ pendOf cl (16 + k) t = true ∧ Alarmed 61 t ∧
        (∀ a, a ∉ [R.DMA_STAT cl k, R.TIL_ASUMH, R.EVC_PENDSETL cl, R.EVC_PENDSETH cl, R.EVC_MERGE cl] → rd a t = rd a s)))

/-! ### Memory tests, fabric, die link (R283, R348 to R351, R386, R399 to R420) -/

/-- Scrub and march accesses of local RAM, pantry and tile store: what is counted, where a spare stands in, and that memory
keeps its bytes. Fabric faults (R399, R456): a lane fails at its fourth uncorrectable flit within 2^20 core cycles; a second
crossbar mismatch within that time starts the self-test; a copy that fails it is fenced; with none left, or where both pass and a
mismatch follows within that time, SAFE is forced.
The model's reading or choice in it: log entries 79, 82. -/
def Obligations.MemoryTestsAndFabricFaults : Prop :=
  (∀ (cl m : Fin 16) (found : Found) (fail : Bool) (s : State) (x : Tester), s.mode.fromProof = true → s.mode ≠ .sleep →
    (∀ base key : Nat, base = 0x200000000 + cl * 0x100000 + m * 0x10000 → key = 32 + 16 * cl + m → x = testerOf key s → x.step < 384 →
      x.region < 512 → x.scrub < 16384 →
      let ecc := [R.PAN_LECC cl, R.PAN_LUEADDR cl, R.PAN_STAT cl, R.TIL_ASUMH]
      (rb (R.PAN_CFG cl) 1 s = false → ∃ t, exec (.localScrubAccess cl m found fail) s = .next t ∧
        TestRead key { x with scrub := (x.scrub + 1) % 16384 } [base + 4 * x.scrub] found (R.PAN_LECC cl) ecc s t ∧
        (found.bad = [] → badIn [base + 4 * x.scrub] s = 0 → goodIn [base + 4 * x.scrub] found s = 0 → ∀ a, rd a t = rd a s) ∧
        (badIn [base + 4 * x.scrub] t ≠ 0 → rb (R.PAN_STAT cl) 4 t = true ∧ Alarmed 58 t ∧
          rd (R.PAN_LUEADDR cl) t = BitVec.ofNat 32 (m + 16 * (2 * x.scrub)))) ∧
      (rb (R.PAN_CFG cl) 1 s = true → ∃ t, exec (.localScrubAccess cl m found fail) s = .next t ∧
        TestRead key (if x.step = 383 then { x with step := 0, region := (x.region + 1) % 512 } else { x with step := x.step + 1 })
          (if x.step < 32 then [base + 128 * x.region + 4 * x.step] else []) found (R.PAN_LECC cl)
          (ecc ++ [R.PAN_LTPOS cl, R.PAN_LSPARE cl, R.TIL_REDLOST]) s t ∧
        rd (R.PAN_LTPOS cl) t = BitVec.ofNat 32 (m + 16 * x.region + (if x.step = 383 then 0 else 2 ^ 13)) ∧
        (x.step = 383 → fail = true → rf (R.PAN_LSPARE cl) (2 * m) 2 s < 2 →
          rf (R.PAN_LSPARE cl) (2 * m) 2 t = rf (R.PAN_LSPARE cl) (2 * m) 2 s + 1 ∧ rb (R.PAN_STAT cl) 5 t = true) ∧
        (x.step = 383 → fail = true → 2 ≤ rf (R.PAN_LSPARE cl) (2 * m) 2 s → rb (R.PAN_STAT cl) 6 t = true ∧
          rb R.TIL_REDLOST 9 t = true ∧ rd (R.PAN_LSPARE cl) t = rd (R.PAN_LSPARE cl) s))) ∧
    (rb (R.PAN_CFG cl) 0 s = true → x = testerOf cl s → x.step < 162 → x.region < 8192 → ∃ t, exec (.pantryTestAccess cl found fail) s = .next t ∧
      TestRead cl (if x.step = 161 then { x with step := 0, region := (x.region + 1) % 8192 } else { x with step := x.step + 1 })
        (if x.step = 0 then (List.range 16).map (fun i => pantryBase cl + 128 * x.region + 8 * i) else []) found (R.PAN_ECCCNT cl)
        [R.PAN_TPOS cl, R.PAN_ECCCNT cl, R.PAN_UEADDR cl, R.PAN_STAT cl, R.PAN_SPARE cl, R.TIL_ASUMH, R.TIL_REDLOST] s t ∧
      (x.step = 0 → found.corrected ≠ [] → rb (R.PAN_STAT cl) 0 t = true) ∧
      (x.step = 0 → found.bad ≠ [] → rb (R.PAN_STAT cl) 1 t = true ∧ Alarmed 55 t) ∧
      rd (R.PAN_TPOS cl) t = BitVec.ofNat 32 (x.region / 2048 + 4 * (x.region % 2048) + (if x.step = 161 then 0 else 2 ^ 13)) ∧
      (x.step = 161 → fail = true →
        (rf (R.PAN_SPARE cl) (4 * (x.region / 2048)) 3 s < 4 → rb (R.PAN_STAT cl) 2 t = true ∧
          rf (R.PAN_SPARE cl) (4 * (x.region / 2048)) 3 t = rf (R.PAN_SPARE cl) (4 * (x.region / 2048)) 3 s + 1) ∧
        (4 ≤ rf (R.PAN_SPARE cl) (4 * (x.region / 2048)) 3 s → rb (R.PAN_STAT cl) 3 t = true ∧ rb R.TIL_REDLOST 9 t = true))) ∧
    (∀ (j : Fin 4), rb R.FAB_TSCFG 0 s = true → x = testerOf (16 + j) s → x.step < 162 → x.region < 65536 → x.scrub < 131072 →
      ∃ t, exec (.tileStoreScrub j found fail) s = .next t ∧
      (rb R.FAB_TSCFG 1 s = false →
        TestRead (16 + j) { x with scrub := (x.scrub + 1) % 131072 }
          ((List.range 8).map (fun i => 0x8000000 + 64 * (4 * x.scrub + j) + 8 * i)) found R.FAB_TSECC [R.FAB_TSECC, R.TIL_ASUMH] s t ∧
        (found.bad ≠ [] → Alarmed 63 t)) ∧
      (rb R.FAB_TSCFG 1 s = true →
        TestRead (16 + j) (if x.step = 161 then { x with step := 0, region := (x.region + 1) % 65536 } else { x with step := x.step + 1 })
          (if x.step = 0 then (List.range 16).map (fun i => 0x8000000 + 64 * (4 * (2 * x.region + i / 8) + j) + 8 * (i % 8)) else [])
          found R.FAB_TSECC [R.FAB_TSPOS, R.FAB_TSECC, R.TIL_ASUMH] s t ∧
        rd R.FAB_TSPOS t = BitVec.ofNat 32 (x.region + (if x.step = 161 then 0 else 2 ^ 16)) ∧
        (x.step = 161 → fail = true → Alarmed 63 t)))) ∧
  (∀ (node : Fin 20) (port : Fin 5) (lane : Fin 4) (s : State) (now n : Nat), s.mode ≠ .cold → now = coreCycle s →
    let tested : Prop := Sparse.get 0 s.fab.passed node ≠ 0 ∧ now < Sparse.get 0 s.fab.passed node - 1 + 2 ^ 20
    let noneLeft : State → Prop := fun t => (s.mode.fromProof = true → s.mode ≠ .sleep → t.mode = .safe) ∧
      Sparse.get 2 t.fab.copies node = 0 ∧ rb R.FAB_STAT 3 t = true ∧ rb R.TIL_FORCE 5 t = true ∧ rb R.TIL_REDLOST 7 t = true ∧
      t.mem = s.mem ∧ t.time = s.time
    ((node.val, port.val, lane.val) ∉ s.fab.lanes →
      n = (s.fab.flitErrs.filter (fun e => decide (e.1 = (node.val, port.val, lane.val) ∧ now < e.2 + 2 ^ 20))).length →
      ∃ t, exec (.hopReplay node port lane) s = .next t ∧
        (n < 3 → t = { s with fab := { s.fab with flitErrs := t.fab.flitErrs } } ∧ ((node.val, port.val, lane.val), now) ∈ t.fab.flitErrs) ∧
        (3 ≤ n → t.fab.lanes = (node.val, port.val, lane.val) :: s.fab.lanes ∧ rb R.FAB_STAT 0 t = true ∧ rb R.TIL_REDLOST 6 t = true ∧
          rd R.FAB_FAULT t = BitVec.ofNat 32 (node + 32 * port + 256 * lane) ∧ Alarmed 62 t ∧
          (∀ a, a ∉ [R.FAB_FAULT, R.FAB_STAT, R.TIL_ASUMH, R.TIL_REDLOST] → rd a t = rd a s) ∧
          t = { s with regs := t.regs, cyc := t.cyc, egress := t.egress, fab := t.fab })) ∧
    ((node.val, port.val, lane.val) ∈ s.fab.lanes → exec (.hopReplay node port lane) s = .next s) ∧
    (Sparse.get 2 s.fab.copies node = 2 → node.val ∉ s.fab.testing → tested →
      ∃ t, exec (.crossbarMismatch node) s = .next t ∧ rb R.FAB_STAT 1 t = true ∧ noneLeft t) ∧
    (Sparse.get 2 s.fab.copies node = 2 → node.val ∉ s.fab.testing → ¬ tested → ∃ t, exec (.crossbarMismatch node) s = .next t ∧
      rb R.FAB_STAT 1 t = true ∧ rf R.FAB_FAULT 0 5 t = node ∧ Alarmed 62 t ∧
      (∀ l, Sparse.get 0 s.fab.lastMis node = l + 1 → now < l + 2 ^ 20 → node.val ∈ t.fab.testing ∧ Sparse.get 0 t.fab.lastMis node = 0) ∧
      ((Sparse.get 0 s.fab.lastMis node = 0 ∨ ∃ l, Sparse.get 0 s.fab.lastMis node = l + 1 ∧ l + 2 ^ 20 ≤ now) →
        t.fab.testing = s.fab.testing ∧ Sparse.get 0 t.fab.lastMis node = now + 1) ∧
      (∀ a, a ∉ [R.FAB_FAULT, R.FAB_STAT, R.TIL_ASUMH] → rd a t = rd a s) ∧
      t = { s with regs := t.regs, cyc := t.cyc, egress := t.egress, fab := t.fab, fresh := t.fresh }) ∧
    (node.val ∈ s.fab.testing →
      (∃ t, exec (.crossbarSelfTestEnd node true true) s = .next t ∧ node.val ∉ t.fab.testing ∧ Sparse.get 2 t.fab.copies node = 2 ∧
        Sparse.get 0 t.fab.passed node = now + 1 ∧ t = { s with fab := t.fab }) ∧
      (∀ p : Bool, ∃ t, exec (.crossbarSelfTestEnd node p !p) s = .next t ∧ node.val ∉ t.fab.testing ∧ Sparse.get 2 t.fab.copies node = 1 ∧
        rb R.FAB_STAT 2 t = true ∧ rb R.TIL_REDLOST 7 t = true ∧ Alarmed 62 t ∧ t.mode = s.mode ∧
        (∀ a, a ∉ [R.FAB_FAULT, R.FAB_STAT, R.TIL_ASUMH, R.TIL_REDLOST] → rd a t = rd a s) ∧
        t = { s with regs := t.regs, cyc := t.cyc, egress := t.egress, fab := t.fab, fresh := t.fresh }) ∧
      ∃ t, exec (.crossbarSelfTestEnd node false false) s = .next t ∧ noneLeft t))

/-- The die link comes up, degrades and trains again (R402, R403, R405, R406), and its ASP engines (R420). Flits and egress
(R404, R405, R412, R415 to R418): a flit with a bad CRC is counted and answered with NAK; one in sequence delivers its
bytes; packets leave in credit, ALARM first; DATA flits are kept until acknowledged; posts and summaries.
The model's reading or choice in it: log entries 58, 63, 80, 81. -/
def Obligations.DieLinkTrainsAndCarries : Prop :=
  (∀ (s : State),
    (∀ (rate : Fin 4) (up0 up1 x8_0 x8_1 u1 : Bool), s.dlk.training = true → u1 = (up1 && rb R.DLK_CFG 2 s) → (up0 || u1) = true →
      ∃ t, exec (.linkTrainingComplete rate up0 up1 x8_0 x8_1) s = .next t ∧ t.dlk.trained = true ∧ t.dlk.training = false ∧
        t.dlk.rate ≤ rate ∧ t.dlk.rate ≤ maxRate s ∧ (t.dlk.rate = rate ∨ t.dlk.rate = maxRate s) ∧ t.dlk.up0 = up0 ∧ t.dlk.up1 = u1 ∧
        t.dlk.replay = s.dlk.replay ∧ (s.dlk.replay ≠ [] → t.dlk.resend = some 0) ∧
        (s.dlk.granted = false → ∀ c, Sparse.get 0 t.dlk.owed c = [64, 256, 256].getD c 0) ∧
        (s.dlk.granted = true → t.dlk.owed = s.dlk.owed) ∧
        (up0 = true → x8_0 = false → (rb R.DLK_CFG 2 s = false ∨ (u1 = true ∧ x8_1 = false)) → ∀ a, rd a t = rd a s) ∧
        ((up0 = false ∨ x8_0 = true) → rb R.DLK_ALM 2 t = true ∧ Alarmed 63 t) ∧
        (∀ a, a ∉ [R.DLK_ALM, R.TIL_ASUMH] → rd a t = rd a s) ∧ t = { s with regs := t.regs, cyc := t.cyc, egress := t.egress, dlk := t.dlk }) ∧
    (s.dlk.training = true → ∃ t, exec .linkTrainingTimeout s = .next t ∧ rb R.DLK_ALM 1 t = true ∧ Alarmed 63 t ∧
      (∀ a, a ∉ [R.DLK_ALM, R.TIL_ASUMH] → rd a t = rd a s) ∧ t = { s with regs := t.regs, cyc := t.cyc, egress := t.egress }) ∧
    (∀ w, reaches w R.DLK_ALM s = true → ∃ t, exec (.dieLinkRetrain w) s = .next t ∧ t.dlk = { s.dlk with
        trained := false, training := true, up0 := false, up1 := false, nakRun := 0, early := [] } ∧
      rf R.DLK_REPLAY 16 16 t = min 0xFFFF (rf R.DLK_REPLAY 16 16 s + 1) ∧ (∀ a, a ≠ R.DLK_REPLAY → rd a t = rd a s) ∧
      t = { s with regs := t.regs, cyc := t.cyc, dlk := t.dlk, rdata := 0, rstat := 0 }) ∧
    (∀ (toX8 : Bool), s.dlk.trained = true → s.dlk.up0 = true → ∃ t, exec (.moduleDegrade 0 toX8) s = .next t ∧
      rb R.DLK_ALM 2 t = true ∧ t.dlk.up0 = toX8 ∧ t.dlk.x80 = toX8 ∧ t.dlk.up1 = s.dlk.up1 ∧ t.dlk.trained = (toX8 || s.dlk.up1) ∧
      t.dlk.training = !(toX8 || s.dlk.up1) ∧ t.dlk.replay = s.dlk.replay ∧ (s.dlk.replay ≠ [] → t.dlk.resend = some 0) ∧
      t.dlk.early = [] ∧
      (∀ a, a ∉ [R.DLK_ALM, R.TIL_ASUMH] → rd a t = rd a s) ∧ t = { s with regs := t.regs, cyc := t.cyc, egress := t.egress, dlk := t.dlk }) ∧
    (∀ (toX8 : Bool), s.dlk.trained = true → s.dlk.up1 = true → ∃ t, exec (.moduleDegrade 1 toX8) s = .next t ∧
      rb R.DLK_ALM 2 t = true ∧ t.dlk.up1 = toX8 ∧ t.dlk.x81 = toX8 ∧ t.dlk.up0 = s.dlk.up0 ∧ t.dlk.trained = (s.dlk.up0 || toX8) ∧
      t.dlk.replay = s.dlk.replay ∧ t = { s with regs := t.regs, cyc := t.cyc, egress := t.egress, dlk := t.dlk }) ∧
    (s.dlk.engines = 2 → s.dlk.testing = false → s.mode ≠ .cold → ∃ t, exec .aspMismatch s = .next t ∧ rb R.DLK_ALM 3 t = true ∧
      (s.dlk.mis = 0 → t.dlk = { s.dlk with mis := 1 }) ∧ (s.dlk.mis = 1 → t.dlk = { s.dlk with testing := true }) ∧
      (2 ≤ s.dlk.mis → t.dlk = { s.dlk with noasp := true, engines := 0 } ∧ rb R.DLK_ALM 5 t = true ∧ rb R.TIL_REDLOST 11 t = true) ∧
      (∀ a, a ∉ [R.DLK_ALM, R.TIL_ASUMH, R.TIL_REDLOST] → rd a t = rd a s) ∧
      t = { s with regs := t.regs, cyc := t.cyc, egress := t.egress, dlk := t.dlk }) ∧
    (s.dlk.testing = true →
      exec (.aspSelfTestEnd true true) s = .next { s with dlk := { s.dlk with testing := false, mis := 2 } } ∧
      (∀ p : Bool, ∃ t, exec (.aspSelfTestEnd p !p) s = .next t ∧ t.dlk = { s.dlk with testing := false, engines := 1, mis := 0 } ∧
        rb R.DLK_ALM 4 t = true ∧ rb R.TIL_REDLOST 11 t = true ∧ (∀ a, a ∉ [R.DLK_ALM, R.TIL_ASUMH, R.TIL_REDLOST] → rd a t = rd a s) ∧
        t = { s with regs := t.regs, cyc := t.cyc, egress := t.egress, dlk := t.dlk }) ∧
      ∃ t, exec (.aspSelfTestEnd false false) s = .next t ∧ t.dlk = { s.dlk with testing := false, engines := 0, noasp := true } ∧
        rb R.DLK_ALM 5 t = true ∧ t.mode = s.mode ∧ t = { s with regs := t.regs, cyc := t.cyc, egress := t.egress, dlk := t.dlk })) ∧
  (∀ (s : State),
    (∀ flit : List Byte, flit.length = 256 → linkUp s = true → crc32c (flit.take 252) ≠ getLE flit 252 4 →
      ∃ t, exec (.flitReceive flit) s = .next t ∧ t.dlk = { s.dlk with nakOwed := true, early := [] } ∧
        rf R.DLK_CRCERR 0 16 t = min 0xFFFF (rf R.DLK_CRCERR 0 16 s + 1 + s.dlk.early.length) ∧ (∀ a, a ≠ R.DLK_CRCERR → rd a t = rd a s) ∧
        t = { s with regs := t.regs, cyc := t.cyc, dlk := t.dlk }) ∧
    (∀ flit : List Byte, flit.length ≠ 256 ∨ linkUp s = false → exec (.flitReceive flit) s = .next s) ∧
    (∀ (flit : List Byte) (q : Nat), flit.length = 256 → linkUp s = true → crc32c (flit.take 252) = getLE flit 252 4 →
      q = getLE flit 0 2 → q / 4096 = 1 → s.dlk.rxSeq < 4096 → getLE flit 2 2 / 4096 % 4 = 0 →
      (q % 4096 = (s.dlk.rxSeq + 1) % 4096 → s.dlk.early = [] → s.dlk.rxBytes = [] → getLE flit 12 2 = 0 → getLE flit 14 2 = 232 →
        ∃ t, exec (.flitReceive flit) s = .next t ∧ t.dlk.rxSeq = q % 4096 ∧ t.dlk.rxSeen = true ∧ t.dlk.rxBytes = [] ∧
        (∀ c < 4, Sparse.get 0 t.dlk.credits c = Sparse.get 0 s.dlk.credits c + getLE flit (4 + c) 1) ∧
        t = { s with dlk := t.dlk }) ∧
      (bothModules s.dlk = true → q % 4096 = (s.dlk.rxSeq + 2) % 4096 → ∃ t, exec (.flitReceive flit) s = .next t ∧
        t.dlk.early = s.dlk.early.filter (fun e => e.1 != q % 4096) ++ [(q % 4096, slice flit 12 240)] ∧
        t.dlk.rxSeq = s.dlk.rxSeq ∧ t.dlk.nakOwed = s.dlk.nakOwed ∧ t = { s with dlk := t.dlk }) ∧
      (bothModules s.dlk = false → q % 4096 ≠ (s.dlk.rxSeq + 1) % 4096 → ∃ t, exec (.flitReceive flit) s = .next t ∧
        t.dlk.early = [] ∧ t.dlk.rxSeq = s.dlk.rxSeq ∧ t.dlk.nakOwed = true ∧ t = { s with regs := t.regs, cyc := t.cyc, dlk := t.dlk })) ∧
    (s.mode ≠ .cold → s.dlk.trained = true → s.dlk.testing = false → s.dlk.noasp = false → s.dlk.req = [] → s.dlk.nakOwed = false →
      (s.dlk.resend = none → s.dlk.replay.length < 128 → s.dlk.txBytes = [] → s.dlk.txSeq < 4096 → ∀ p, s.egress.alarm = [p] →
        s.egress.rsp = [] → s.egress.event = [] → s.egress.trace = [] → p.payload.length = 32 → 1 ≤ Sparse.get 0 s.dlk.credits 1 →
        ∃ t e f k, exec .flitTransmit s = .next t ∧ t.dlk.replay = s.dlk.replay ++ [(s.dlk.txSeq, e, 0)] ∧ e.length = 240 ∧
        e.take 40 = packetBytes p ∧ t.dlk.txSeq = (s.dlk.txSeq + 1) % 4096 ∧ t.wire = .flit k f :: s.wire ∧ f.length = 256 ∧
        (bothModules s.dlk = true → k = s.dlk.txSeq % 2) ∧ (s.dlk.up1 = false → s.dlk.up0 = true → k = 0) ∧ (s.dlk.up0 = false → k = 1) ∧
        getLE f 0 2 = s.dlk.txSeq + 4096 ∧ slice f 12 240 = e ∧ getLE f 252 4 = crc32c (f.take 252) ∧
        Sparse.get 0 t.dlk.credits 1 = Sparse.get 0 s.dlk.credits 1 - 1 ∧
        t = { s with egress := { s.egress with alarm := [] }, cyc := t.cyc, dlk := t.dlk, wire := t.wire }) ∧
      (s.dlk.resend = none → s.dlk.txBytes = [] → s.egress.rsp = [] → s.egress.alarm = [] → s.egress.event = [] → s.egress.trace = [] →
        ∃ t f k, exec .flitTransmit s = .next t ∧ t.wire = .flit k f :: s.wire ∧ t.dlk.replay = s.dlk.replay ∧ t.egress = s.egress ∧
        (∀ a, rd a t = rd a s) ∧ t = { s with dlk := t.dlk, wire := t.wire, fresh := t.fresh }) ∧
      (∀ i e, s.dlk.resend = some i → s.dlk.replay[i]? = some e → ∃ t f k, exec .flitTransmit s = .next t ∧ t.wire = .flit k f :: s.wire ∧
        rf R.DLK_REPLAY 0 16 t = min 0xFFFF (rf R.DLK_REPLAY 0 16 s + 1) ∧ t.dlk.replay = s.dlk.replay ∧
        t.dlk.resend = (if i + 1 < s.dlk.replay.length then some (i + 1) else none) ∧
        t = { s with regs := t.regs, cyc := t.cyc, dlk := t.dlk, wire := t.wire })) ∧
    (s.dlk.noasp = true → exec .alarmSummary s = .next s) ∧
    (s.dlk.noasp = false → ∃ t, exec .alarmSummary s = .next t ∧ t = { s with egress := t.egress, cyc := t.cyc } ∧
      ∀ k < 64, (∀ j < 64, j ≠ k → (coalOf j s).count = 0) → (coalOf k s).count ≠ 0 → queueBytes s.egress.alarm + 40 ≤ 8192 →
        (coalOf k t).count = 0 ∧ t.egress.alarm = s.egress.alarm ++ [alarmPacket k true (coalOf k s)]) ∧
    (∀ (cl m : Fin 16) (c : Fin 8) (v : Word), reaches (.ctx cl m c) (R.ASP_EVPOST cl) s = true →
      (v.toNat < 2 ^ 24 → ∃ t, exec (.aspEvpost (.ctx cl m c) cl v) s = .next t ∧ (∃ e, t.egress.event.getLast? = some e ∧ e.pt = 0x41 ∧
          getLE e.payload 5 3 = cl + 16 * m + 256 * c ∧ getLE e.payload 8 8 = v.toNat) ∧
        (∀ a, a ≠ R.ASP_DROP → rd a t = rd a s) ∧
        t = { s with regs := t.regs, cyc := t.cyc, egress := { s.egress with event := t.egress.event }, rdata := 0, rstat := 0 }) ∧
      (v.toNat % 2 ^ 24 < 2 ^ 19 → v.toNat < 2 ^ 31 → reaches (.ctx cl m c) (R.ASP_TRPOST cl) s = true → ∃ t, exec (.aspTrpost (.ctx cl m c) cl v) s = .next t ∧
        (Sparse.get none s.ingress.traces cl = none → Sparse.get none t.ingress.traces cl =
            some (m.val, c.val, v.toNat % 2 ^ 19, v.toNat / 2 ^ 24 + 1) ∧ ∀ a, rd a t = rd a s) ∧
        (Sparse.get none s.ingress.traces cl ≠ none → rf R.ASP_DROP 16 16 t = min 0xFFFF (rf R.ASP_DROP 16 16 s + 1)) ∧
        t.mem = s.mem ∧ t.egress = s.egress)) ∧
    (∀ (cl : Fin 16) (m c o n : Nat), Sparse.get none s.ingress.traces cl = some (m, c, o, n) → o + n ≤ 524288 → s.ue = [] → s.ce = [] → FabricWhole s →
      queueBytes s.egress.trace + 8 + round8 (2 * n) ≤ 24576 → ∃ t p, exec (.traceCopyComplete cl) s = .next t ∧
        t.egress.trace = s.egress.trace ++ [p] ∧ p.pt = 0x42 ∧ p.arg = cl + 16 * m + 256 * c ∧ p.payload.length = round8 (2 * n) ∧
        (∀ i < 2 * n, p.payload.getD i 0 = mb (pantryBase cl + 2 * o + i) s) ∧ Sparse.get none t.ingress.traces cl = none ∧
        t = { s with egress := { s.egress with trace := t.egress.trace }, ingress := t.ingress }) ∧
    (∀ cl : Fin 16, Sparse.get none s.ingress.traces cl = none → exec (.traceCopyComplete cl) s = .next s))

/-- Requests are performed in order and answered (R408, R402, R406, R407): a read of sound memory returns its bytes, a
malformed address word ERR, a write stores its bytes, in LOAD ERR; a PAD packet does nothing.
The model's reading or choice in it: log entries 63, 81. -/
def Obligations.RequestsAreAnswered : Prop :=
  ∀ (rid : Fin 16) (tag : BitVec 16) (w : BitVec 64) (s : State) (a n : Nat), a = bitsN w.toNat 0 36 → n = 4 * (bitsN w.toNat 40 8 + 1) →
    (∀ len, exec (.pad len) s = .next s) ∧
    ((s.mode = .cold ∨ s.dlk.trained = false ∨ s.dlk.noasp = true) → exec (.rdreq rid tag w) s = .next s) ∧
    (RequestsGo 0 s → badWord w.toNat = true → ∃ t, exec (.rdreq rid tag w) s = .next t ∧
      Answered { pt := 0x30, rid := rid, arg := tag.toNat + 65536 } s t ∧ OwesFor 0 8 s t ∧
      rf R.ASP_INREJ 16 16 t = min 0xFFFF (rf R.ASP_INREJ 16 16 s + 1) ∧ (∀ b, b ≠ R.ASP_INREJ → rd b t = rd b s) ∧
      t = { s with regs := t.regs, cyc := t.cyc, egress := { s.egress with rsp := t.egress.rsp }, dlk := t.dlk }) ∧
    (RequestsGo (round8 n) s → badWord w.toNat = false → (∀ i < n, plainByte (a + i) s = true) →
      ∃ t, exec (.rdreq rid tag w) s = .next t ∧ Answered { pt := 0x30, rid := rid, arg := tag.toNat
                                                            payload := pad8 ((List.range n).map (fun i => mb (a + i) s)) } s t ∧
        OwesFor 0 8 s t ∧ t = { s with egress := { s.egress with rsp := t.egress.rsp }, dlk := t.dlk }) ∧
    (∀ (data : List Byte) (ackreq : Bool), data.length = round8 n → RequestsGo 0 s →
      (badWord w.toNat = false → s.mode = .load → ∃ t, exec (.wrreq rid tag ackreq (leBytes 8 w.toNat ++ data)) s = .next t ∧
        (ackreq = true → Answered { pt := 0x31, rid := rid, arg := tag.toNat + 65536 } s t) ∧
        t = { s with egress := { s.egress with rsp := t.egress.rsp }, dlk := t.dlk } ∧ OwesFor 0 (8 + data.length) s t) ∧
      (badWord w.toNat = false → s.mode ≠ .load → (∀ i < n, plainByte (a + i) { s with ue := [], ce := [] } = true) →
        ∃ t, exec (.wrreq rid tag ackreq (leBytes 8 w.toNat ++ data)) s = .next t ∧
        (∀ i < n, mb (a + i) t = data.getD i 0) ∧ (∀ b, (b < a ∨ a + n ≤ b) → mb b t = mb b s) ∧
        (ackreq = true → Answered { pt := 0x31, rid := rid, arg := tag.toNat } s t) ∧ (ackreq = false → t.egress = s.egress) ∧
        OwesFor 0 (8 + data.length) s t ∧
        t = { s with mem := t.mem, ue := t.ue, ce := t.ce, egress := { s.egress with rsp := t.egress.rsp }, dlk := t.dlk }))

/-- Content and stream packets (R402, R407, R409, R411): TILEUP and MAPUP write the tile store or are discarded with event
kind 0x04; SPRREC and JOB enter their ring or wait; NZST records queue; STRDATA extends the stream ring and moves WP at EOR;
what waits goes on with RESUME; PROOF and earlier hold packets.
The model's reading or choice in it: log entries 63, 71, 80. -/
def Obligations.ContentAndStreamArrive : Prop :=
  ∀ (s : State),
    (ContentGoes s → ∀ (off : BitVec 22) (l : List Byte) (o : Nat) (i : Instr), o = 8 * off.toNat → (i = .tileup off l ∨ i = .mapup off l) →
      (tileRangeBad o l.length s = false → ∃ t, exec i s = .next t ∧ (∀ k < l.length, mb (0x8000000 + o + k) t = l.getD k 0) ∧
        (∀ b, (b < 0x8000000 + o ∨ 0x8000000 + o + l.length ≤ b) → mb b t = mb b s) ∧ OwesFor 2 l.length s t ∧
        t = { s with mem := t.mem, ue := t.ue, ce := t.ce, dlk := t.dlk }) ∧
      (tileRangeBad o l.length s = true → ∃ t, exec i s = .next t ∧ t.mem = s.mem ∧ OwesFor 2 l.length s t ∧
        (∃ e, t.egress.event.getLast? = some e ∧ e.pt = 0x41 ∧ getLE e.payload 7 1 = 4) ∧
        rf R.ASP_INREJ 0 16 t = min 0xFFFF (rf R.ASP_INREJ 0 16 s + 1) ∧
        (∀ a, a ∉ [R.ASP_INREJ, R.ASP_DROP] → rd a t = rd a s) ∧
        t = { s with regs := t.regs, cyc := t.cyc, egress := { s.egress with event := t.egress.event }, dlk := t.dlk })) ∧
    (ContentGoes s → ∀ l : List Byte, ∃ t, exec (.nzst l) s = .next t ∧ OwesFor 2 l.length s t ∧
      t.lst.records = s.lst.records ++ (List.range (l.length / 8)).map (fun i => getLE l (8 * i) 8) ∧
      t = { s with lst := { s.lst with records := t.lst.records }, dlk := t.dlk }) ∧
    (∀ (cl : Fin 16) (h : BitVec 64) (l : List Byte) (i : Instr) (k n units wp rp base : Nat), ContentGoes s →
      ((i = .sprrec cl h l ∧ k = 0) ∨ (i = .job cl h l ∧ k = 1)) → l.length % 8 = 0 → units = 1 + l.length / 8 →
      n = rf (R.ASP_IR_SIZE cl k) 0 16 s → wp = rf (R.ASP_IR_WP cl k) 0 15 s → rp = rf (R.ASP_IR_RP cl k) 0 15 s →
      base = bankWord cl 2 (4 * rf (R.ASP_IR_BASE cl k) 2 16 s) → wp < n → rp < n → n ≤ 32768 →
      ((wp + n - rp) % n + units < n → ∃ t, exec i s = .next t ∧ rf (R.ASP_IR_WP cl k) 0 15 t = (wp + units) % n ∧
        (∀ j < l.length / 8, ∀ q < 8, mb (base + 8 * ((wp + 1 + j) % n) + q) t = l.getD (8 * j + q) 0) ∧
        (∀ b, (∀ j < units, b < base + 8 * ((wp + j) % n) ∨ base + 8 * ((wp + j) % n) + 8 ≤ b) → mb b t = mb b s) ∧
        OwesFor 2 l.length s t ∧ (∀ a, a ≠ R.ASP_IR_WP cl k → rd a t = rd a s) ∧ (s.mode ≠ .sleep → t.evLatch = s.evLatch) ∧
        t = { s with regs := t.regs, cyc := t.cyc, evLatch := t.evLatch, mem := t.mem, ue := t.ue, ce := t.ce, dlk := t.dlk }) ∧
      (units < n → n ≤ (wp + n - rp) % n + units → ∃ t, exec i s = .next t ∧ t.ingress.content.isSome = true ∧
        t = { s with ingress := { s.ingress with content := t.ingress.content } }) ∧
      (n ≤ units → ∃ t, exec i s = .next t ∧ t.mem = s.mem ∧ (∃ e, t.egress.event.getLast? = some e ∧ getLE e.payload 7 1 = 4))) ∧
    (∀ p, s.ingress.content = some p → s.dlk.content = [] →
      (entryFits p s = false → exec .contentResume s = .next s) ∧
      (entryFits p s = true → ∃ t, exec .contentResume s = .next t ∧ t.ingress.content = none ∧ OwesFor 2 p.payload.length s t ∧
        t = { s with regs := t.regs, cyc := t.cyc, evLatch := t.evLatch, mem := t.mem, ue := t.ue, ce := t.ce, dlk := t.dlk
                     ingress := { s.ingress with content := none } })) ∧
    (s.ingress.content = none → exec .contentResume s = .next s) ∧
    (∀ (eor : Bool) (l : List Byte) (o : Nat), FabricWhole s → linkUp s = true → ingressHeld s = false → s.dlk.stream = [] → s.ingress.stream = [] →
      s.ingress.waiting = false → o = s.ingress.append → l.length ≤ 64 - o % 64 → l ≠ [] →
      (strWrap (o + strSize s - slowestRp s) s + l.length ≤ strSize s - 64 → ∃ t, exec (.strdata eor l) s = .next t ∧
        (∀ k < l.length, mb (strAddr o s + k) t = l.getD k 0) ∧ t.ingress.append = strWrap (o + l.length) s ∧
        (eor = true → rd R.CMP_STR_WP t = BitVec.ofNat 32 (t.ingress.append / 64 * 64)) ∧ (eor = false → rd R.CMP_STR_WP t = rd R.CMP_STR_WP s) ∧
        (∀ a, a ≠ R.CMP_STR_WP → rd a t = rd a s) ∧ OwesFor 1 l.length s t ∧
        (∀ b, (b < strAddr o s ∨ strAddr o s + l.length ≤ b) → mb b t = mb b s)) ∧
      (strSize s - 64 < strWrap (o + strSize s - slowestRp s) s + l.length → ∃ t, exec (.strdata eor l) s = .next t ∧
        t.ingress.waiting = true ∧ t.ingress.stream = l ∧ t.mem = s.mem ∧ t.dlk = s.dlk ∧ ∀ a, rd a t = rd a s)) ∧
    (s.ingress.waiting = false → exec .streamChunkResume s = .next s) ∧
    (∀ (l : List Byte) (o : Nat), FabricWhole s → s.ingress.waiting = true → l = s.ingress.stream → l ≠ [] → o = s.ingress.append → l.length ≤ 64 - o % 64 →
      s.dlk.stream = [] → strWrap (o + strSize s - slowestRp s) s + l.length ≤ strSize s - 64 →
      ∃ t, exec .streamChunkResume s = .next t ∧ t.ingress.waiting = false ∧ t.ingress.stream = [] ∧
        (∀ k < l.length, mb (strAddr o s + k) t = l.getD k 0) ∧ t.ingress.append = strWrap (o + l.length) s ∧
        (s.ingress.eor = true → rd R.CMP_STR_WP t = BitVec.ofNat 32 (t.ingress.append / 64 * 64)) ∧ OwesFor 1 s.ingress.len s t ∧
        (∀ a, a ≠ R.CMP_STR_WP → rd a t = rd a s) ∧ t = { s with regs := t.regs, cyc := t.cyc, mem := t.mem, ue := t.ue, ce := t.ce, dlk := t.dlk, ingress := t.ingress }) ∧
    (s.ingress.waiting = true → s.ingress.stream ≠ [] → strSize s - 64 < strWrap (s.ingress.append + strSize s - slowestRp s) s + 1 →
      exec .streamChunkResume s = .next s) ∧
    (ingressHeld s = true → linkUp s = true → ∀ (off : BitVec 22) (eor : Bool) (l : List Byte),
      (∃ t p, exec (.tileup off l) s = .next t ∧ t = { s with dlk := { s.dlk with content := s.dlk.content ++ [p] } }) ∧
      ∃ t p, exec (.strdata eor l) s = .next t ∧ t = { s with dlk := { s.dlk with stream := s.dlk.stream ++ [p] } })

/-! ### The sync chain (R438 to R447) -/

/-- ROLE_DECISION 16 µs after PROOF began: the role bits; a tile alone checks its position and count. REPEAT_FRAME: the head
sends a frame of its position, mode, epoch, digest fragment and bits, with REPEAT. CHAINLOSS after 256 µs or 16 boundaries
without the frame due.
The model's reading or choice in it: log entries 18, 69. -/
def Obligations.RolesHeadFramesAndLoss : Prop :=
  ∀ (s : State),
    (∀ i o : Bool, s.mode = .proof → s.syn.decided = false → s.proofAt + 64000 ≤ s.time →
      ∃ t, exec (.roleDecision i o) s = .next t ∧ OnChain [R.SYN_STAT, R.SYN_COND, R.SYN_ALM] s t ∧ t.wire = s.wire ∧
        t.syn = { s.syn with decided := true, fwdAt := s.time, retAt := s.time, bounds := 0 } ∧ ConsShown t ∧
        rb R.SYN_STAT 1 t = (!i) ∧ rb R.SYN_STAT 2 t = (!o) ∧ rb R.SYN_STAT 3 t = i ∧ rb R.SYN_STAT 4 t = o ∧
        (i = true ∨ o = true → rd R.SYN_COND t = rd R.SYN_COND s ∧ t.egress = s.egress) ∧
        (i = false → o = false → rb R.SYN_COND 0 t = decide (rf R.SYN_CFG 5 5 s ≠ 0) ∧
          rb R.SYN_COND 1 t = decide (tilesIn (rd R.SYN_PMASK s).toNat ≠ rf R.SYN_CFG 0 5 s))) ∧
    ((s.mode ≠ .proof ∨ s.syn.decided = true) → ∀ i o : Bool, exec (.roleDecision i o) s = .next s) ∧
    (s.syn.decided = true → rb R.SYN_STAT 1 s = true → s.syn.sentAt + 256000 ≤ s.time →
      -(2 ^ 39) * 256 ≤ pOf s → pOf s < 2 ^ 39 * 256 →
      ∃ t b x, exec .repeatFrame s = .next t ∧ OnChain [] s t ∧ t.wire = .forward b :: s.wire ∧ crcGood b = true ∧
        b.length = 24 ∧ x = parseFwd b ∧ x.fidx = s.syn.fidx % 8 ∧ x.hops = 0 ∧ 256 * x.p + x.f = pOf s ∧ x.f < 256 ∧
        x.mode = s.mode.num ∧ x.epoch = (rd R.SYN_EPOCH s).toNat ∧ x.frag = (rd (R.STA_CDIG x.fidx) s).toNat ∧ x.rep = true ∧
        x.rebase = s.syn.rebase ∧ x.anyalm = decide (rd R.TIL_ASUML s ≠ 0 ∨ rd R.TIL_ASUMH s ≠ 0) ∧
        x.incons = decide (rf R.SYN_COND 0 5 s ≠ 0) ∧
        t.syn = { s.syn with fidx := (x.fidx + 1) % 8, wait := false, sentAt := s.time } ∧
        (s.mode ≠ .sleep → ∀ cl < 16, rb (R.EVC_PENDSETL cl) 22 t = true)) ∧
    ((rb R.SYN_STAT 1 s = false ∨ s.time < s.syn.sentAt + 256000) → exec .repeatFrame s = .next s) ∧
    (∀ since, since = (if rb R.SYN_STAT 1 s then s.syn.retAt else s.syn.fwdAt) →
      s.syn.decided = true → (rb R.SYN_STAT 1 s = false ∨ rb R.SYN_STAT 2 s = false) → rb R.SYN_COND 5 s = false →
      (since + 1024000 ≤ s.time ∨ 16 ≤ s.syn.bounds) →
      ∃ t, exec .chainloss s = .next t ∧ OnChain [R.SYN_STAT, R.SYN_COND, R.SYN_ALM] s t ∧ rb R.SYN_COND 5 t = true ∧
        rb R.SYN_ALM 5 t = true ∧ Alarmed 63 t ∧ ConsShown t ∧ (rb R.SYN_STAT 2 s = false → rb R.SYN_STAT 0 t = false) ∧
        t.blankDue = s.blankDue ∧ t.mode = s.mode ∧ t.syn = s.syn) ∧
    (rb R.SYN_COND 5 s = true → exec .chainloss s = .next s)

/-- FORWARD_FRAME_ACCEPT at a tile that is not the head: a frame whose CRC fails is discarded, counted and relayed corrupt;
of an intact one every check of R442 is evaluated, CHAINLOSS clears, and it is relayed with HOPS one higher and the tile's
bits as they stood before it, the tail relaying nothing. In PROOF the first one, and in IDLE one that ALIGN awaits or of a higher epoch, aligns the tile (here at
rest, v = 0).
The model's reading or choice in it: log entries 18, 69. -/
def Obligations.ForwardFramesAreChecked : Prop :=
  ∀ (s : State) (f : List Byte) (x : Fwd) (k : Nat) (al : Prop), s.syn.decided = true → rb R.SYN_STAT 1 s = false →
    s.mode.fromProof = true → f.length = 24 → x = parseFwd f → k = x.hops + 1 → k < 32 →
    al = ((s.mode = .proof ∧ s.syn.aligned = false) ∨
      (s.mode = .idle ∧ (s.syn.alignArmed = true ∨ (rd R.SYN_EPOCH s).toNat < x.epoch))) →
    let alone : State → Prop := fun t => t.wire.length = s.wire.length + (if rb R.SYN_STAT 2 s then 0 else 1)
    let relays : State → Prop := fun t =>
      (rb R.SYN_STAT 2 s = true → ∃ l, t.wire = l ++ s.wire ∧ ∀ g, Out.forward g ∉ l) ∧
      (rb R.SYN_STAT 2 s = false → ∃ g l, t.wire = l ++ .forward g :: s.wire ∧ (∀ h, Out.forward h ∉ l) ∧
        crcGood g = crcGood f ∧ g.length = 24 ∧
        parseFwd g = { x with hops := k, anyalm := x.anyalm || decide (rd R.TIL_ASUML s ≠ 0 ∨ rd R.TIL_ASUMH s ≠ 0)
                              incons := x.incons || decide (rf R.SYN_COND 0 5 s ≠ 0) })
    (crcGood f = false → ∃ t, exec (.forwardFrameAccept f) s = .next t ∧ OnChain [R.SYN_CRCERR] s t ∧ relays t ∧ alone t ∧
      rf R.SYN_CRCERR 0 16 t = min 0xFFFF (rf R.SYN_CRCERR 0 16 s + 1) ∧ rf R.SYN_CRCERR 16 16 t = rf R.SYN_CRCERR 16 16 s ∧
      t.syn = { s.syn with badRow := (s.syn.badRow + 1) % 16 } ∧ (s.syn.badRow = 15 → Alarmed 63 t)) ∧
    (crcGood f = true → ¬ al → ∃ t, exec (.forwardFrameAccept f) s = .next t ∧
      OnChain [R.SYN_STAT, R.SYN_COND, R.SYN_ALM, R.SYN_D] s t ∧ relays t ∧ alone t ∧ ConsShown t ∧ rf R.SYN_STAT 6 5 t = k ∧
      t.syn.badRow = 0 ∧ t.syn.inconsUp = x.incons ∧ t.syn.almUp = x.anyalm ∧ t.syn.fwdAt = s.time ∧ t.syn.bounds = 0 ∧
      t.syn.owed = true ∧ t.syn.lastP = x.p ∧ rb R.SYN_COND 5 t = false ∧
      rb R.SYN_COND 0 t = decide (k ≠ rf R.SYN_CFG 5 5 s) ∧
      ((rb R.SYN_STAT 2 s = true ∨ rd R.SYN_PMASK s ≠ 0) → rb R.SYN_COND 1 t =
        decide (k + tilesIn (rd R.SYN_PMASK s).toNat ≠ rf R.SYN_CFG 0 5 s)) ∧
      (x.frag ≠ (rd (R.STA_CDIG x.fidx) s).toNat → rb R.SYN_COND 2 t = true ∧ t.syn.run = 0) ∧
      (x.frag = (rd (R.STA_CDIG x.fidx) s).toNat →
        (x.fidx = s.syn.want ∧ s.syn.run = 7 → rb R.SYN_COND 2 t = false ∧ t.syn.rotated = true) ∧
        (¬ (x.fidx = s.syn.want ∧ s.syn.run = 7) → rb R.SYN_COND 2 t = rb R.SYN_COND 2 s ∧ t.syn.rotated = s.syn.rotated)) ∧
      rb R.SYN_COND 3 t = (rb R.SYN_COND 3 s || decide (x.epoch ≠ (rd R.SYN_EPOCH s).toNat)) ∧
      (∀ d : Int, rd R.POS_VEL s = 0 → d = pOf s - (256 * x.p + x.f) → rd R.SYN_D t = BitVec.ofInt 32 d ∧
        let wide : Prop := rf R.SYN_TOL 0 16 s < d.natAbs
        (wide → t.syn.above = true ∧ rb R.SYN_COND 4 t = (rb R.SYN_COND 4 s || s.syn.above)) ∧
        (¬ wide → t.syn.above = false ∧ rb R.SYN_COND 4 t = (rb R.SYN_COND 4 s && !s.syn.under))) ∧
      (s.mode = .print → rb R.SYN_CFG 10 s = true → x.incons = true → s.syn.inconsUp = false → 6 ∈ t.blankDue) ∧
      (s.mode ≠ .sleep → ∀ cl < 16, rb (R.EVC_PENDSETL cl) 22 t = true)) ∧
    (crcGood f = true → al → rd R.POS_VEL s = 0 → ∃ t, exec (.forwardFrameAccept f) s = .next t ∧ relays t ∧ ConsShown t ∧
      Renumbered (256 * x.p + x.f) (x.p - (if x.rebase then 1 else 0)) s t ∧ (rd R.SYN_EPOCH t).toNat = x.epoch ∧
      t.syn.aligned = true ∧ t.syn.alignArmed = false ∧ rf R.SYN_STAT 6 5 t = k ∧ rb R.SYN_COND 3 t = false ∧
      rb R.SYN_COND 4 t = false ∧ rb R.SYN_COND 5 t = false ∧ rf R.POS_REVDEPTH 0 13 t = 0 ∧
      ∀ a, a ∉ [R.SYN_STAT, R.SYN_COND, R.SYN_ALM, R.SYN_D, R.SYN_EPOCH, R.POS_STAT, R.POS_REVDEPTH, R.TIL_ASUMH] →
        portReg a = false → (∀ cl < 16, a ≠ R.EVC_PENDSETL cl ∧ a ≠ R.EVC_MERGE cl) → rd a t = rd a s)

/-- RETURN_FRAME: the tail answers the frame it accepted with its own PRESENT bit, INCMASK bit, P and ANYALM.
RETURN_FRAME_ACCEPT: PMASK and IMASK, the head's checks, and the relay with the tile's own bits. ALIGN arms a follower in
IDLE; NEWEPOCH at the head (or alone) in IDLE raises the epoch and sets p from LINE0, keeping its fraction; elsewhere both
writes are discarded.
The model's reading or choice in it: log entry 69. -/
def Obligations.ReturnFramesAndEpochs : Prop :=
  (∀ (s : State), s.syn.decided = true →
    (rb R.SYN_STAT 2 s = true → rb R.SYN_STAT 1 s = false → s.syn.owed = true → -(2 ^ 39) ≤ s.syn.lastP → s.syn.lastP < 2 ^ 39 →
      ∃ t b, exec .returnFrame s = .next t ∧ t = { s with wire := .back b :: s.wire, syn := { s.syn with owed := false } } ∧
        crcGood b = true ∧ getLE b 0 4 = 2 ^ rf R.SYN_STAT 6 5 s ∧
        getLE b 4 4 = (if rf R.SYN_COND 0 5 s ≠ 0 then 2 ^ rf R.SYN_STAT 6 5 s else 0) ∧ sext 40 (getLE b 8 5) = s.syn.lastP ∧
        getLE b 13 1 = (if rd R.TIL_ASUML s ≠ 0 ∨ rd R.TIL_ASUMH s ≠ 0 then 1 else 0)) ∧
    ((rb R.SYN_STAT 2 s = false ∨ rb R.SYN_STAT 1 s = true ∨ s.syn.owed = false) → exec .returnFrame s = .next s) ∧
    (∀ (f : List Byte) (pm im k : Nat), rb R.SYN_STAT 2 s = false → s.mode.fromProof = true → f.length = 24 →
      pm = getLE f 0 4 → im = getLE f 4 4 → k = rf R.SYN_STAT 6 5 s →
      let relays : State → Prop := fun t =>
        (rb R.SYN_STAT 1 s = true → t.wire = s.wire) ∧
        (rb R.SYN_STAT 1 s = false → ∃ g, t.wire = .back g :: s.wire ∧ crcGood g = crcGood f ∧ getLE g 0 4 = pm ||| 2 ^ k ∧
          getLE g 4 4 = (if rf R.SYN_COND 0 5 s ≠ 0 then im ||| 2 ^ k else im) ∧ getLE g 8 5 = getLE f 8 5 ∧
          (getLE g 13 1).testBit 0 = ((getLE f 13 1).testBit 0 || decide (rd R.TIL_ASUML s ≠ 0 ∨ rd R.TIL_ASUMH s ≠ 0)))
      (crcGood f = false → ∃ t, exec (.returnFrameAccept f) s = .next t ∧ OnChain [R.SYN_CRCERR] s t ∧ relays t ∧
        rf R.SYN_CRCERR 16 16 t = min 0xFFFF (rf R.SYN_CRCERR 16 16 s + 1) ∧ rf R.SYN_CRCERR 0 16 t = rf R.SYN_CRCERR 0 16 s ∧
        t.syn = { s.syn with badRet := (s.syn.badRet + 1) % 16 }) ∧
      (crcGood f = true → ∃ t, exec (.returnFrameAccept f) s = .next t ∧
        OnChain [R.SYN_STAT, R.SYN_COND, R.SYN_ALM, R.SYN_PMASK, R.SYN_IMASK] s t ∧ relays t ∧ ConsShown t ∧
        rd R.SYN_PMASK t = BitVec.ofNat 32 pm ∧ rd R.SYN_IMASK t = BitVec.ofNat 32 im ∧ t.syn.badRet = 0 ∧
        t.syn.retAt = s.time ∧ t.syn.almDown = (getLE f 13 1).testBit 0 ∧
        (rb R.SYN_STAT 1 s = false → rd R.SYN_COND t = rd R.SYN_COND s ∧ t.syn.bounds = s.syn.bounds) ∧
        (rb R.SYN_STAT 1 s = true → rb R.SYN_COND 5 t = false ∧ t.syn.bounds = 0 ∧
          rb R.SYN_COND 0 t = decide (rf R.SYN_CFG 5 5 s ≠ 0) ∧
          (pm ≠ 0 → rb R.SYN_COND 1 t = decide (tilesIn pm ≠ rf R.SYN_CFG 0 5 s))) ∧
        (s.mode = .print → rb R.SYN_CFG 10 s = true → (∃ i < 32, im.testBit i = true ∧ (rd R.SYN_IMASK s).getLsbD i = false) →
          6 ∈ t.blankDue)))) ∧
  (∀ (w : Writer) (s : State), reaches w R.SYN_CTL s = true →
    (s.mode = .idle → rb R.SYN_STAT 1 s = false →
      exec (.align w) s = .next { s with syn := { s.syn with alignArmed := true }, rdata := 0, rstat := 0 }) ∧
    ((s.mode ≠ .idle ∨ rb R.SYN_STAT 1 s = true) → exec (.align w) s = .next { s with rdata := 0, rstat := 0 }) ∧
    (s.mode = .idle → rb R.SYN_STAT 1 s = true → ∃ t, exec (.newepoch w) s = .next t ∧ Answers 0 t ∧
      rd R.SYN_EPOCH t = rd R.SYN_EPOCH s + 1 ∧ t.syn = { s.syn with rebase := false } ∧
      Renumbered (256 * lineZero s + pOf s % 256) (lineZero s) s t ∧
      rf R.POS_REVDEPTH 0 13 t = 0 ∧
      ∀ a, a ∉ [R.SYN_EPOCH, R.POS_STAT, R.POS_REVDEPTH] → portReg a = false → rd a t = rd a s) ∧
    ((s.mode ≠ .idle ∨ rb R.SYN_STAT 1 s = false) → exec (.newepoch w) s = .next { s with rdata := 0, rstat := 0 }))

/-! ### Modes (R451 to R462, R471) -/

/-- A request for ARMED, PRINT, BLANK, SPIT, CALIBRATE, DRAIN, SAFE, or for IDLE outside SLEEP: its RESULT; unless ACCEPTED
nothing else changes; ACCEPTED, the mode is entered at once. A mode that composes, entered from one that does not, starts
the line schedule at E = P_e + PREP; SAFE stops the line units, and no pending fire fires; SPIT's line ends with it.
The model's reading or choice in it: log entries 16, 67, 68. -/
def Obligations.ModeRequestsAreDecided : Prop :=
  ∀ (w : Writer) (s : State) (c : Instr) (m : Mode), reaches w R.TIL_MODE s = true →
    (c, m) ∈ [(Instr.requestArmed w, Mode.armed), (.requestPrint w, .print), (.requestBlank w, .blank), (.requestSpit w, .spit),
      (.requestCalibrate w, .calibrate), (.requestDrain w, .drain), (.requestSafe w, .safe), (.requestIdle w, .idle)] →
    (m = .idle → s.mode = .sleep → s.waking = true) →
    ∃ t r, exec c s = .next t ∧ Decides m r s ∧ RequestShown r m.num s t ∧ (r ≠ 1 → OnlyAnswered s t) ∧
      (r = 1 → Entered m 1 s t ∧ (t.gateBlank = false) ∧
        ((m ∈ [.armed, .print, .blank, .calibrate] → s.mode ∈ [.armed, .print, .blank, .calibrate]) →
          t.mem = s.mem ∧ t.ue = s.ue ∧ ∀ a, a ∉ [R.TIL_MSTAT, R.TIL_MCHGL, R.TIL_MCHGH, R.TIL_MCHGCNT] →
            portReg a = false → rd a t = rd a s) ∧
        (m ∈ [.armed, .print, .blank, .calibrate] → s.mode ∉ [.armed, .print, .blank, .calibrate] →
          t.first = some (pOf s / 256 + prepOf s)) ∧
        (m = .safe → t.cmp.composed = [] ∧ t.lst.busy = none ∧ t.links.xfers = [] ∧ t.links.spit = [] ∧ t.links.high = [] ∧
          ∀ g ∈ usedGroups s, ∀ f ∈ (rgOf g t).pend, f.fires = false) ∧
        (s.mode = .spit → t.links.spit = []))

/-- In SLEEP a request for IDLE wakes the tile if TIL_WAKE enables that cause; the answer to a request for SLEEP, ACCEPTED
beginning the entry while the mode stays IDLE; a number that no request may name is refused. SLEEP_ENTRY_END once store
buffers are empty and no DMA unit is under way: SLEEP, the line store off, the timers stopped, the output link idle.
LINE_STORE_CLEAR_END: IDLE with the lines renumbered, or SAFE where a condition stands. The watchdog: a write of TIL_WDOG
restarts the count; PERIOD µs without one raise the alarm of code 0x37 and restart it; no mode changes.
The model's reading or choice in it: log entries 59, 68. -/
def Obligations.SleepAndWatchdog : Prop :=
  (∀ (w : Writer) (s : State), reaches w R.TIL_MODE s = true →
    (s.mode = .sleep → s.waking = false →
      (rb R.TIL_WAKE 0 s = true → ∃ t, exec (.requestIdle w) s = .next t ∧ RequestShown 1 3 s t ∧ t.waking = true ∧
        t.mode = .sleep ∧ t.evLatch = [] ∧
        t = { s with regs := t.regs, cyc := t.cyc, evLatch := [], evBefore := t.evBefore, waking := true, rdata := 0, rstat := 0 } ∧
        ∀ a, a ≠ R.TIL_MSTAT → (∀ cl < 16, a ∉ [R.EVC_PENDSETL cl, R.EVC_PENDSETH cl, R.EVC_MERGE cl]) → rd a t = rd a s) ∧
      (rb R.TIL_WAKE 0 s = false → ∃ t, exec (.requestIdle w) s = .next t ∧ RequestShown 2 3 s t ∧ OnlyAnswered s t)) ∧
    (∃ t r, exec (.requestSleep w) s = .next t ∧ Decides .sleep r s ∧ RequestShown r 10 s t ∧
      (r ≠ 1 → OnlyAnswered s t) ∧ (r = 1 → t.sleepEntry = true ∧
        OnlyAnswered { s with sleepEntry := true, cells := t.cells } t ∧ ∀ cl m, (cellOf cl m t).fetch.held = false ∧
          cellOf cl m t = { cellOf cl m s with fetch := (cellOf cl m t).fetch })) ∧
    (∀ n : BitVec 4, ((3 ≤ n.toNat ∧ n.toNat < 12) → exec (.requestIllegalMode w n) s = .next s) ∧
      ((n.toNat < 3 ∨ 12 ≤ n.toNat) → ∃ t r, exec (.requestIllegalMode w n) s = .next t ∧ RequestShown r n.toNat s t ∧
        OnlyAnswered s t ∧ (s.forcedAt = some (coreCycle s) → r = 6) ∧
        (s.forcedAt ≠ some (coreCycle s) → ((s.sleepEntry = true ∨ s.waking = true) → r = 5) ∧
          (s.sleepEntry = false → s.waking = false → r = (if n.toNat = s.mode.num then 7 else 2)))))) ∧
  (∀ (s : State),
    (s.sleepEntry = true → quiet s = true → ∃ t, exec .sleepEntryEnd s = .next t ∧ Entered .sleep 1 s t ∧ t.sleepEntry = false ∧
      t.tmrStopped = true ∧ (∀ cl < 16, Sparse.get 0 t.sleepRatio cl =
        (if rb (R.TMR_SLCTL cl) 0 s then (rd (R.TMR_SLRATIO cl) s).toNat else Sparse.get 0 s.slowRatio cl)) ∧
      (∀ cl < 16, ∀ n < 8, (tmrOf cl n t).slept = (tEn cl n s && !rb (R.TMR_PRE cl n) 22 s)) ∧ t.pos.sleepP = pOf s ∧ rf R.WAV_JSTAT 1 2 t = 0 ∧ t.lst.stored = [] ∧
      (∀ a < lineStoreEnd, mb a t = 0) ∧ (∀ a, lineStoreEnd ≤ a → mb a t = mb a s)) ∧
    ((s.sleepEntry = false ∨ quiet s = false) → exec .sleepEntryEnd s = .next s) ∧
    (s.waking = true → ∃ t, exec .lineStoreClearEnd s = .next t ∧ t.waking = false ∧ t.first = none ∧ t.due = [] ∧
      t.lst.stored = [] ∧ pOf t = pOf s ∧ t.pos.hwm = s.pos.hwm ∧ t.cells = s.cells ∧
      (∀ a < lineStoreEnd, mb a t = 0) ∧ (∀ a, lineStoreEnd ≤ a → mb a t = mb a s) ∧
      ((∀ i, 3 ≤ i → i < 8 → (forceBits s).getLsbD i = false) → Entered .idle 0xF s t) ∧
      (∀ i c, (i, c) ∈ [(7, 7), (3, 0xB), (4, 0xC), (5, 0xD), (6, 0xE)] → (forceBits s).getLsbD i = true →
        (∀ j, 3 ≤ j → j < 8 → j ≠ i → (forceBits s).getLsbD j = false) → t.mode = .safe ∧ t.prev = .idle ∧ t.cause = c)) ∧
    (s.waking = false → exec .lineStoreClearEnd s = .next s)) ∧
  (∀ (s : State),
    (∀ w v, reservedHit R.TIL_WDOG v = false → reaches w R.TIL_WDOG s = true →
      exec (.watchdogRestart w v) s = .next { s with wdAt := s.time, rdata := 0, rstat := 0 }) ∧
    (s.mode.fromProof = true → rf R.TIL_WDCFG 0 24 s ≠ 0 → s.wdAt + 4000 * rf R.TIL_WDCFG 0 24 s ≤ s.time →
      ∃ t, exec .watchdogExpiry s = .next t ∧ t.wdAt = s.time ∧ Alarmed 63 t ∧
        (s.cyc.alarms = [] → ∀ p, t.egress.alarm = s.egress.alarm ++ [p] → getLE p.payload 16 8 / 2 ^ 57 = 0x37) ∧
        (∀ a, a ≠ R.TIL_ASUMH → rd a t = rd a s) ∧ t = { s with regs := t.regs, cyc := t.cyc, egress := t.egress, wdAt := s.time }) ∧
    ((rf R.TIL_WDCFG 0 24 s = 0 ∨ s.time < s.wdAt + 4000 * rf R.TIL_WDCFG 0 24 s) → exec .watchdogExpiry s = .next s))

/-! ### Pair port (R464, R465) -/

/-- PAIR_SEND: a write of OUTH sends OUTH with OUTL (0 if not staged) to both peers of the channel, to whose IN0 or IN1 the
sender's cluster belongs; PAIR_VALUE_ARRIVAL: it lands, or with an uncorrectable error is dropped; PAIR_INPUT_READ of the
high word clears INF; PAIR_REPORT: the alarm of CODE, and STOP.
The model's reading or choice in it: log entry 57. -/
def Obligations.PairsExchangeValues : Prop :=
  ∀ (cl m : Fin 16) (c : Fin 8) (k : Fin 4) (s : State) (w : Writer), w = .ctx cl m c →
    (mayOut cl m s = false → ∀ v : Half, exec (.pairSend cl m c k v) s = .next s ∧ exec (.pairReport cl m c k v) s = .next s) ∧
    (mayOut cl m s = true → ∀ (v : Half) (p0 p1 p : Nat), p0 = peerOf cl k false s → p1 = peerOf cl k true s → p < 16 →
      ∃ (t : State) (x : Word), exec (.pairSend cl m c k v) s = .next t ∧ t = { s with pair := t.pair, stages := t.stages } ∧
        (∀ l < 65536, Sparse.get none s.stages (Writer.key w) = some (ioWordKey (0xC121 + 8 * k), l) →
          x = BitVec.ofNat 32 (v.toNat * 65536 + l) ∧ Sparse.get none t.stages (Writer.key w) = none) ∧
        ((∀ l, Sparse.get none s.stages (Writer.key w) ≠ some (ioWordKey (0xC121 + 8 * k), l)) →
          x = BitVec.ofNat 32 (v.toNat * 65536) ∧ t.stages = s.stages) ∧
        (∀ j < 4, j ≠ k.val → pairOf p j t = pairOf p j s) ∧
        (p ≠ p0 → p ≠ p1 → pairOf p k t = pairOf p k s) ∧
        (∀ n : List Word, (p = p0 ∨ p = p1) → n = (if p0 = p1 then [x, x] else [x]) →
          (peerOf p k false s = cl → pairOf p k t = { pairOf p k s with line0 := (pairOf p k s).line0 ++ n }) ∧
          (peerOf p k false s ≠ cl → peerOf p k true s = cl →
            pairOf p k t = { pairOf p k s with line1 := (pairOf p k s).line1 ++ n }) ∧
          (peerOf p k false s ≠ cl → peerOf p k true s ≠ cl → pairOf p k t = pairOf p k s))) ∧
    (∀ (x : PairCh), x = pairOf cl k s →
      (∀ u, (x.line0 = [] → exec (.pairValueArrival cl k false u) s = .next s) ∧
        (x.line1 = [] → exec (.pairValueArrival cl k true u) s = .next s)) ∧
      (∀ v r, x.line0 = v :: r →
        (∃ t, exec (.pairValueArrival cl k false false) s = .next t ∧ t = { s with pair := t.pair, cyc := t.cyc } ∧
          t.pair = (putPair cl k { x with line0 := r, in0 := v, in0f := true, ovr := x.ovr || x.in0f } s).pair) ∧
        ∃ t, exec (.pairValueArrival cl k false true) s = .next t ∧ t = { s with pair := t.pair, cyc := t.cyc } ∧
          t.pair = (putPair cl k { x with line0 := r, err := true } s).pair) ∧
      (∀ v r, x.line1 = v :: r →
        (∃ t, exec (.pairValueArrival cl k true false) s = .next t ∧ t = { s with pair := t.pair, cyc := t.cyc } ∧
          t.pair = (putPair cl k { x with line1 := r, in1 := v, in1f := true, ovr := x.ovr || x.in1f } s).pair) ∧
        ∃ t, exec (.pairValueArrival cl k true true) s = .next t ∧ t = { s with pair := t.pair, cyc := t.cyc } ∧
          t.pair = (putPair cl k { x with line1 := r, err := true } s).pair) ∧
      (cellsIssue s = true → ∀ in1 : Bool, ∃ t, exec (.pairInputRead cl m c k in1) s = .next t ∧
        t = { s with pair := t.pair, latches := t.latches, rdata := t.rdata, rstat := 0 } ∧
        (∀ h < 65536, Sparse.get [] s.latches (Writer.key w) = [(pairInKey k in1, h)] →
          t.rdata = BitVec.ofNat 32 h ∧ Sparse.get [] t.latches (Writer.key w) = []) ∧
        (Sparse.get [] s.latches (Writer.key w) = [] →
          t.rdata = ((if in1 then x.in1 else x.in0).extractLsb' 16 16).zeroExtend 32 ∧ t.latches = s.latches) ∧
        pairOf cl k t = (if in1 then { x with in1f := false } else { x with in0f := false }) ∧
        (∀ p j, j < 4 → p * 4 + j ≠ cl.val * 4 + k.val → pairOf p j t = pairOf p j s))) ∧
    (mayOut cl m s = true → ∀ v : Half, (v.getLsbD 15 = false ∨ v.getLsbD 6 = false) →
      ∃ t, exec (.pairReport cl m c k v) s = .next t ∧ Alarmed 63 t ∧ t = { s with regs := t.regs, cyc := t.cyc, egress := t.egress } ∧
        (s.cyc.alarms = [] → ∀ p, t.egress.alarm = s.egress.alarm ++ [p] → getLE p.payload 16 8 / 2 ^ 57 = v.toNat % 64 ∧
          getLE p.payload 16 8 / 2 ^ 50 % 16 = v.toNat / 256 % 16 ∧
          getLE p.payload 16 8 / 2 ^ 46 % 16 = (if v.getLsbD 6 then peerOf cl k (v.getLsbD 7) s else cl)) ∧
        (v.toNat % 64 ∈ [0x35, 0x36] → rb R.TIL_REDLOST 13 t = true) ∧
        (∀ a, a ≠ R.TIL_ASUMH → (v.toNat % 64 ∈ [0x35, 0x36] → a ≠ R.TIL_REDLOST) → rd a t = rd a s)) ∧
    (mayOut cl m s = true → ∀ (v : Half) (p d : Nat), v.getLsbD 15 = true → v.getLsbD 6 = true → p = peerOf cl k (v.getLsbD 7) s →
      d = v.toNat / 4096 % 8 → d < 7 → ∃ t, exec (.pairReport cl m c k v) s = .next t ∧ Alarmed 63 t ∧
        (theCtx p (v.toNat / 256 % 16) d t).state = .stopped ∧
        (∀ i, i ≠ p * 16 + v.toNat / 256 % 16 → Sparse.get {} t.cells i = Sparse.get {} s.cells i) ∧
        t = { s with
          regs := t.regs, cyc := t.cyc, egress := t.egress, cells := t.cells, evAhead := t.evAhead, evBefore := t.evBefore, stages := t.stages, latches := t.latches } ∧
        ∀ a, a ∉ [R.TIL_ASUMH, R.TIL_REDLOST, R.EVC_ACTL p, R.EVC_ACTH p, R.EVC_MERGE p, R.EVC_PENDSETL p,
          R.EVC_PENDSETH p] → rd a t = rd a s)

/-! ### The whole machine -/

/-- What commands leave: the queue of waiting commands, always; the seal, the patch RAM and the image, but for a reset and
the loader (R16, R431, R437); the clock and the loader's own state, outside COLD and LOAD but for a reset; and a fuse once
blown stays blown, through every command and a reset (R485).
The model's reading or choice in it: log entry 19. -/
def Obligations.SealQueueAndFusesStand : Prop :=
  ∀ (c : Instr) (s t : State), exec c s = .next t → t.pending = s.pending ∧
    (∀ i : Nat, s.jtag.fuses.getLsbD i = true → t.jtag.fuses.getLsbD i = true) ∧
    (c ≠ .resetAssert → s.mode ≠ .load → t.sealed = s.sealed ∧ t.patch = s.patch ∧ t.img = s.img) ∧
    (c ≠ .resetAssert → s.mode ≠ .load → s.mode ≠ .cold → t.time = s.time ∧ t.loader = s.loader)

/-- Memory keeps its canonical form through every step. -/
def Obligations.MemoryStaysCanonical : Prop :=
  ∀ (s t : State), Memory.wf s.mem = true → step s = .next t → Memory.wf t.mem = true

/-- Reset: COLD, nothing sealed, no command waiting, memory listed in its canonical form and all zero, every register at its
Reset value (the values that the spec leaves open being the model's own: log entry 12). -/
def Obligations.ResetStateStands : Prop :=
  State.reset.mode = .cold ∧ State.reset.sealed = false ∧ State.reset.pending = [] ∧ Memory.wf State.reset.mem = true ∧
    (∀ a, mb a State.reset = 0) ∧ (∀ a, rd a State.reset = regReset a)

end Statements
end

