-- ==== Sys2Proof/Laws/Bits.lean ====
section
/-! SUPPORT. Laws of bit fields: what a field or a bit reads after it, or another one, is written. -/

namespace Sys2Proof.Machine

theorem testBit_bitsN (v lo w i : Nat) : (bitsN v lo w).testBit i = (decide (i < w) && v.testBit (lo + i)) := by
  unfold bitsN
  rw [Nat.testBit_mod_two_pow, Nat.testBit_div_two_pow, Nat.add_comm]

theorem testBit_fld (v : Word) (lo w i : Nat) : (fld v lo w).testBit i = (decide (i < w) && v.getLsbD (lo + i)) :=
  testBit_bitsN v.toNat lo w i

theorem testBit_fieldMask (lo w j : Nat) : ((2 ^ w - 1) * 2 ^ lo).testBit j = decide (lo ≤ j ∧ j < lo + w) := by
  rw [Nat.testBit_mul_two_pow, Nat.testBit_two_pow_sub_one]
  by_cases h : lo ≤ j <;> simp [h]
  omega

/-- Bit by bit, what writing a field leaves. -/
theorem getLsbD_putFld (v : Word) (lo w x j : Nat) : (putFld v lo w x).getLsbD j =
    (decide (j < 32) && (if lo ≤ j ∧ j < lo + w then x.testBit (j - lo) else v.getLsbD j)) := by
  unfold putFld
  simp only [BitVec.getLsbD_or, BitVec.getLsbD_and, BitVec.getLsbD_not, BitVec.getLsbD_ofNat,
    Nat.testBit_mul_two_pow, Nat.testBit_mod_two_pow]
  by_cases h32 : j < 32
  · by_cases h1 : lo ≤ j
    · by_cases h2 : j < lo + w
      · have h3 : j - lo < w := by omega
        simp [h32, h1, h2, h3]
      · have h3 : ¬ j - lo < w := by omega
        simp [h32, h1, h2, h3]
    · simp [h32, h1]
  · simp [h32]

/-- A field read after it is written. -/
theorem fld_putFld_self (v : Word) (lo w x : Nat) (h : lo + w ≤ 32) : fld (putFld v lo w x) lo w = x % 2 ^ w := by
  apply Nat.eq_of_testBit_eq
  intro i
  rw [testBit_fld, getLsbD_putFld, Nat.testBit_mod_two_pow]
  by_cases hi : i < w
  · have : lo + i < 32 := by omega
    simp [hi, this]
  · simp [hi]

/-- A field read after another one is written. -/
theorem fld_putFld_other (v : Word) (lo w x lo' w' : Nat) (h : lo' + w' ≤ lo ∨ lo + w ≤ lo') :
    fld (putFld v lo w x) lo' w' = fld v lo' w' := by
  apply Nat.eq_of_testBit_eq
  intro i
  rw [testBit_fld, testBit_fld, getLsbD_putFld]
  by_cases hi : i < w'
  · have h1 : ¬ (lo ≤ lo' + i ∧ lo' + i < lo + w) := by omega
    rw [if_neg h1]
    by_cases h2 : lo' + i < 32
    · simp [h2]
    · have : v.getLsbD (lo' + i) = false := BitVec.getLsbD_of_ge _ _ (by omega)
      simp [this]
  · simp [hi]

/-- A bit read after it is written. -/
theorem bit_putBit_self (v : Word) (i : Nat) (b : Bool) (h : i < 32) : bit (putBit v i b) i = b := by
  unfold bit putBit
  rw [getLsbD_putFld]
  cases b <;> simp [h]

/-- A bit read after another one is written. -/
theorem bit_putBit_other (v : Word) (i j : Nat) (b : Bool) (h : j ≠ i) : bit (putBit v i b) j = bit v j := by
  unfold bit putBit
  rw [getLsbD_putFld, if_neg (by omega)]
  by_cases h2 : j < 32
  · simp [h2]
  · have : v.getLsbD j = false := BitVec.getLsbD_of_ge _ _ (by omega)
    simp [this]

/-- A bit read after a field that does not hold it is written. -/
theorem bit_putFld_other (v : Word) (lo w x j : Nat) (h : j < lo ∨ lo + w ≤ j) : bit (putFld v lo w x) j = bit v j := by
  unfold bit
  rw [getLsbD_putFld, if_neg (by omega)]
  by_cases h2 : j < 32
  · simp [h2]
  · have : v.getLsbD j = false := BitVec.getLsbD_of_ge _ _ (by omega)
    simp [this]

/-- A field read after a bit outside it is written. -/
theorem fld_putBit_other (v : Word) (i lo w : Nat) (b : Bool) (h : i < lo ∨ lo + w ≤ i) :
    fld (putBit v i b) lo w = fld v lo w := fld_putFld_other v i 1 _ lo w (by omega)

theorem fld_lt (v : Word) (lo w : Nat) : fld v lo w < 2 ^ w := Nat.mod_lt _ (by positivity)

end Sys2Proof.Machine
end

