-- ==== Sys2Proof/Laws/Sparse.lean ====
section
/-! SUPPORT. Laws of the sorted tables: what a read after a write gives, and that every write keeps the canonical form, in
which tables that read alike are equal. -/

namespace Sys2Proof.Machine.Sparse

variable {α : Type}

@[simp] theorem get_nil (d : α) (k : Nat) : get d [] k = d := rfl

theorem get_erase_self (d : α) (t : Tab α) (k : Nat) : get d (erase t k) k = d := by
  induction t with
  | nil => rfl
  | cons e r ih =>
    obtain ⟨j, v⟩ := e
    by_cases h : j = k <;> simp [erase, get, h, ih]

theorem get_erase_other (d : α) (t : Tab α) {j k : Nat} (h : j ≠ k) : get d (erase t k) j = get d t j := by
  induction t with
  | nil => rfl
  | cons e r ih =>
    obtain ⟨i, v⟩ := e
    by_cases hi : i = k
    · subst hi; simp [erase, get, ih, Ne.symm h]
    · by_cases hj : i = j
      · subst hj; simp [erase, get, hi]
      · simp [erase, get, hi, hj, ih]

theorem get_insert_self (d : α) (t : Tab α) (k : Nat) (v : α) (h : ∀ e ∈ t, e.1 ≠ k) : get d (insert t k v) k = v := by
  induction t with
  | nil => simp [insert, get]
  | cons e r ih =>
    obtain ⟨j, u⟩ := e
    have hj : j ≠ k := h (j, u) (by simp)
    by_cases hk : k < j
    · simp [insert, get, hk]
    · simp [insert, get, hk, hj, ih (fun e he => h e (by simp [he]))]

theorem get_insert_other (d : α) (t : Tab α) (v : α) {j k : Nat} (h : j ≠ k) : get d (insert t k v) j = get d t j := by
  induction t with
  | nil => simp [insert, get, Ne.symm h]
  | cons e r ih =>
    obtain ⟨i, u⟩ := e
    by_cases hk : k < i
    · simp [insert, get, hk, Ne.symm h]
    · by_cases hi : i = j
      · subst hi; simp [insert, get, hk]
      · simp [insert, get, hk, hi, ih]

theorem keys_erase (t : Tab α) (k : Nat) : ∀ e ∈ erase t k, e.1 ≠ k := by
  induction t with
  | nil => simp [erase]
  | cons e r ih =>
    obtain ⟨j, v⟩ := e
    by_cases h : j = k
    · simpa [erase, h] using ih
    · intro e he
      simp only [erase, h, if_false, List.mem_cons] at he
      rcases he with rfl | he
      · exact h
      · exact ih e he

variable [DecidableEq α]

/-- A read of what was written. -/
@[simp] theorem get_set_self (d : α) (t : Tab α) (k : Nat) (v : α) : get d (set d t k v) k = v := by
  unfold set
  split
  · rename_i h; rw [get_erase_self, h]
  · exact get_insert_self d _ k v (keys_erase t k)

/-- A read of anything else. -/
@[simp] theorem get_set_other (d e : α) (t : Tab α) (v : α) {j k : Nat} (h : j ≠ k) :
    get d (set e t k v) j = get d t j := by
  unfold set
  split
  · exact get_erase_other d t h
  · rw [get_insert_other d _ v h, get_erase_other d t h]

theorem wfAbove_weaken (d : Nat → α) (t : Tab α) (lo : Nat) (o : Option Nat) (h : wfAbove d (some lo) t = true)
    (ho : ∀ x, o = some x → x ≤ lo) : wfAbove d o t = true := by
  cases t with
  | nil => cases o <;> rfl
  | cons e r =>
    obtain ⟨k, v⟩ := e
    simp only [wfAbove, Bool.and_eq_true, decide_eq_true_eq] at h ⊢
    refine ⟨⟨?_, h.1.2⟩, h.2⟩
    cases o with
    | none => rfl
    | some x => simpa using lt_of_le_of_lt (ho x rfl) h.1.1

theorem wfAbove_erase (d : Nat → α) (t : Tab α) (k : Nat) :
    ∀ o, wfAbove d o t = true → wfAbove d o (erase t k) = true := by
  induction t with
  | nil => intro o h; simpa [erase] using h
  | cons e r ih =>
    intro o h
    obtain ⟨j, v⟩ := e
    simp only [wfAbove, Bool.and_eq_true, decide_eq_true_eq] at h
    by_cases hj : j = k
    · simp only [erase, hj, if_true]
      refine ih o (wfAbove_weaken d r j o h.2 ?_)
      intro x hx; subst hx
      exact le_of_lt (by simpa using h.1.1)
    · simp only [erase, hj, if_false, wfAbove, Bool.and_eq_true, decide_eq_true_eq]
      exact ⟨h.1, ih (some j) h.2⟩

theorem wfAbove_insert (d : Nat → α) (t : Tab α) (k : Nat) (v : α) (hv : v ≠ d k) :
    ∀ o, (∀ x, o = some x → x < k) → (∀ e ∈ t, e.1 ≠ k) → wfAbove d o t = true → wfAbove d o (insert t k v) = true := by
  induction t with
  | nil =>
    intro o ho _ _
    cases o with
    | none => simp [insert, wfAbove, hv]
    | some x => simp [insert, wfAbove, hv, ho x rfl]
  | cons e r ih =>
    intro o ho hk h
    obtain ⟨j, u⟩ := e
    have hjk : j ≠ k := hk (j, u) (by simp)
    simp only [wfAbove, Bool.and_eq_true, decide_eq_true_eq] at h
    by_cases hlt : k < j
    · simp only [insert, hlt, if_true, wfAbove, Bool.and_eq_true, decide_eq_true_eq]
      refine ⟨⟨?_, hv⟩, ⟨trivial, h.1.2⟩, h.2⟩
      cases o with
      | none => rfl
      | some x => simpa using ho x rfl
    · simp only [insert, hlt, if_false, wfAbove, Bool.and_eq_true, decide_eq_true_eq]
      refine ⟨h.1, ih (some j) ?_ (fun e he => hk e (by simp [he])) h.2⟩
      rintro x ⟨⟩
      omega

/-- A write keeps the canonical form. -/
theorem wf_set (d : Nat → α) (t : Tab α) (k : Nat) (v : α) (h : wf d t = true) : wf d (set (d k) t k v) = true := by
  unfold set
  split
  · exact wfAbove_erase d t k none h
  · rename_i hv
    exact wfAbove_insert d _ k v hv none (by simp) (keys_erase t k) (wfAbove_erase d t k none h)

end Sys2Proof.Machine.Sparse
end

