-- ==== Sys2Proof/Laws/State.lean ====
section
/-! SUPPORT. What the named updates leave of the state: one lemma for each field that an update does not touch, and what
it makes of those that it does. -/

namespace Sys2Proof.Machine

variable (s : State)

/-! ### wr -/

@[simp] theorem wr_pending (a : Nat) (v : Word) : (wr a v s).pending = s.pending := (rfl)
@[simp] theorem wr_fresh (a : Nat) (v : Word) : (wr a v s).fresh = s.fresh := (rfl)
@[simp] theorem wr_time (a : Nat) (v : Word) : (wr a v s).time = s.time := (rfl)
@[simp] theorem wr_gated (a : Nat) (v : Word) : (wr a v s).gated = s.gated := (rfl)
@[simp] theorem wr_cyc (a : Nat) (v : Word) : (wr a v s).cyc = s.cyc := (rfl)
@[simp] theorem wr_proof (a : Nat) (v : Word) : (wr a v s).proof = s.proof := (rfl)
@[simp] theorem wr_mem (a : Nat) (v : Word) : (wr a v s).mem = s.mem := (rfl)
@[simp] theorem wr_ue (a : Nat) (v : Word) : (wr a v s).ue = s.ue := (rfl)
@[simp] theorem wr_ce (a : Nat) (v : Word) : (wr a v s).ce = s.ce := (rfl)
@[simp] theorem wr_patch (a : Nat) (v : Word) : (wr a v s).patch = s.patch := (rfl)
@[simp] theorem wr_wire (a : Nat) (v : Word) : (wr a v s).wire = s.wire := (rfl)
@[simp] theorem wr_mode (a : Nat) (v : Word) : (wr a v s).mode = s.mode := (rfl)
@[simp] theorem wr_prev (a : Nat) (v : Word) : (wr a v s).prev = s.prev := (rfl)
@[simp] theorem wr_cause (a : Nat) (v : Word) : (wr a v s).cause = s.cause := (rfl)
@[simp] theorem wr_sealed (a : Nat) (v : Word) : (wr a v s).sealed = s.sealed := (rfl)
@[simp] theorem wr_stages (a : Nat) (v : Word) : (wr a v s).stages = s.stages := (rfl)
@[simp] theorem wr_latches (a : Nat) (v : Word) : (wr a v s).latches = s.latches := (rfl)
@[simp] theorem wr_rdata (a : Nat) (v : Word) : (wr a v s).rdata = s.rdata := (rfl)
@[simp] theorem wr_rstat (a : Nat) (v : Word) : (wr a v s).rstat = s.rstat := (rfl)
@[simp] theorem wr_cells (a : Nat) (v : Word) : (wr a v s).cells = s.cells := (rfl)
@[simp] theorem wr_pair (a : Nat) (v : Word) : (wr a v s).pair = s.pair := (rfl)
@[simp] theorem wr_tmr (a : Nat) (v : Word) : (wr a v s).tmr = s.tmr := (rfl)
@[simp] theorem wr_dma (a : Nat) (v : Word) : (wr a v s).dma = s.dma := (rfl)
@[simp] theorem wr_tester (a : Nat) (v : Word) : (wr a v s).tester = s.tester := (rfl)
@[simp] theorem wr_evLatch (a : Nat) (v : Word) : (wr a v s).evLatch = s.evLatch := (rfl)
@[simp] theorem wr_evAhead (a : Nat) (v : Word) : (wr a v s).evAhead = s.evAhead := (rfl)
@[simp] theorem wr_evBefore (a : Nat) (v : Word) : (wr a v s).evBefore = s.evBefore := (rfl)
@[simp] theorem wr_pos (a : Nat) (v : Word) : (wr a v s).pos = s.pos := (rfl)
@[simp] theorem wr_cmp (a : Nat) (v : Word) : (wr a v s).cmp = s.cmp := (rfl)
@[simp] theorem wr_lst (a : Nat) (v : Word) : (wr a v s).lst = s.lst := (rfl)
@[simp] theorem wr_links (a : Nat) (v : Word) : (wr a v s).links = s.links := (rfl)
@[simp] theorem wr_wav (a : Nat) (v : Word) : (wr a v s).wav = s.wav := (rfl)
@[simp] theorem wr_fab (a : Nat) (v : Word) : (wr a v s).fab = s.fab := (rfl)
@[simp] theorem wr_dlk (a : Nat) (v : Word) : (wr a v s).dlk = s.dlk := (rfl)
@[simp] theorem wr_egress (a : Nat) (v : Word) : (wr a v s).egress = s.egress := (rfl)
@[simp] theorem wr_ingress (a : Nat) (v : Word) : (wr a v s).ingress = s.ingress := (rfl)
@[simp] theorem wr_loader (a : Nat) (v : Word) : (wr a v s).loader = s.loader := (rfl)
@[simp] theorem wr_syn (a : Nat) (v : Word) : (wr a v s).syn = s.syn := (rfl)
@[simp] theorem wr_jtag (a : Nat) (v : Word) : (wr a v s).jtag = s.jtag := (rfl)
@[simp] theorem wr_due (a : Nat) (v : Word) : (wr a v s).due = s.due := (rfl)
@[simp] theorem wr_first (a : Nat) (v : Word) : (wr a v s).first = s.first := (rfl)
@[simp] theorem wr_iLast (a : Nat) (v : Word) : (wr a v s).iLast = s.iLast := (rfl)
@[simp] theorem wr_gateBlank (a : Nat) (v : Word) : (wr a v s).gateBlank = s.gateBlank := (rfl)
@[simp] theorem wr_blankDue (a : Nat) (v : Word) : (wr a v s).blankDue = s.blankDue := (rfl)
@[simp] theorem wr_forcedAt (a : Nat) (v : Word) : (wr a v s).forcedAt = s.forcedAt := (rfl)
@[simp] theorem wr_proofAt (a : Nat) (v : Word) : (wr a v s).proofAt = s.proofAt := (rfl)
@[simp] theorem wr_sleepEntry (a : Nat) (v : Word) : (wr a v s).sleepEntry = s.sleepEntry := (rfl)
@[simp] theorem wr_waking (a : Nat) (v : Word) : (wr a v s).waking = s.waking := (rfl)
@[simp] theorem wr_tmrStopped (a : Nat) (v : Word) : (wr a v s).tmrStopped = s.tmrStopped := (rfl)
@[simp] theorem wr_sleepRatio (a : Nat) (v : Word) : (wr a v s).sleepRatio = s.sleepRatio := (rfl)
@[simp] theorem wr_slowRatio (a : Nat) (v : Word) : (wr a v s).slowRatio = s.slowRatio := (rfl)
@[simp] theorem wr_slowAt (a : Nat) (v : Word) : (wr a v s).slowAt = s.slowAt := (rfl)
@[simp] theorem wr_wdAt (a : Nat) (v : Word) : (wr a v s).wdAt = s.wdAt := (rfl)
@[simp] theorem wr_img (a : Nat) (v : Word) : (wr a v s).img = s.img := (rfl)

/-! ### wf -/

@[simp] theorem wf_pending (a lo w x : Nat) : (wf a lo w x s).pending = s.pending := (rfl)
@[simp] theorem wf_fresh (a lo w x : Nat) : (wf a lo w x s).fresh = s.fresh := (rfl)
@[simp] theorem wf_time (a lo w x : Nat) : (wf a lo w x s).time = s.time := (rfl)
@[simp] theorem wf_gated (a lo w x : Nat) : (wf a lo w x s).gated = s.gated := (rfl)
@[simp] theorem wf_cyc (a lo w x : Nat) : (wf a lo w x s).cyc = s.cyc := (rfl)
@[simp] theorem wf_proof (a lo w x : Nat) : (wf a lo w x s).proof = s.proof := (rfl)
@[simp] theorem wf_mem (a lo w x : Nat) : (wf a lo w x s).mem = s.mem := (rfl)
@[simp] theorem wf_ue (a lo w x : Nat) : (wf a lo w x s).ue = s.ue := (rfl)
@[simp] theorem wf_ce (a lo w x : Nat) : (wf a lo w x s).ce = s.ce := (rfl)
@[simp] theorem wf_patch (a lo w x : Nat) : (wf a lo w x s).patch = s.patch := (rfl)
@[simp] theorem wf_wire (a lo w x : Nat) : (wf a lo w x s).wire = s.wire := (rfl)
@[simp] theorem wf_mode (a lo w x : Nat) : (wf a lo w x s).mode = s.mode := (rfl)
@[simp] theorem wf_prev (a lo w x : Nat) : (wf a lo w x s).prev = s.prev := (rfl)
@[simp] theorem wf_cause (a lo w x : Nat) : (wf a lo w x s).cause = s.cause := (rfl)
@[simp] theorem wf_sealed (a lo w x : Nat) : (wf a lo w x s).sealed = s.sealed := (rfl)
@[simp] theorem wf_stages (a lo w x : Nat) : (wf a lo w x s).stages = s.stages := (rfl)
@[simp] theorem wf_latches (a lo w x : Nat) : (wf a lo w x s).latches = s.latches := (rfl)
@[simp] theorem wf_rdata (a lo w x : Nat) : (wf a lo w x s).rdata = s.rdata := (rfl)
@[simp] theorem wf_rstat (a lo w x : Nat) : (wf a lo w x s).rstat = s.rstat := (rfl)
@[simp] theorem wf_cells (a lo w x : Nat) : (wf a lo w x s).cells = s.cells := (rfl)
@[simp] theorem wf_pair (a lo w x : Nat) : (wf a lo w x s).pair = s.pair := (rfl)
@[simp] theorem wf_tmr (a lo w x : Nat) : (wf a lo w x s).tmr = s.tmr := (rfl)
@[simp] theorem wf_dma (a lo w x : Nat) : (wf a lo w x s).dma = s.dma := (rfl)
@[simp] theorem wf_tester (a lo w x : Nat) : (wf a lo w x s).tester = s.tester := (rfl)
@[simp] theorem wf_evLatch (a lo w x : Nat) : (wf a lo w x s).evLatch = s.evLatch := (rfl)
@[simp] theorem wf_evAhead (a lo w x : Nat) : (wf a lo w x s).evAhead = s.evAhead := (rfl)
@[simp] theorem wf_evBefore (a lo w x : Nat) : (wf a lo w x s).evBefore = s.evBefore := (rfl)
@[simp] theorem wf_pos (a lo w x : Nat) : (wf a lo w x s).pos = s.pos := (rfl)
@[simp] theorem wf_cmp (a lo w x : Nat) : (wf a lo w x s).cmp = s.cmp := (rfl)
@[simp] theorem wf_lst (a lo w x : Nat) : (wf a lo w x s).lst = s.lst := (rfl)
@[simp] theorem wf_links (a lo w x : Nat) : (wf a lo w x s).links = s.links := (rfl)
@[simp] theorem wf_wav (a lo w x : Nat) : (wf a lo w x s).wav = s.wav := (rfl)
@[simp] theorem wf_fab (a lo w x : Nat) : (wf a lo w x s).fab = s.fab := (rfl)
@[simp] theorem wf_dlk (a lo w x : Nat) : (wf a lo w x s).dlk = s.dlk := (rfl)
@[simp] theorem wf_egress (a lo w x : Nat) : (wf a lo w x s).egress = s.egress := (rfl)
@[simp] theorem wf_ingress (a lo w x : Nat) : (wf a lo w x s).ingress = s.ingress := (rfl)
@[simp] theorem wf_loader (a lo w x : Nat) : (wf a lo w x s).loader = s.loader := (rfl)
@[simp] theorem wf_syn (a lo w x : Nat) : (wf a lo w x s).syn = s.syn := (rfl)
@[simp] theorem wf_jtag (a lo w x : Nat) : (wf a lo w x s).jtag = s.jtag := (rfl)
@[simp] theorem wf_due (a lo w x : Nat) : (wf a lo w x s).due = s.due := (rfl)
@[simp] theorem wf_first (a lo w x : Nat) : (wf a lo w x s).first = s.first := (rfl)
@[simp] theorem wf_iLast (a lo w x : Nat) : (wf a lo w x s).iLast = s.iLast := (rfl)
@[simp] theorem wf_gateBlank (a lo w x : Nat) : (wf a lo w x s).gateBlank = s.gateBlank := (rfl)
@[simp] theorem wf_blankDue (a lo w x : Nat) : (wf a lo w x s).blankDue = s.blankDue := (rfl)
@[simp] theorem wf_forcedAt (a lo w x : Nat) : (wf a lo w x s).forcedAt = s.forcedAt := (rfl)
@[simp] theorem wf_proofAt (a lo w x : Nat) : (wf a lo w x s).proofAt = s.proofAt := (rfl)
@[simp] theorem wf_sleepEntry (a lo w x : Nat) : (wf a lo w x s).sleepEntry = s.sleepEntry := (rfl)
@[simp] theorem wf_waking (a lo w x : Nat) : (wf a lo w x s).waking = s.waking := (rfl)
@[simp] theorem wf_tmrStopped (a lo w x : Nat) : (wf a lo w x s).tmrStopped = s.tmrStopped := (rfl)
@[simp] theorem wf_sleepRatio (a lo w x : Nat) : (wf a lo w x s).sleepRatio = s.sleepRatio := (rfl)
@[simp] theorem wf_slowRatio (a lo w x : Nat) : (wf a lo w x s).slowRatio = s.slowRatio := (rfl)
@[simp] theorem wf_slowAt (a lo w x : Nat) : (wf a lo w x s).slowAt = s.slowAt := (rfl)
@[simp] theorem wf_wdAt (a lo w x : Nat) : (wf a lo w x s).wdAt = s.wdAt := (rfl)
@[simp] theorem wf_img (a lo w x : Nat) : (wf a lo w x s).img = s.img := (rfl)

/-! ### noteSet -/

@[simp] theorem noteSet_pending (a i : Nat) : (noteSet a i s).pending = s.pending := (rfl)
@[simp] theorem noteSet_fresh (a i : Nat) : (noteSet a i s).fresh = s.fresh := (rfl)
@[simp] theorem noteSet_time (a i : Nat) : (noteSet a i s).time = s.time := (rfl)
@[simp] theorem noteSet_gated (a i : Nat) : (noteSet a i s).gated = s.gated := (rfl)
@[simp] theorem noteSet_regs (a i : Nat) : (noteSet a i s).regs = s.regs := (rfl)
@[simp] theorem noteSet_proof (a i : Nat) : (noteSet a i s).proof = s.proof := (rfl)
@[simp] theorem noteSet_mem (a i : Nat) : (noteSet a i s).mem = s.mem := (rfl)
@[simp] theorem noteSet_ue (a i : Nat) : (noteSet a i s).ue = s.ue := (rfl)
@[simp] theorem noteSet_ce (a i : Nat) : (noteSet a i s).ce = s.ce := (rfl)
@[simp] theorem noteSet_patch (a i : Nat) : (noteSet a i s).patch = s.patch := (rfl)
@[simp] theorem noteSet_wire (a i : Nat) : (noteSet a i s).wire = s.wire := (rfl)
@[simp] theorem noteSet_mode (a i : Nat) : (noteSet a i s).mode = s.mode := (rfl)
@[simp] theorem noteSet_prev (a i : Nat) : (noteSet a i s).prev = s.prev := (rfl)
@[simp] theorem noteSet_cause (a i : Nat) : (noteSet a i s).cause = s.cause := (rfl)
@[simp] theorem noteSet_sealed (a i : Nat) : (noteSet a i s).sealed = s.sealed := (rfl)
@[simp] theorem noteSet_stages (a i : Nat) : (noteSet a i s).stages = s.stages := (rfl)
@[simp] theorem noteSet_latches (a i : Nat) : (noteSet a i s).latches = s.latches := (rfl)
@[simp] theorem noteSet_rdata (a i : Nat) : (noteSet a i s).rdata = s.rdata := (rfl)
@[simp] theorem noteSet_rstat (a i : Nat) : (noteSet a i s).rstat = s.rstat := (rfl)
@[simp] theorem noteSet_cells (a i : Nat) : (noteSet a i s).cells = s.cells := (rfl)
@[simp] theorem noteSet_pair (a i : Nat) : (noteSet a i s).pair = s.pair := (rfl)
@[simp] theorem noteSet_tmr (a i : Nat) : (noteSet a i s).tmr = s.tmr := (rfl)
@[simp] theorem noteSet_dma (a i : Nat) : (noteSet a i s).dma = s.dma := (rfl)
@[simp] theorem noteSet_tester (a i : Nat) : (noteSet a i s).tester = s.tester := (rfl)
@[simp] theorem noteSet_evLatch (a i : Nat) : (noteSet a i s).evLatch = s.evLatch := (rfl)
@[simp] theorem noteSet_evAhead (a i : Nat) : (noteSet a i s).evAhead = s.evAhead := (rfl)
@[simp] theorem noteSet_evBefore (a i : Nat) : (noteSet a i s).evBefore = s.evBefore := (rfl)
@[simp] theorem noteSet_pos (a i : Nat) : (noteSet a i s).pos = s.pos := (rfl)
@[simp] theorem noteSet_cmp (a i : Nat) : (noteSet a i s).cmp = s.cmp := (rfl)
@[simp] theorem noteSet_lst (a i : Nat) : (noteSet a i s).lst = s.lst := (rfl)
@[simp] theorem noteSet_links (a i : Nat) : (noteSet a i s).links = s.links := (rfl)
@[simp] theorem noteSet_wav (a i : Nat) : (noteSet a i s).wav = s.wav := (rfl)
@[simp] theorem noteSet_fab (a i : Nat) : (noteSet a i s).fab = s.fab := (rfl)
@[simp] theorem noteSet_dlk (a i : Nat) : (noteSet a i s).dlk = s.dlk := (rfl)
@[simp] theorem noteSet_egress (a i : Nat) : (noteSet a i s).egress = s.egress := (rfl)
@[simp] theorem noteSet_ingress (a i : Nat) : (noteSet a i s).ingress = s.ingress := (rfl)
@[simp] theorem noteSet_loader (a i : Nat) : (noteSet a i s).loader = s.loader := (rfl)
@[simp] theorem noteSet_syn (a i : Nat) : (noteSet a i s).syn = s.syn := (rfl)
@[simp] theorem noteSet_jtag (a i : Nat) : (noteSet a i s).jtag = s.jtag := (rfl)
@[simp] theorem noteSet_due (a i : Nat) : (noteSet a i s).due = s.due := (rfl)
@[simp] theorem noteSet_first (a i : Nat) : (noteSet a i s).first = s.first := (rfl)
@[simp] theorem noteSet_iLast (a i : Nat) : (noteSet a i s).iLast = s.iLast := (rfl)
@[simp] theorem noteSet_gateBlank (a i : Nat) : (noteSet a i s).gateBlank = s.gateBlank := (rfl)
@[simp] theorem noteSet_blankDue (a i : Nat) : (noteSet a i s).blankDue = s.blankDue := (rfl)
@[simp] theorem noteSet_forcedAt (a i : Nat) : (noteSet a i s).forcedAt = s.forcedAt := (rfl)
@[simp] theorem noteSet_proofAt (a i : Nat) : (noteSet a i s).proofAt = s.proofAt := (rfl)
@[simp] theorem noteSet_sleepEntry (a i : Nat) : (noteSet a i s).sleepEntry = s.sleepEntry := (rfl)
@[simp] theorem noteSet_waking (a i : Nat) : (noteSet a i s).waking = s.waking := (rfl)
@[simp] theorem noteSet_tmrStopped (a i : Nat) : (noteSet a i s).tmrStopped = s.tmrStopped := (rfl)
@[simp] theorem noteSet_sleepRatio (a i : Nat) : (noteSet a i s).sleepRatio = s.sleepRatio := (rfl)
@[simp] theorem noteSet_slowRatio (a i : Nat) : (noteSet a i s).slowRatio = s.slowRatio := (rfl)
@[simp] theorem noteSet_slowAt (a i : Nat) : (noteSet a i s).slowAt = s.slowAt := (rfl)
@[simp] theorem noteSet_wdAt (a i : Nat) : (noteSet a i s).wdAt = s.wdAt := (rfl)
@[simp] theorem noteSet_img (a i : Nat) : (noteSet a i s).img = s.img := (rfl)

/-! ### putEvents -/

@[simp] theorem putEvents_pending (a : Nat) (l : List RcEv) : (putEvents a l s).pending = s.pending := (rfl)
@[simp] theorem putEvents_fresh (a : Nat) (l : List RcEv) : (putEvents a l s).fresh = s.fresh := (rfl)
@[simp] theorem putEvents_time (a : Nat) (l : List RcEv) : (putEvents a l s).time = s.time := (rfl)
@[simp] theorem putEvents_gated (a : Nat) (l : List RcEv) : (putEvents a l s).gated = s.gated := (rfl)
@[simp] theorem putEvents_regs (a : Nat) (l : List RcEv) : (putEvents a l s).regs = s.regs := (rfl)
@[simp] theorem putEvents_proof (a : Nat) (l : List RcEv) : (putEvents a l s).proof = s.proof := (rfl)
@[simp] theorem putEvents_mem (a : Nat) (l : List RcEv) : (putEvents a l s).mem = s.mem := (rfl)
@[simp] theorem putEvents_ue (a : Nat) (l : List RcEv) : (putEvents a l s).ue = s.ue := (rfl)
@[simp] theorem putEvents_ce (a : Nat) (l : List RcEv) : (putEvents a l s).ce = s.ce := (rfl)
@[simp] theorem putEvents_patch (a : Nat) (l : List RcEv) : (putEvents a l s).patch = s.patch := (rfl)
@[simp] theorem putEvents_wire (a : Nat) (l : List RcEv) : (putEvents a l s).wire = s.wire := (rfl)
@[simp] theorem putEvents_mode (a : Nat) (l : List RcEv) : (putEvents a l s).mode = s.mode := (rfl)
@[simp] theorem putEvents_prev (a : Nat) (l : List RcEv) : (putEvents a l s).prev = s.prev := (rfl)
@[simp] theorem putEvents_cause (a : Nat) (l : List RcEv) : (putEvents a l s).cause = s.cause := (rfl)
@[simp] theorem putEvents_sealed (a : Nat) (l : List RcEv) : (putEvents a l s).sealed = s.sealed := (rfl)
@[simp] theorem putEvents_stages (a : Nat) (l : List RcEv) : (putEvents a l s).stages = s.stages := (rfl)
@[simp] theorem putEvents_latches (a : Nat) (l : List RcEv) : (putEvents a l s).latches = s.latches := (rfl)
@[simp] theorem putEvents_rdata (a : Nat) (l : List RcEv) : (putEvents a l s).rdata = s.rdata := (rfl)
@[simp] theorem putEvents_rstat (a : Nat) (l : List RcEv) : (putEvents a l s).rstat = s.rstat := (rfl)
@[simp] theorem putEvents_cells (a : Nat) (l : List RcEv) : (putEvents a l s).cells = s.cells := (rfl)
@[simp] theorem putEvents_pair (a : Nat) (l : List RcEv) : (putEvents a l s).pair = s.pair := (rfl)
@[simp] theorem putEvents_tmr (a : Nat) (l : List RcEv) : (putEvents a l s).tmr = s.tmr := (rfl)
@[simp] theorem putEvents_dma (a : Nat) (l : List RcEv) : (putEvents a l s).dma = s.dma := (rfl)
@[simp] theorem putEvents_tester (a : Nat) (l : List RcEv) : (putEvents a l s).tester = s.tester := (rfl)
@[simp] theorem putEvents_evLatch (a : Nat) (l : List RcEv) : (putEvents a l s).evLatch = s.evLatch := (rfl)
@[simp] theorem putEvents_evAhead (a : Nat) (l : List RcEv) : (putEvents a l s).evAhead = s.evAhead := (rfl)
@[simp] theorem putEvents_evBefore (a : Nat) (l : List RcEv) : (putEvents a l s).evBefore = s.evBefore := (rfl)
@[simp] theorem putEvents_pos (a : Nat) (l : List RcEv) : (putEvents a l s).pos = s.pos := (rfl)
@[simp] theorem putEvents_cmp (a : Nat) (l : List RcEv) : (putEvents a l s).cmp = s.cmp := (rfl)
@[simp] theorem putEvents_lst (a : Nat) (l : List RcEv) : (putEvents a l s).lst = s.lst := (rfl)
@[simp] theorem putEvents_links (a : Nat) (l : List RcEv) : (putEvents a l s).links = s.links := (rfl)
@[simp] theorem putEvents_wav (a : Nat) (l : List RcEv) : (putEvents a l s).wav = s.wav := (rfl)
@[simp] theorem putEvents_fab (a : Nat) (l : List RcEv) : (putEvents a l s).fab = s.fab := (rfl)
@[simp] theorem putEvents_dlk (a : Nat) (l : List RcEv) : (putEvents a l s).dlk = s.dlk := (rfl)
@[simp] theorem putEvents_egress (a : Nat) (l : List RcEv) : (putEvents a l s).egress = s.egress := (rfl)
@[simp] theorem putEvents_ingress (a : Nat) (l : List RcEv) : (putEvents a l s).ingress = s.ingress := (rfl)
@[simp] theorem putEvents_loader (a : Nat) (l : List RcEv) : (putEvents a l s).loader = s.loader := (rfl)
@[simp] theorem putEvents_syn (a : Nat) (l : List RcEv) : (putEvents a l s).syn = s.syn := (rfl)
@[simp] theorem putEvents_jtag (a : Nat) (l : List RcEv) : (putEvents a l s).jtag = s.jtag := (rfl)
@[simp] theorem putEvents_due (a : Nat) (l : List RcEv) : (putEvents a l s).due = s.due := (rfl)
@[simp] theorem putEvents_first (a : Nat) (l : List RcEv) : (putEvents a l s).first = s.first := (rfl)
@[simp] theorem putEvents_iLast (a : Nat) (l : List RcEv) : (putEvents a l s).iLast = s.iLast := (rfl)
@[simp] theorem putEvents_gateBlank (a : Nat) (l : List RcEv) : (putEvents a l s).gateBlank = s.gateBlank := (rfl)
@[simp] theorem putEvents_blankDue (a : Nat) (l : List RcEv) : (putEvents a l s).blankDue = s.blankDue := (rfl)
@[simp] theorem putEvents_forcedAt (a : Nat) (l : List RcEv) : (putEvents a l s).forcedAt = s.forcedAt := (rfl)
@[simp] theorem putEvents_proofAt (a : Nat) (l : List RcEv) : (putEvents a l s).proofAt = s.proofAt := (rfl)
@[simp] theorem putEvents_sleepEntry (a : Nat) (l : List RcEv) : (putEvents a l s).sleepEntry = s.sleepEntry := (rfl)
@[simp] theorem putEvents_waking (a : Nat) (l : List RcEv) : (putEvents a l s).waking = s.waking := (rfl)
@[simp] theorem putEvents_tmrStopped (a : Nat) (l : List RcEv) : (putEvents a l s).tmrStopped = s.tmrStopped := (rfl)
@[simp] theorem putEvents_sleepRatio (a : Nat) (l : List RcEv) : (putEvents a l s).sleepRatio = s.sleepRatio := (rfl)
@[simp] theorem putEvents_slowRatio (a : Nat) (l : List RcEv) : (putEvents a l s).slowRatio = s.slowRatio := (rfl)
@[simp] theorem putEvents_slowAt (a : Nat) (l : List RcEv) : (putEvents a l s).slowAt = s.slowAt := (rfl)
@[simp] theorem putEvents_wdAt (a : Nat) (l : List RcEv) : (putEvents a l s).wdAt = s.wdAt := (rfl)
@[simp] theorem putEvents_img (a : Nat) (l : List RcEv) : (putEvents a l s).img = s.img := (rfl)

/-! ### wb -/

/-- All that setting or clearing a bit can do: the register, and what this core cycle has set (R16). -/
theorem wb_eq (a i : Nat) (b : Bool) : ∃ y : Cyc, wb a i b s = { wr a (putBit (rd a s) i b) s with cyc := y } := by
  unfold wb
  dsimp only
  split
  · exact ⟨_, rfl⟩
  · exact ⟨_, rfl⟩

/-- A bit cleared changes the register alone. -/
theorem wb_false (a i : Nat) : wb a i false s = wr a (putBit (rd a s) i false) s := rfl

@[simp] theorem wb_false_cyc (a i : Nat) : (wb a i false s).cyc = s.cyc := rfl


@[simp] theorem wb_pending (a i : Nat) (b : Bool) : (wb a i b s).pending = s.pending := by obtain ⟨_, h⟩ := wb_eq s a i b; rw [h]; rfl
@[simp] theorem wb_fresh (a i : Nat) (b : Bool) : (wb a i b s).fresh = s.fresh := by obtain ⟨_, h⟩ := wb_eq s a i b; rw [h]; rfl
@[simp] theorem wb_time (a i : Nat) (b : Bool) : (wb a i b s).time = s.time := by obtain ⟨_, h⟩ := wb_eq s a i b; rw [h]; rfl
@[simp] theorem wb_gated (a i : Nat) (b : Bool) : (wb a i b s).gated = s.gated := by obtain ⟨_, h⟩ := wb_eq s a i b; rw [h]; rfl
@[simp] theorem wb_proof (a i : Nat) (b : Bool) : (wb a i b s).proof = s.proof := by obtain ⟨_, h⟩ := wb_eq s a i b; rw [h]; rfl
@[simp] theorem wb_mem (a i : Nat) (b : Bool) : (wb a i b s).mem = s.mem := by obtain ⟨_, h⟩ := wb_eq s a i b; rw [h]; rfl
@[simp] theorem wb_ue (a i : Nat) (b : Bool) : (wb a i b s).ue = s.ue := by obtain ⟨_, h⟩ := wb_eq s a i b; rw [h]; rfl
@[simp] theorem wb_ce (a i : Nat) (b : Bool) : (wb a i b s).ce = s.ce := by obtain ⟨_, h⟩ := wb_eq s a i b; rw [h]; rfl
@[simp] theorem wb_patch (a i : Nat) (b : Bool) : (wb a i b s).patch = s.patch := by obtain ⟨_, h⟩ := wb_eq s a i b; rw [h]; rfl
@[simp] theorem wb_wire (a i : Nat) (b : Bool) : (wb a i b s).wire = s.wire := by obtain ⟨_, h⟩ := wb_eq s a i b; rw [h]; rfl
@[simp] theorem wb_mode (a i : Nat) (b : Bool) : (wb a i b s).mode = s.mode := by obtain ⟨_, h⟩ := wb_eq s a i b; rw [h]; rfl
@[simp] theorem wb_prev (a i : Nat) (b : Bool) : (wb a i b s).prev = s.prev := by obtain ⟨_, h⟩ := wb_eq s a i b; rw [h]; rfl
@[simp] theorem wb_cause (a i : Nat) (b : Bool) : (wb a i b s).cause = s.cause := by obtain ⟨_, h⟩ := wb_eq s a i b; rw [h]; rfl
@[simp] theorem wb_sealed (a i : Nat) (b : Bool) : (wb a i b s).sealed = s.sealed := by obtain ⟨_, h⟩ := wb_eq s a i b; rw [h]; rfl
@[simp] theorem wb_stages (a i : Nat) (b : Bool) : (wb a i b s).stages = s.stages := by obtain ⟨_, h⟩ := wb_eq s a i b; rw [h]; rfl
@[simp] theorem wb_latches (a i : Nat) (b : Bool) : (wb a i b s).latches = s.latches := by obtain ⟨_, h⟩ := wb_eq s a i b; rw [h]; rfl
@[simp] theorem wb_rdata (a i : Nat) (b : Bool) : (wb a i b s).rdata = s.rdata := by obtain ⟨_, h⟩ := wb_eq s a i b; rw [h]; rfl
@[simp] theorem wb_rstat (a i : Nat) (b : Bool) : (wb a i b s).rstat = s.rstat := by obtain ⟨_, h⟩ := wb_eq s a i b; rw [h]; rfl
@[simp] theorem wb_cells (a i : Nat) (b : Bool) : (wb a i b s).cells = s.cells := by obtain ⟨_, h⟩ := wb_eq s a i b; rw [h]; rfl
@[simp] theorem wb_pair (a i : Nat) (b : Bool) : (wb a i b s).pair = s.pair := by obtain ⟨_, h⟩ := wb_eq s a i b; rw [h]; rfl
@[simp] theorem wb_tmr (a i : Nat) (b : Bool) : (wb a i b s).tmr = s.tmr := by obtain ⟨_, h⟩ := wb_eq s a i b; rw [h]; rfl
@[simp] theorem wb_dma (a i : Nat) (b : Bool) : (wb a i b s).dma = s.dma := by obtain ⟨_, h⟩ := wb_eq s a i b; rw [h]; rfl
@[simp] theorem wb_tester (a i : Nat) (b : Bool) : (wb a i b s).tester = s.tester := by obtain ⟨_, h⟩ := wb_eq s a i b; rw [h]; rfl
@[simp] theorem wb_evLatch (a i : Nat) (b : Bool) : (wb a i b s).evLatch = s.evLatch := by obtain ⟨_, h⟩ := wb_eq s a i b; rw [h]; rfl
@[simp] theorem wb_evAhead (a i : Nat) (b : Bool) : (wb a i b s).evAhead = s.evAhead := by obtain ⟨_, h⟩ := wb_eq s a i b; rw [h]; rfl
@[simp] theorem wb_evBefore (a i : Nat) (b : Bool) : (wb a i b s).evBefore = s.evBefore := by obtain ⟨_, h⟩ := wb_eq s a i b; rw [h]; rfl
@[simp] theorem wb_pos (a i : Nat) (b : Bool) : (wb a i b s).pos = s.pos := by obtain ⟨_, h⟩ := wb_eq s a i b; rw [h]; rfl
@[simp] theorem wb_cmp (a i : Nat) (b : Bool) : (wb a i b s).cmp = s.cmp := by obtain ⟨_, h⟩ := wb_eq s a i b; rw [h]; rfl
@[simp] theorem wb_lst (a i : Nat) (b : Bool) : (wb a i b s).lst = s.lst := by obtain ⟨_, h⟩ := wb_eq s a i b; rw [h]; rfl
@[simp] theorem wb_links (a i : Nat) (b : Bool) : (wb a i b s).links = s.links := by obtain ⟨_, h⟩ := wb_eq s a i b; rw [h]; rfl
@[simp] theorem wb_wav (a i : Nat) (b : Bool) : (wb a i b s).wav = s.wav := by obtain ⟨_, h⟩ := wb_eq s a i b; rw [h]; rfl
@[simp] theorem wb_fab (a i : Nat) (b : Bool) : (wb a i b s).fab = s.fab := by obtain ⟨_, h⟩ := wb_eq s a i b; rw [h]; rfl
@[simp] theorem wb_dlk (a i : Nat) (b : Bool) : (wb a i b s).dlk = s.dlk := by obtain ⟨_, h⟩ := wb_eq s a i b; rw [h]; rfl
@[simp] theorem wb_egress (a i : Nat) (b : Bool) : (wb a i b s).egress = s.egress := by obtain ⟨_, h⟩ := wb_eq s a i b; rw [h]; rfl
@[simp] theorem wb_ingress (a i : Nat) (b : Bool) : (wb a i b s).ingress = s.ingress := by obtain ⟨_, h⟩ := wb_eq s a i b; rw [h]; rfl
@[simp] theorem wb_loader (a i : Nat) (b : Bool) : (wb a i b s).loader = s.loader := by obtain ⟨_, h⟩ := wb_eq s a i b; rw [h]; rfl
@[simp] theorem wb_syn (a i : Nat) (b : Bool) : (wb a i b s).syn = s.syn := by obtain ⟨_, h⟩ := wb_eq s a i b; rw [h]; rfl
@[simp] theorem wb_jtag (a i : Nat) (b : Bool) : (wb a i b s).jtag = s.jtag := by obtain ⟨_, h⟩ := wb_eq s a i b; rw [h]; rfl
@[simp] theorem wb_due (a i : Nat) (b : Bool) : (wb a i b s).due = s.due := by obtain ⟨_, h⟩ := wb_eq s a i b; rw [h]; rfl
@[simp] theorem wb_first (a i : Nat) (b : Bool) : (wb a i b s).first = s.first := by obtain ⟨_, h⟩ := wb_eq s a i b; rw [h]; rfl
@[simp] theorem wb_iLast (a i : Nat) (b : Bool) : (wb a i b s).iLast = s.iLast := by obtain ⟨_, h⟩ := wb_eq s a i b; rw [h]; rfl
@[simp] theorem wb_gateBlank (a i : Nat) (b : Bool) : (wb a i b s).gateBlank = s.gateBlank := by obtain ⟨_, h⟩ := wb_eq s a i b; rw [h]; rfl
@[simp] theorem wb_blankDue (a i : Nat) (b : Bool) : (wb a i b s).blankDue = s.blankDue := by obtain ⟨_, h⟩ := wb_eq s a i b; rw [h]; rfl
@[simp] theorem wb_forcedAt (a i : Nat) (b : Bool) : (wb a i b s).forcedAt = s.forcedAt := by obtain ⟨_, h⟩ := wb_eq s a i b; rw [h]; rfl
@[simp] theorem wb_proofAt (a i : Nat) (b : Bool) : (wb a i b s).proofAt = s.proofAt := by obtain ⟨_, h⟩ := wb_eq s a i b; rw [h]; rfl
@[simp] theorem wb_sleepEntry (a i : Nat) (b : Bool) : (wb a i b s).sleepEntry = s.sleepEntry := by obtain ⟨_, h⟩ := wb_eq s a i b; rw [h]; rfl
@[simp] theorem wb_waking (a i : Nat) (b : Bool) : (wb a i b s).waking = s.waking := by obtain ⟨_, h⟩ := wb_eq s a i b; rw [h]; rfl
@[simp] theorem wb_tmrStopped (a i : Nat) (b : Bool) : (wb a i b s).tmrStopped = s.tmrStopped := by obtain ⟨_, h⟩ := wb_eq s a i b; rw [h]; rfl
@[simp] theorem wb_sleepRatio (a i : Nat) (b : Bool) : (wb a i b s).sleepRatio = s.sleepRatio := by obtain ⟨_, h⟩ := wb_eq s a i b; rw [h]; rfl
@[simp] theorem wb_slowRatio (a i : Nat) (b : Bool) : (wb a i b s).slowRatio = s.slowRatio := by obtain ⟨_, h⟩ := wb_eq s a i b; rw [h]; rfl
@[simp] theorem wb_slowAt (a i : Nat) (b : Bool) : (wb a i b s).slowAt = s.slowAt := by obtain ⟨_, h⟩ := wb_eq s a i b; rw [h]; rfl
@[simp] theorem wb_wdAt (a i : Nat) (b : Bool) : (wb a i b s).wdAt = s.wdAt := by obtain ⟨_, h⟩ := wb_eq s a i b; rw [h]; rfl
@[simp] theorem wb_img (a i : Nat) (b : Bool) : (wb a i b s).img = s.img := by obtain ⟨_, h⟩ := wb_eq s a i b; rw [h]; rfl

/-! ### noteEvent -/

/-- An event recorded changes this core cycle's record alone (R16). -/
theorem noteEvent_eq (a lo w : Nat) (join : Option Nat → Nat) :
    ∃ y : Cyc, noteEvent a lo w join s = { s with cyc := y } := by
  unfold noteEvent
  dsimp only
  split
  · exact ⟨_, rfl⟩
  · exact ⟨_, rfl⟩


@[simp] theorem noteEvent_pending (a lo w : Nat) (join : Option Nat → Nat) : (noteEvent a lo w join s).pending = s.pending := by obtain ⟨_, h⟩ := noteEvent_eq s a lo w join; rw [h]
@[simp] theorem noteEvent_fresh (a lo w : Nat) (join : Option Nat → Nat) : (noteEvent a lo w join s).fresh = s.fresh := by obtain ⟨_, h⟩ := noteEvent_eq s a lo w join; rw [h]
@[simp] theorem noteEvent_time (a lo w : Nat) (join : Option Nat → Nat) : (noteEvent a lo w join s).time = s.time := by obtain ⟨_, h⟩ := noteEvent_eq s a lo w join; rw [h]
@[simp] theorem noteEvent_gated (a lo w : Nat) (join : Option Nat → Nat) : (noteEvent a lo w join s).gated = s.gated := by obtain ⟨_, h⟩ := noteEvent_eq s a lo w join; rw [h]
@[simp] theorem noteEvent_regs (a lo w : Nat) (join : Option Nat → Nat) : (noteEvent a lo w join s).regs = s.regs := by obtain ⟨_, h⟩ := noteEvent_eq s a lo w join; rw [h]
@[simp] theorem noteEvent_proof (a lo w : Nat) (join : Option Nat → Nat) : (noteEvent a lo w join s).proof = s.proof := by obtain ⟨_, h⟩ := noteEvent_eq s a lo w join; rw [h]
@[simp] theorem noteEvent_mem (a lo w : Nat) (join : Option Nat → Nat) : (noteEvent a lo w join s).mem = s.mem := by obtain ⟨_, h⟩ := noteEvent_eq s a lo w join; rw [h]
@[simp] theorem noteEvent_ue (a lo w : Nat) (join : Option Nat → Nat) : (noteEvent a lo w join s).ue = s.ue := by obtain ⟨_, h⟩ := noteEvent_eq s a lo w join; rw [h]
@[simp] theorem noteEvent_ce (a lo w : Nat) (join : Option Nat → Nat) : (noteEvent a lo w join s).ce = s.ce := by obtain ⟨_, h⟩ := noteEvent_eq s a lo w join; rw [h]
@[simp] theorem noteEvent_patch (a lo w : Nat) (join : Option Nat → Nat) : (noteEvent a lo w join s).patch = s.patch := by obtain ⟨_, h⟩ := noteEvent_eq s a lo w join; rw [h]
@[simp] theorem noteEvent_wire (a lo w : Nat) (join : Option Nat → Nat) : (noteEvent a lo w join s).wire = s.wire := by obtain ⟨_, h⟩ := noteEvent_eq s a lo w join; rw [h]
@[simp] theorem noteEvent_mode (a lo w : Nat) (join : Option Nat → Nat) : (noteEvent a lo w join s).mode = s.mode := by obtain ⟨_, h⟩ := noteEvent_eq s a lo w join; rw [h]
@[simp] theorem noteEvent_prev (a lo w : Nat) (join : Option Nat → Nat) : (noteEvent a lo w join s).prev = s.prev := by obtain ⟨_, h⟩ := noteEvent_eq s a lo w join; rw [h]
@[simp] theorem noteEvent_cause (a lo w : Nat) (join : Option Nat → Nat) : (noteEvent a lo w join s).cause = s.cause := by obtain ⟨_, h⟩ := noteEvent_eq s a lo w join; rw [h]
@[simp] theorem noteEvent_sealed (a lo w : Nat) (join : Option Nat → Nat) : (noteEvent a lo w join s).sealed = s.sealed := by obtain ⟨_, h⟩ := noteEvent_eq s a lo w join; rw [h]
@[simp] theorem noteEvent_stages (a lo w : Nat) (join : Option Nat → Nat) : (noteEvent a lo w join s).stages = s.stages := by obtain ⟨_, h⟩ := noteEvent_eq s a lo w join; rw [h]
@[simp] theorem noteEvent_latches (a lo w : Nat) (join : Option Nat → Nat) : (noteEvent a lo w join s).latches = s.latches := by obtain ⟨_, h⟩ := noteEvent_eq s a lo w join; rw [h]
@[simp] theorem noteEvent_rdata (a lo w : Nat) (join : Option Nat → Nat) : (noteEvent a lo w join s).rdata = s.rdata := by obtain ⟨_, h⟩ := noteEvent_eq s a lo w join; rw [h]
@[simp] theorem noteEvent_rstat (a lo w : Nat) (join : Option Nat → Nat) : (noteEvent a lo w join s).rstat = s.rstat := by obtain ⟨_, h⟩ := noteEvent_eq s a lo w join; rw [h]
@[simp] theorem noteEvent_cells (a lo w : Nat) (join : Option Nat → Nat) : (noteEvent a lo w join s).cells = s.cells := by obtain ⟨_, h⟩ := noteEvent_eq s a lo w join; rw [h]
@[simp] theorem noteEvent_pair (a lo w : Nat) (join : Option Nat → Nat) : (noteEvent a lo w join s).pair = s.pair := by obtain ⟨_, h⟩ := noteEvent_eq s a lo w join; rw [h]
@[simp] theorem noteEvent_tmr (a lo w : Nat) (join : Option Nat → Nat) : (noteEvent a lo w join s).tmr = s.tmr := by obtain ⟨_, h⟩ := noteEvent_eq s a lo w join; rw [h]
@[simp] theorem noteEvent_dma (a lo w : Nat) (join : Option Nat → Nat) : (noteEvent a lo w join s).dma = s.dma := by obtain ⟨_, h⟩ := noteEvent_eq s a lo w join; rw [h]
@[simp] theorem noteEvent_tester (a lo w : Nat) (join : Option Nat → Nat) : (noteEvent a lo w join s).tester = s.tester := by obtain ⟨_, h⟩ := noteEvent_eq s a lo w join; rw [h]
@[simp] theorem noteEvent_evLatch (a lo w : Nat) (join : Option Nat → Nat) : (noteEvent a lo w join s).evLatch = s.evLatch := by obtain ⟨_, h⟩ := noteEvent_eq s a lo w join; rw [h]
@[simp] theorem noteEvent_evAhead (a lo w : Nat) (join : Option Nat → Nat) : (noteEvent a lo w join s).evAhead = s.evAhead := by obtain ⟨_, h⟩ := noteEvent_eq s a lo w join; rw [h]
@[simp] theorem noteEvent_evBefore (a lo w : Nat) (join : Option Nat → Nat) : (noteEvent a lo w join s).evBefore = s.evBefore := by obtain ⟨_, h⟩ := noteEvent_eq s a lo w join; rw [h]
@[simp] theorem noteEvent_pos (a lo w : Nat) (join : Option Nat → Nat) : (noteEvent a lo w join s).pos = s.pos := by obtain ⟨_, h⟩ := noteEvent_eq s a lo w join; rw [h]
@[simp] theorem noteEvent_cmp (a lo w : Nat) (join : Option Nat → Nat) : (noteEvent a lo w join s).cmp = s.cmp := by obtain ⟨_, h⟩ := noteEvent_eq s a lo w join; rw [h]
@[simp] theorem noteEvent_lst (a lo w : Nat) (join : Option Nat → Nat) : (noteEvent a lo w join s).lst = s.lst := by obtain ⟨_, h⟩ := noteEvent_eq s a lo w join; rw [h]
@[simp] theorem noteEvent_links (a lo w : Nat) (join : Option Nat → Nat) : (noteEvent a lo w join s).links = s.links := by obtain ⟨_, h⟩ := noteEvent_eq s a lo w join; rw [h]
@[simp] theorem noteEvent_wav (a lo w : Nat) (join : Option Nat → Nat) : (noteEvent a lo w join s).wav = s.wav := by obtain ⟨_, h⟩ := noteEvent_eq s a lo w join; rw [h]
@[simp] theorem noteEvent_fab (a lo w : Nat) (join : Option Nat → Nat) : (noteEvent a lo w join s).fab = s.fab := by obtain ⟨_, h⟩ := noteEvent_eq s a lo w join; rw [h]
@[simp] theorem noteEvent_dlk (a lo w : Nat) (join : Option Nat → Nat) : (noteEvent a lo w join s).dlk = s.dlk := by obtain ⟨_, h⟩ := noteEvent_eq s a lo w join; rw [h]
@[simp] theorem noteEvent_egress (a lo w : Nat) (join : Option Nat → Nat) : (noteEvent a lo w join s).egress = s.egress := by obtain ⟨_, h⟩ := noteEvent_eq s a lo w join; rw [h]
@[simp] theorem noteEvent_ingress (a lo w : Nat) (join : Option Nat → Nat) : (noteEvent a lo w join s).ingress = s.ingress := by obtain ⟨_, h⟩ := noteEvent_eq s a lo w join; rw [h]
@[simp] theorem noteEvent_loader (a lo w : Nat) (join : Option Nat → Nat) : (noteEvent a lo w join s).loader = s.loader := by obtain ⟨_, h⟩ := noteEvent_eq s a lo w join; rw [h]
@[simp] theorem noteEvent_syn (a lo w : Nat) (join : Option Nat → Nat) : (noteEvent a lo w join s).syn = s.syn := by obtain ⟨_, h⟩ := noteEvent_eq s a lo w join; rw [h]
@[simp] theorem noteEvent_jtag (a lo w : Nat) (join : Option Nat → Nat) : (noteEvent a lo w join s).jtag = s.jtag := by obtain ⟨_, h⟩ := noteEvent_eq s a lo w join; rw [h]
@[simp] theorem noteEvent_due (a lo w : Nat) (join : Option Nat → Nat) : (noteEvent a lo w join s).due = s.due := by obtain ⟨_, h⟩ := noteEvent_eq s a lo w join; rw [h]
@[simp] theorem noteEvent_first (a lo w : Nat) (join : Option Nat → Nat) : (noteEvent a lo w join s).first = s.first := by obtain ⟨_, h⟩ := noteEvent_eq s a lo w join; rw [h]
@[simp] theorem noteEvent_iLast (a lo w : Nat) (join : Option Nat → Nat) : (noteEvent a lo w join s).iLast = s.iLast := by obtain ⟨_, h⟩ := noteEvent_eq s a lo w join; rw [h]
@[simp] theorem noteEvent_gateBlank (a lo w : Nat) (join : Option Nat → Nat) : (noteEvent a lo w join s).gateBlank = s.gateBlank := by obtain ⟨_, h⟩ := noteEvent_eq s a lo w join; rw [h]
@[simp] theorem noteEvent_blankDue (a lo w : Nat) (join : Option Nat → Nat) : (noteEvent a lo w join s).blankDue = s.blankDue := by obtain ⟨_, h⟩ := noteEvent_eq s a lo w join; rw [h]
@[simp] theorem noteEvent_forcedAt (a lo w : Nat) (join : Option Nat → Nat) : (noteEvent a lo w join s).forcedAt = s.forcedAt := by obtain ⟨_, h⟩ := noteEvent_eq s a lo w join; rw [h]
@[simp] theorem noteEvent_proofAt (a lo w : Nat) (join : Option Nat → Nat) : (noteEvent a lo w join s).proofAt = s.proofAt := by obtain ⟨_, h⟩ := noteEvent_eq s a lo w join; rw [h]
@[simp] theorem noteEvent_sleepEntry (a lo w : Nat) (join : Option Nat → Nat) : (noteEvent a lo w join s).sleepEntry = s.sleepEntry := by obtain ⟨_, h⟩ := noteEvent_eq s a lo w join; rw [h]
@[simp] theorem noteEvent_waking (a lo w : Nat) (join : Option Nat → Nat) : (noteEvent a lo w join s).waking = s.waking := by obtain ⟨_, h⟩ := noteEvent_eq s a lo w join; rw [h]
@[simp] theorem noteEvent_tmrStopped (a lo w : Nat) (join : Option Nat → Nat) : (noteEvent a lo w join s).tmrStopped = s.tmrStopped := by obtain ⟨_, h⟩ := noteEvent_eq s a lo w join; rw [h]
@[simp] theorem noteEvent_sleepRatio (a lo w : Nat) (join : Option Nat → Nat) : (noteEvent a lo w join s).sleepRatio = s.sleepRatio := by obtain ⟨_, h⟩ := noteEvent_eq s a lo w join; rw [h]
@[simp] theorem noteEvent_slowRatio (a lo w : Nat) (join : Option Nat → Nat) : (noteEvent a lo w join s).slowRatio = s.slowRatio := by obtain ⟨_, h⟩ := noteEvent_eq s a lo w join; rw [h]
@[simp] theorem noteEvent_slowAt (a lo w : Nat) (join : Option Nat → Nat) : (noteEvent a lo w join s).slowAt = s.slowAt := by obtain ⟨_, h⟩ := noteEvent_eq s a lo w join; rw [h]
@[simp] theorem noteEvent_wdAt (a lo w : Nat) (join : Option Nat → Nat) : (noteEvent a lo w join s).wdAt = s.wdAt := by obtain ⟨_, h⟩ := noteEvent_eq s a lo w join; rw [h]
@[simp] theorem noteEvent_img (a lo w : Nat) (join : Option Nat → Nat) : (noteEvent a lo w join s).img = s.img := by obtain ⟨_, h⟩ := noteEvent_eq s a lo w join; rw [h]

/-! ### addSat -/

/-- All that a saturating counter can do: its register, and the record of this core cycle. -/
theorem addSat_eq (a lo w n : Nat) :
    ∃ (r : Tab Word) (y : Cyc), addSat a lo w n s = { s with regs := r, cyc := y } := by
  unfold addSat
  split
  · exact ⟨_, _, rfl⟩
  · obtain ⟨y, h⟩ := noteEvent_eq s a lo w (fun k => min (2 ^ w - 1) (k.getD 0 + n))
    rw [h]; exact ⟨_, y, rfl⟩


@[simp] theorem addSat_pending (a lo w n : Nat) : (addSat a lo w n s).pending = s.pending := by obtain ⟨_, _, h⟩ := addSat_eq s a lo w n; rw [h]
@[simp] theorem addSat_fresh (a lo w n : Nat) : (addSat a lo w n s).fresh = s.fresh := by obtain ⟨_, _, h⟩ := addSat_eq s a lo w n; rw [h]
@[simp] theorem addSat_time (a lo w n : Nat) : (addSat a lo w n s).time = s.time := by obtain ⟨_, _, h⟩ := addSat_eq s a lo w n; rw [h]
@[simp] theorem addSat_gated (a lo w n : Nat) : (addSat a lo w n s).gated = s.gated := by obtain ⟨_, _, h⟩ := addSat_eq s a lo w n; rw [h]
@[simp] theorem addSat_proof (a lo w n : Nat) : (addSat a lo w n s).proof = s.proof := by obtain ⟨_, _, h⟩ := addSat_eq s a lo w n; rw [h]
@[simp] theorem addSat_mem (a lo w n : Nat) : (addSat a lo w n s).mem = s.mem := by obtain ⟨_, _, h⟩ := addSat_eq s a lo w n; rw [h]
@[simp] theorem addSat_ue (a lo w n : Nat) : (addSat a lo w n s).ue = s.ue := by obtain ⟨_, _, h⟩ := addSat_eq s a lo w n; rw [h]
@[simp] theorem addSat_ce (a lo w n : Nat) : (addSat a lo w n s).ce = s.ce := by obtain ⟨_, _, h⟩ := addSat_eq s a lo w n; rw [h]
@[simp] theorem addSat_patch (a lo w n : Nat) : (addSat a lo w n s).patch = s.patch := by obtain ⟨_, _, h⟩ := addSat_eq s a lo w n; rw [h]
@[simp] theorem addSat_wire (a lo w n : Nat) : (addSat a lo w n s).wire = s.wire := by obtain ⟨_, _, h⟩ := addSat_eq s a lo w n; rw [h]
@[simp] theorem addSat_mode (a lo w n : Nat) : (addSat a lo w n s).mode = s.mode := by obtain ⟨_, _, h⟩ := addSat_eq s a lo w n; rw [h]
@[simp] theorem addSat_prev (a lo w n : Nat) : (addSat a lo w n s).prev = s.prev := by obtain ⟨_, _, h⟩ := addSat_eq s a lo w n; rw [h]
@[simp] theorem addSat_cause (a lo w n : Nat) : (addSat a lo w n s).cause = s.cause := by obtain ⟨_, _, h⟩ := addSat_eq s a lo w n; rw [h]
@[simp] theorem addSat_sealed (a lo w n : Nat) : (addSat a lo w n s).sealed = s.sealed := by obtain ⟨_, _, h⟩ := addSat_eq s a lo w n; rw [h]
@[simp] theorem addSat_stages (a lo w n : Nat) : (addSat a lo w n s).stages = s.stages := by obtain ⟨_, _, h⟩ := addSat_eq s a lo w n; rw [h]
@[simp] theorem addSat_latches (a lo w n : Nat) : (addSat a lo w n s).latches = s.latches := by obtain ⟨_, _, h⟩ := addSat_eq s a lo w n; rw [h]
@[simp] theorem addSat_rdata (a lo w n : Nat) : (addSat a lo w n s).rdata = s.rdata := by obtain ⟨_, _, h⟩ := addSat_eq s a lo w n; rw [h]
@[simp] theorem addSat_rstat (a lo w n : Nat) : (addSat a lo w n s).rstat = s.rstat := by obtain ⟨_, _, h⟩ := addSat_eq s a lo w n; rw [h]
@[simp] theorem addSat_cells (a lo w n : Nat) : (addSat a lo w n s).cells = s.cells := by obtain ⟨_, _, h⟩ := addSat_eq s a lo w n; rw [h]
@[simp] theorem addSat_pair (a lo w n : Nat) : (addSat a lo w n s).pair = s.pair := by obtain ⟨_, _, h⟩ := addSat_eq s a lo w n; rw [h]
@[simp] theorem addSat_tmr (a lo w n : Nat) : (addSat a lo w n s).tmr = s.tmr := by obtain ⟨_, _, h⟩ := addSat_eq s a lo w n; rw [h]
@[simp] theorem addSat_dma (a lo w n : Nat) : (addSat a lo w n s).dma = s.dma := by obtain ⟨_, _, h⟩ := addSat_eq s a lo w n; rw [h]
@[simp] theorem addSat_tester (a lo w n : Nat) : (addSat a lo w n s).tester = s.tester := by obtain ⟨_, _, h⟩ := addSat_eq s a lo w n; rw [h]
@[simp] theorem addSat_evLatch (a lo w n : Nat) : (addSat a lo w n s).evLatch = s.evLatch := by obtain ⟨_, _, h⟩ := addSat_eq s a lo w n; rw [h]
@[simp] theorem addSat_evAhead (a lo w n : Nat) : (addSat a lo w n s).evAhead = s.evAhead := by obtain ⟨_, _, h⟩ := addSat_eq s a lo w n; rw [h]
@[simp] theorem addSat_evBefore (a lo w n : Nat) : (addSat a lo w n s).evBefore = s.evBefore := by obtain ⟨_, _, h⟩ := addSat_eq s a lo w n; rw [h]
@[simp] theorem addSat_pos (a lo w n : Nat) : (addSat a lo w n s).pos = s.pos := by obtain ⟨_, _, h⟩ := addSat_eq s a lo w n; rw [h]
@[simp] theorem addSat_cmp (a lo w n : Nat) : (addSat a lo w n s).cmp = s.cmp := by obtain ⟨_, _, h⟩ := addSat_eq s a lo w n; rw [h]
@[simp] theorem addSat_lst (a lo w n : Nat) : (addSat a lo w n s).lst = s.lst := by obtain ⟨_, _, h⟩ := addSat_eq s a lo w n; rw [h]
@[simp] theorem addSat_links (a lo w n : Nat) : (addSat a lo w n s).links = s.links := by obtain ⟨_, _, h⟩ := addSat_eq s a lo w n; rw [h]
@[simp] theorem addSat_wav (a lo w n : Nat) : (addSat a lo w n s).wav = s.wav := by obtain ⟨_, _, h⟩ := addSat_eq s a lo w n; rw [h]
@[simp] theorem addSat_fab (a lo w n : Nat) : (addSat a lo w n s).fab = s.fab := by obtain ⟨_, _, h⟩ := addSat_eq s a lo w n; rw [h]
@[simp] theorem addSat_dlk (a lo w n : Nat) : (addSat a lo w n s).dlk = s.dlk := by obtain ⟨_, _, h⟩ := addSat_eq s a lo w n; rw [h]
@[simp] theorem addSat_egress (a lo w n : Nat) : (addSat a lo w n s).egress = s.egress := by obtain ⟨_, _, h⟩ := addSat_eq s a lo w n; rw [h]
@[simp] theorem addSat_ingress (a lo w n : Nat) : (addSat a lo w n s).ingress = s.ingress := by obtain ⟨_, _, h⟩ := addSat_eq s a lo w n; rw [h]
@[simp] theorem addSat_loader (a lo w n : Nat) : (addSat a lo w n s).loader = s.loader := by obtain ⟨_, _, h⟩ := addSat_eq s a lo w n; rw [h]
@[simp] theorem addSat_syn (a lo w n : Nat) : (addSat a lo w n s).syn = s.syn := by obtain ⟨_, _, h⟩ := addSat_eq s a lo w n; rw [h]
@[simp] theorem addSat_jtag (a lo w n : Nat) : (addSat a lo w n s).jtag = s.jtag := by obtain ⟨_, _, h⟩ := addSat_eq s a lo w n; rw [h]
@[simp] theorem addSat_due (a lo w n : Nat) : (addSat a lo w n s).due = s.due := by obtain ⟨_, _, h⟩ := addSat_eq s a lo w n; rw [h]
@[simp] theorem addSat_first (a lo w n : Nat) : (addSat a lo w n s).first = s.first := by obtain ⟨_, _, h⟩ := addSat_eq s a lo w n; rw [h]
@[simp] theorem addSat_iLast (a lo w n : Nat) : (addSat a lo w n s).iLast = s.iLast := by obtain ⟨_, _, h⟩ := addSat_eq s a lo w n; rw [h]
@[simp] theorem addSat_gateBlank (a lo w n : Nat) : (addSat a lo w n s).gateBlank = s.gateBlank := by obtain ⟨_, _, h⟩ := addSat_eq s a lo w n; rw [h]
@[simp] theorem addSat_blankDue (a lo w n : Nat) : (addSat a lo w n s).blankDue = s.blankDue := by obtain ⟨_, _, h⟩ := addSat_eq s a lo w n; rw [h]
@[simp] theorem addSat_forcedAt (a lo w n : Nat) : (addSat a lo w n s).forcedAt = s.forcedAt := by obtain ⟨_, _, h⟩ := addSat_eq s a lo w n; rw [h]
@[simp] theorem addSat_proofAt (a lo w n : Nat) : (addSat a lo w n s).proofAt = s.proofAt := by obtain ⟨_, _, h⟩ := addSat_eq s a lo w n; rw [h]
@[simp] theorem addSat_sleepEntry (a lo w n : Nat) : (addSat a lo w n s).sleepEntry = s.sleepEntry := by obtain ⟨_, _, h⟩ := addSat_eq s a lo w n; rw [h]
@[simp] theorem addSat_waking (a lo w n : Nat) : (addSat a lo w n s).waking = s.waking := by obtain ⟨_, _, h⟩ := addSat_eq s a lo w n; rw [h]
@[simp] theorem addSat_tmrStopped (a lo w n : Nat) : (addSat a lo w n s).tmrStopped = s.tmrStopped := by obtain ⟨_, _, h⟩ := addSat_eq s a lo w n; rw [h]
@[simp] theorem addSat_sleepRatio (a lo w n : Nat) : (addSat a lo w n s).sleepRatio = s.sleepRatio := by obtain ⟨_, _, h⟩ := addSat_eq s a lo w n; rw [h]
@[simp] theorem addSat_slowRatio (a lo w n : Nat) : (addSat a lo w n s).slowRatio = s.slowRatio := by obtain ⟨_, _, h⟩ := addSat_eq s a lo w n; rw [h]
@[simp] theorem addSat_slowAt (a lo w n : Nat) : (addSat a lo w n s).slowAt = s.slowAt := by obtain ⟨_, _, h⟩ := addSat_eq s a lo w n; rw [h]
@[simp] theorem addSat_wdAt (a lo w n : Nat) : (addSat a lo w n s).wdAt = s.wdAt := by obtain ⟨_, _, h⟩ := addSat_eq s a lo w n; rw [h]
@[simp] theorem addSat_img (a lo w n : Nat) : (addSat a lo w n s).img = s.img := by obtain ⟨_, _, h⟩ := addSat_eq s a lo w n; rw [h]

/-! ### keepMin -/

/-- All that the smallest value kept can do. -/
theorem keepMin_eq (a lo w x : Nat) :
    ∃ (r : Tab Word) (y : Cyc), keepMin a lo w x s = { s with regs := r, cyc := y } := by
  unfold keepMin
  obtain ⟨y, h⟩ := noteEvent_eq s a lo w (fun k => min (k.getD (2 ^ w - 1)) x)
  rw [h]
  dsimp only
  split
  · exact ⟨_, y, rfl⟩
  · exact ⟨_, y, rfl⟩


@[simp] theorem keepMin_pending (a lo w x : Nat) : (keepMin a lo w x s).pending = s.pending := by obtain ⟨_, _, h⟩ := keepMin_eq s a lo w x; rw [h]
@[simp] theorem keepMin_fresh (a lo w x : Nat) : (keepMin a lo w x s).fresh = s.fresh := by obtain ⟨_, _, h⟩ := keepMin_eq s a lo w x; rw [h]
@[simp] theorem keepMin_time (a lo w x : Nat) : (keepMin a lo w x s).time = s.time := by obtain ⟨_, _, h⟩ := keepMin_eq s a lo w x; rw [h]
@[simp] theorem keepMin_gated (a lo w x : Nat) : (keepMin a lo w x s).gated = s.gated := by obtain ⟨_, _, h⟩ := keepMin_eq s a lo w x; rw [h]
@[simp] theorem keepMin_proof (a lo w x : Nat) : (keepMin a lo w x s).proof = s.proof := by obtain ⟨_, _, h⟩ := keepMin_eq s a lo w x; rw [h]
@[simp] theorem keepMin_mem (a lo w x : Nat) : (keepMin a lo w x s).mem = s.mem := by obtain ⟨_, _, h⟩ := keepMin_eq s a lo w x; rw [h]
@[simp] theorem keepMin_ue (a lo w x : Nat) : (keepMin a lo w x s).ue = s.ue := by obtain ⟨_, _, h⟩ := keepMin_eq s a lo w x; rw [h]
@[simp] theorem keepMin_ce (a lo w x : Nat) : (keepMin a lo w x s).ce = s.ce := by obtain ⟨_, _, h⟩ := keepMin_eq s a lo w x; rw [h]
@[simp] theorem keepMin_patch (a lo w x : Nat) : (keepMin a lo w x s).patch = s.patch := by obtain ⟨_, _, h⟩ := keepMin_eq s a lo w x; rw [h]
@[simp] theorem keepMin_wire (a lo w x : Nat) : (keepMin a lo w x s).wire = s.wire := by obtain ⟨_, _, h⟩ := keepMin_eq s a lo w x; rw [h]
@[simp] theorem keepMin_mode (a lo w x : Nat) : (keepMin a lo w x s).mode = s.mode := by obtain ⟨_, _, h⟩ := keepMin_eq s a lo w x; rw [h]
@[simp] theorem keepMin_prev (a lo w x : Nat) : (keepMin a lo w x s).prev = s.prev := by obtain ⟨_, _, h⟩ := keepMin_eq s a lo w x; rw [h]
@[simp] theorem keepMin_cause (a lo w x : Nat) : (keepMin a lo w x s).cause = s.cause := by obtain ⟨_, _, h⟩ := keepMin_eq s a lo w x; rw [h]
@[simp] theorem keepMin_sealed (a lo w x : Nat) : (keepMin a lo w x s).sealed = s.sealed := by obtain ⟨_, _, h⟩ := keepMin_eq s a lo w x; rw [h]
@[simp] theorem keepMin_stages (a lo w x : Nat) : (keepMin a lo w x s).stages = s.stages := by obtain ⟨_, _, h⟩ := keepMin_eq s a lo w x; rw [h]
@[simp] theorem keepMin_latches (a lo w x : Nat) : (keepMin a lo w x s).latches = s.latches := by obtain ⟨_, _, h⟩ := keepMin_eq s a lo w x; rw [h]
@[simp] theorem keepMin_rdata (a lo w x : Nat) : (keepMin a lo w x s).rdata = s.rdata := by obtain ⟨_, _, h⟩ := keepMin_eq s a lo w x; rw [h]
@[simp] theorem keepMin_rstat (a lo w x : Nat) : (keepMin a lo w x s).rstat = s.rstat := by obtain ⟨_, _, h⟩ := keepMin_eq s a lo w x; rw [h]
@[simp] theorem keepMin_cells (a lo w x : Nat) : (keepMin a lo w x s).cells = s.cells := by obtain ⟨_, _, h⟩ := keepMin_eq s a lo w x; rw [h]
@[simp] theorem keepMin_pair (a lo w x : Nat) : (keepMin a lo w x s).pair = s.pair := by obtain ⟨_, _, h⟩ := keepMin_eq s a lo w x; rw [h]
@[simp] theorem keepMin_tmr (a lo w x : Nat) : (keepMin a lo w x s).tmr = s.tmr := by obtain ⟨_, _, h⟩ := keepMin_eq s a lo w x; rw [h]
@[simp] theorem keepMin_dma (a lo w x : Nat) : (keepMin a lo w x s).dma = s.dma := by obtain ⟨_, _, h⟩ := keepMin_eq s a lo w x; rw [h]
@[simp] theorem keepMin_tester (a lo w x : Nat) : (keepMin a lo w x s).tester = s.tester := by obtain ⟨_, _, h⟩ := keepMin_eq s a lo w x; rw [h]
@[simp] theorem keepMin_evLatch (a lo w x : Nat) : (keepMin a lo w x s).evLatch = s.evLatch := by obtain ⟨_, _, h⟩ := keepMin_eq s a lo w x; rw [h]
@[simp] theorem keepMin_evAhead (a lo w x : Nat) : (keepMin a lo w x s).evAhead = s.evAhead := by obtain ⟨_, _, h⟩ := keepMin_eq s a lo w x; rw [h]
@[simp] theorem keepMin_evBefore (a lo w x : Nat) : (keepMin a lo w x s).evBefore = s.evBefore := by obtain ⟨_, _, h⟩ := keepMin_eq s a lo w x; rw [h]
@[simp] theorem keepMin_pos (a lo w x : Nat) : (keepMin a lo w x s).pos = s.pos := by obtain ⟨_, _, h⟩ := keepMin_eq s a lo w x; rw [h]
@[simp] theorem keepMin_cmp (a lo w x : Nat) : (keepMin a lo w x s).cmp = s.cmp := by obtain ⟨_, _, h⟩ := keepMin_eq s a lo w x; rw [h]
@[simp] theorem keepMin_lst (a lo w x : Nat) : (keepMin a lo w x s).lst = s.lst := by obtain ⟨_, _, h⟩ := keepMin_eq s a lo w x; rw [h]
@[simp] theorem keepMin_links (a lo w x : Nat) : (keepMin a lo w x s).links = s.links := by obtain ⟨_, _, h⟩ := keepMin_eq s a lo w x; rw [h]
@[simp] theorem keepMin_wav (a lo w x : Nat) : (keepMin a lo w x s).wav = s.wav := by obtain ⟨_, _, h⟩ := keepMin_eq s a lo w x; rw [h]
@[simp] theorem keepMin_fab (a lo w x : Nat) : (keepMin a lo w x s).fab = s.fab := by obtain ⟨_, _, h⟩ := keepMin_eq s a lo w x; rw [h]
@[simp] theorem keepMin_dlk (a lo w x : Nat) : (keepMin a lo w x s).dlk = s.dlk := by obtain ⟨_, _, h⟩ := keepMin_eq s a lo w x; rw [h]
@[simp] theorem keepMin_egress (a lo w x : Nat) : (keepMin a lo w x s).egress = s.egress := by obtain ⟨_, _, h⟩ := keepMin_eq s a lo w x; rw [h]
@[simp] theorem keepMin_ingress (a lo w x : Nat) : (keepMin a lo w x s).ingress = s.ingress := by obtain ⟨_, _, h⟩ := keepMin_eq s a lo w x; rw [h]
@[simp] theorem keepMin_loader (a lo w x : Nat) : (keepMin a lo w x s).loader = s.loader := by obtain ⟨_, _, h⟩ := keepMin_eq s a lo w x; rw [h]
@[simp] theorem keepMin_syn (a lo w x : Nat) : (keepMin a lo w x s).syn = s.syn := by obtain ⟨_, _, h⟩ := keepMin_eq s a lo w x; rw [h]
@[simp] theorem keepMin_jtag (a lo w x : Nat) : (keepMin a lo w x s).jtag = s.jtag := by obtain ⟨_, _, h⟩ := keepMin_eq s a lo w x; rw [h]
@[simp] theorem keepMin_due (a lo w x : Nat) : (keepMin a lo w x s).due = s.due := by obtain ⟨_, _, h⟩ := keepMin_eq s a lo w x; rw [h]
@[simp] theorem keepMin_first (a lo w x : Nat) : (keepMin a lo w x s).first = s.first := by obtain ⟨_, _, h⟩ := keepMin_eq s a lo w x; rw [h]
@[simp] theorem keepMin_iLast (a lo w x : Nat) : (keepMin a lo w x s).iLast = s.iLast := by obtain ⟨_, _, h⟩ := keepMin_eq s a lo w x; rw [h]
@[simp] theorem keepMin_gateBlank (a lo w x : Nat) : (keepMin a lo w x s).gateBlank = s.gateBlank := by obtain ⟨_, _, h⟩ := keepMin_eq s a lo w x; rw [h]
@[simp] theorem keepMin_blankDue (a lo w x : Nat) : (keepMin a lo w x s).blankDue = s.blankDue := by obtain ⟨_, _, h⟩ := keepMin_eq s a lo w x; rw [h]
@[simp] theorem keepMin_forcedAt (a lo w x : Nat) : (keepMin a lo w x s).forcedAt = s.forcedAt := by obtain ⟨_, _, h⟩ := keepMin_eq s a lo w x; rw [h]
@[simp] theorem keepMin_proofAt (a lo w x : Nat) : (keepMin a lo w x s).proofAt = s.proofAt := by obtain ⟨_, _, h⟩ := keepMin_eq s a lo w x; rw [h]
@[simp] theorem keepMin_sleepEntry (a lo w x : Nat) : (keepMin a lo w x s).sleepEntry = s.sleepEntry := by obtain ⟨_, _, h⟩ := keepMin_eq s a lo w x; rw [h]
@[simp] theorem keepMin_waking (a lo w x : Nat) : (keepMin a lo w x s).waking = s.waking := by obtain ⟨_, _, h⟩ := keepMin_eq s a lo w x; rw [h]
@[simp] theorem keepMin_tmrStopped (a lo w x : Nat) : (keepMin a lo w x s).tmrStopped = s.tmrStopped := by obtain ⟨_, _, h⟩ := keepMin_eq s a lo w x; rw [h]
@[simp] theorem keepMin_sleepRatio (a lo w x : Nat) : (keepMin a lo w x s).sleepRatio = s.sleepRatio := by obtain ⟨_, _, h⟩ := keepMin_eq s a lo w x; rw [h]
@[simp] theorem keepMin_slowRatio (a lo w x : Nat) : (keepMin a lo w x s).slowRatio = s.slowRatio := by obtain ⟨_, _, h⟩ := keepMin_eq s a lo w x; rw [h]
@[simp] theorem keepMin_slowAt (a lo w x : Nat) : (keepMin a lo w x s).slowAt = s.slowAt := by obtain ⟨_, _, h⟩ := keepMin_eq s a lo w x; rw [h]
@[simp] theorem keepMin_wdAt (a lo w x : Nat) : (keepMin a lo w x s).wdAt = s.wdAt := by obtain ⟨_, _, h⟩ := keepMin_eq s a lo w x; rw [h]
@[simp] theorem keepMin_img (a lo w x : Nat) : (keepMin a lo w x s).img = s.img := by obtain ⟨_, _, h⟩ := keepMin_eq s a lo w x; rw [h]

/-! ### keepMax -/

/-- All that the largest value kept can do. -/
theorem keepMax_eq (a lo w x : Nat) :
    ∃ (r : Tab Word) (y : Cyc), keepMax a lo w x s = { s with regs := r, cyc := y } := by
  unfold keepMax
  obtain ⟨y, h⟩ := noteEvent_eq s a lo w (fun k => max (k.getD 0) x)
  rw [h]
  dsimp only
  split
  · exact ⟨_, y, rfl⟩
  · exact ⟨_, y, rfl⟩


@[simp] theorem keepMax_pending (a lo w x : Nat) : (keepMax a lo w x s).pending = s.pending := by obtain ⟨_, _, h⟩ := keepMax_eq s a lo w x; rw [h]
@[simp] theorem keepMax_fresh (a lo w x : Nat) : (keepMax a lo w x s).fresh = s.fresh := by obtain ⟨_, _, h⟩ := keepMax_eq s a lo w x; rw [h]
@[simp] theorem keepMax_time (a lo w x : Nat) : (keepMax a lo w x s).time = s.time := by obtain ⟨_, _, h⟩ := keepMax_eq s a lo w x; rw [h]
@[simp] theorem keepMax_gated (a lo w x : Nat) : (keepMax a lo w x s).gated = s.gated := by obtain ⟨_, _, h⟩ := keepMax_eq s a lo w x; rw [h]
@[simp] theorem keepMax_proof (a lo w x : Nat) : (keepMax a lo w x s).proof = s.proof := by obtain ⟨_, _, h⟩ := keepMax_eq s a lo w x; rw [h]
@[simp] theorem keepMax_mem (a lo w x : Nat) : (keepMax a lo w x s).mem = s.mem := by obtain ⟨_, _, h⟩ := keepMax_eq s a lo w x; rw [h]
@[simp] theorem keepMax_ue (a lo w x : Nat) : (keepMax a lo w x s).ue = s.ue := by obtain ⟨_, _, h⟩ := keepMax_eq s a lo w x; rw [h]
@[simp] theorem keepMax_ce (a lo w x : Nat) : (keepMax a lo w x s).ce = s.ce := by obtain ⟨_, _, h⟩ := keepMax_eq s a lo w x; rw [h]
@[simp] theorem keepMax_patch (a lo w x : Nat) : (keepMax a lo w x s).patch = s.patch := by obtain ⟨_, _, h⟩ := keepMax_eq s a lo w x; rw [h]
@[simp] theorem keepMax_wire (a lo w x : Nat) : (keepMax a lo w x s).wire = s.wire := by obtain ⟨_, _, h⟩ := keepMax_eq s a lo w x; rw [h]
@[simp] theorem keepMax_mode (a lo w x : Nat) : (keepMax a lo w x s).mode = s.mode := by obtain ⟨_, _, h⟩ := keepMax_eq s a lo w x; rw [h]
@[simp] theorem keepMax_prev (a lo w x : Nat) : (keepMax a lo w x s).prev = s.prev := by obtain ⟨_, _, h⟩ := keepMax_eq s a lo w x; rw [h]
@[simp] theorem keepMax_cause (a lo w x : Nat) : (keepMax a lo w x s).cause = s.cause := by obtain ⟨_, _, h⟩ := keepMax_eq s a lo w x; rw [h]
@[simp] theorem keepMax_sealed (a lo w x : Nat) : (keepMax a lo w x s).sealed = s.sealed := by obtain ⟨_, _, h⟩ := keepMax_eq s a lo w x; rw [h]
@[simp] theorem keepMax_stages (a lo w x : Nat) : (keepMax a lo w x s).stages = s.stages := by obtain ⟨_, _, h⟩ := keepMax_eq s a lo w x; rw [h]
@[simp] theorem keepMax_latches (a lo w x : Nat) : (keepMax a lo w x s).latches = s.latches := by obtain ⟨_, _, h⟩ := keepMax_eq s a lo w x; rw [h]
@[simp] theorem keepMax_rdata (a lo w x : Nat) : (keepMax a lo w x s).rdata = s.rdata := by obtain ⟨_, _, h⟩ := keepMax_eq s a lo w x; rw [h]
@[simp] theorem keepMax_rstat (a lo w x : Nat) : (keepMax a lo w x s).rstat = s.rstat := by obtain ⟨_, _, h⟩ := keepMax_eq s a lo w x; rw [h]
@[simp] theorem keepMax_cells (a lo w x : Nat) : (keepMax a lo w x s).cells = s.cells := by obtain ⟨_, _, h⟩ := keepMax_eq s a lo w x; rw [h]
@[simp] theorem keepMax_pair (a lo w x : Nat) : (keepMax a lo w x s).pair = s.pair := by obtain ⟨_, _, h⟩ := keepMax_eq s a lo w x; rw [h]
@[simp] theorem keepMax_tmr (a lo w x : Nat) : (keepMax a lo w x s).tmr = s.tmr := by obtain ⟨_, _, h⟩ := keepMax_eq s a lo w x; rw [h]
@[simp] theorem keepMax_dma (a lo w x : Nat) : (keepMax a lo w x s).dma = s.dma := by obtain ⟨_, _, h⟩ := keepMax_eq s a lo w x; rw [h]
@[simp] theorem keepMax_tester (a lo w x : Nat) : (keepMax a lo w x s).tester = s.tester := by obtain ⟨_, _, h⟩ := keepMax_eq s a lo w x; rw [h]
@[simp] theorem keepMax_evLatch (a lo w x : Nat) : (keepMax a lo w x s).evLatch = s.evLatch := by obtain ⟨_, _, h⟩ := keepMax_eq s a lo w x; rw [h]
@[simp] theorem keepMax_evAhead (a lo w x : Nat) : (keepMax a lo w x s).evAhead = s.evAhead := by obtain ⟨_, _, h⟩ := keepMax_eq s a lo w x; rw [h]
@[simp] theorem keepMax_evBefore (a lo w x : Nat) : (keepMax a lo w x s).evBefore = s.evBefore := by obtain ⟨_, _, h⟩ := keepMax_eq s a lo w x; rw [h]
@[simp] theorem keepMax_pos (a lo w x : Nat) : (keepMax a lo w x s).pos = s.pos := by obtain ⟨_, _, h⟩ := keepMax_eq s a lo w x; rw [h]
@[simp] theorem keepMax_cmp (a lo w x : Nat) : (keepMax a lo w x s).cmp = s.cmp := by obtain ⟨_, _, h⟩ := keepMax_eq s a lo w x; rw [h]
@[simp] theorem keepMax_lst (a lo w x : Nat) : (keepMax a lo w x s).lst = s.lst := by obtain ⟨_, _, h⟩ := keepMax_eq s a lo w x; rw [h]
@[simp] theorem keepMax_links (a lo w x : Nat) : (keepMax a lo w x s).links = s.links := by obtain ⟨_, _, h⟩ := keepMax_eq s a lo w x; rw [h]
@[simp] theorem keepMax_wav (a lo w x : Nat) : (keepMax a lo w x s).wav = s.wav := by obtain ⟨_, _, h⟩ := keepMax_eq s a lo w x; rw [h]
@[simp] theorem keepMax_fab (a lo w x : Nat) : (keepMax a lo w x s).fab = s.fab := by obtain ⟨_, _, h⟩ := keepMax_eq s a lo w x; rw [h]
@[simp] theorem keepMax_dlk (a lo w x : Nat) : (keepMax a lo w x s).dlk = s.dlk := by obtain ⟨_, _, h⟩ := keepMax_eq s a lo w x; rw [h]
@[simp] theorem keepMax_egress (a lo w x : Nat) : (keepMax a lo w x s).egress = s.egress := by obtain ⟨_, _, h⟩ := keepMax_eq s a lo w x; rw [h]
@[simp] theorem keepMax_ingress (a lo w x : Nat) : (keepMax a lo w x s).ingress = s.ingress := by obtain ⟨_, _, h⟩ := keepMax_eq s a lo w x; rw [h]
@[simp] theorem keepMax_loader (a lo w x : Nat) : (keepMax a lo w x s).loader = s.loader := by obtain ⟨_, _, h⟩ := keepMax_eq s a lo w x; rw [h]
@[simp] theorem keepMax_syn (a lo w x : Nat) : (keepMax a lo w x s).syn = s.syn := by obtain ⟨_, _, h⟩ := keepMax_eq s a lo w x; rw [h]
@[simp] theorem keepMax_jtag (a lo w x : Nat) : (keepMax a lo w x s).jtag = s.jtag := by obtain ⟨_, _, h⟩ := keepMax_eq s a lo w x; rw [h]
@[simp] theorem keepMax_due (a lo w x : Nat) : (keepMax a lo w x s).due = s.due := by obtain ⟨_, _, h⟩ := keepMax_eq s a lo w x; rw [h]
@[simp] theorem keepMax_first (a lo w x : Nat) : (keepMax a lo w x s).first = s.first := by obtain ⟨_, _, h⟩ := keepMax_eq s a lo w x; rw [h]
@[simp] theorem keepMax_iLast (a lo w x : Nat) : (keepMax a lo w x s).iLast = s.iLast := by obtain ⟨_, _, h⟩ := keepMax_eq s a lo w x; rw [h]
@[simp] theorem keepMax_gateBlank (a lo w x : Nat) : (keepMax a lo w x s).gateBlank = s.gateBlank := by obtain ⟨_, _, h⟩ := keepMax_eq s a lo w x; rw [h]
@[simp] theorem keepMax_blankDue (a lo w x : Nat) : (keepMax a lo w x s).blankDue = s.blankDue := by obtain ⟨_, _, h⟩ := keepMax_eq s a lo w x; rw [h]
@[simp] theorem keepMax_forcedAt (a lo w x : Nat) : (keepMax a lo w x s).forcedAt = s.forcedAt := by obtain ⟨_, _, h⟩ := keepMax_eq s a lo w x; rw [h]
@[simp] theorem keepMax_proofAt (a lo w x : Nat) : (keepMax a lo w x s).proofAt = s.proofAt := by obtain ⟨_, _, h⟩ := keepMax_eq s a lo w x; rw [h]
@[simp] theorem keepMax_sleepEntry (a lo w x : Nat) : (keepMax a lo w x s).sleepEntry = s.sleepEntry := by obtain ⟨_, _, h⟩ := keepMax_eq s a lo w x; rw [h]
@[simp] theorem keepMax_waking (a lo w x : Nat) : (keepMax a lo w x s).waking = s.waking := by obtain ⟨_, _, h⟩ := keepMax_eq s a lo w x; rw [h]
@[simp] theorem keepMax_tmrStopped (a lo w x : Nat) : (keepMax a lo w x s).tmrStopped = s.tmrStopped := by obtain ⟨_, _, h⟩ := keepMax_eq s a lo w x; rw [h]
@[simp] theorem keepMax_sleepRatio (a lo w x : Nat) : (keepMax a lo w x s).sleepRatio = s.sleepRatio := by obtain ⟨_, _, h⟩ := keepMax_eq s a lo w x; rw [h]
@[simp] theorem keepMax_slowRatio (a lo w x : Nat) : (keepMax a lo w x s).slowRatio = s.slowRatio := by obtain ⟨_, _, h⟩ := keepMax_eq s a lo w x; rw [h]
@[simp] theorem keepMax_slowAt (a lo w x : Nat) : (keepMax a lo w x s).slowAt = s.slowAt := by obtain ⟨_, _, h⟩ := keepMax_eq s a lo w x; rw [h]
@[simp] theorem keepMax_wdAt (a lo w x : Nat) : (keepMax a lo w x s).wdAt = s.wdAt := by obtain ⟨_, _, h⟩ := keepMax_eq s a lo w x; rw [h]
@[simp] theorem keepMax_img (a lo w x : Nat) : (keepMax a lo w x s).img = s.img := by obtain ⟨_, _, h⟩ := keepMax_eq s a lo w x; rw [h]

/-! ### drawn -/

@[simp] theorem drawn_pending  : (drawn s).pending = s.pending := (rfl)
@[simp] theorem drawn_time  : (drawn s).time = s.time := (rfl)
@[simp] theorem drawn_gated  : (drawn s).gated = s.gated := (rfl)
@[simp] theorem drawn_cyc  : (drawn s).cyc = s.cyc := (rfl)
@[simp] theorem drawn_regs  : (drawn s).regs = s.regs := (rfl)
@[simp] theorem drawn_proof  : (drawn s).proof = s.proof := (rfl)
@[simp] theorem drawn_mem  : (drawn s).mem = s.mem := (rfl)
@[simp] theorem drawn_ue  : (drawn s).ue = s.ue := (rfl)
@[simp] theorem drawn_ce  : (drawn s).ce = s.ce := (rfl)
@[simp] theorem drawn_patch  : (drawn s).patch = s.patch := (rfl)
@[simp] theorem drawn_wire  : (drawn s).wire = s.wire := (rfl)
@[simp] theorem drawn_mode  : (drawn s).mode = s.mode := (rfl)
@[simp] theorem drawn_prev  : (drawn s).prev = s.prev := (rfl)
@[simp] theorem drawn_cause  : (drawn s).cause = s.cause := (rfl)
@[simp] theorem drawn_sealed  : (drawn s).sealed = s.sealed := (rfl)
@[simp] theorem drawn_stages  : (drawn s).stages = s.stages := (rfl)
@[simp] theorem drawn_latches  : (drawn s).latches = s.latches := (rfl)
@[simp] theorem drawn_rdata  : (drawn s).rdata = s.rdata := (rfl)
@[simp] theorem drawn_rstat  : (drawn s).rstat = s.rstat := (rfl)
@[simp] theorem drawn_cells  : (drawn s).cells = s.cells := (rfl)
@[simp] theorem drawn_pair  : (drawn s).pair = s.pair := (rfl)
@[simp] theorem drawn_tmr  : (drawn s).tmr = s.tmr := (rfl)
@[simp] theorem drawn_dma  : (drawn s).dma = s.dma := (rfl)
@[simp] theorem drawn_tester  : (drawn s).tester = s.tester := (rfl)
@[simp] theorem drawn_evLatch  : (drawn s).evLatch = s.evLatch := (rfl)
@[simp] theorem drawn_evAhead  : (drawn s).evAhead = s.evAhead := (rfl)
@[simp] theorem drawn_evBefore  : (drawn s).evBefore = s.evBefore := (rfl)
@[simp] theorem drawn_pos  : (drawn s).pos = s.pos := (rfl)
@[simp] theorem drawn_cmp  : (drawn s).cmp = s.cmp := (rfl)
@[simp] theorem drawn_lst  : (drawn s).lst = s.lst := (rfl)
@[simp] theorem drawn_links  : (drawn s).links = s.links := (rfl)
@[simp] theorem drawn_wav  : (drawn s).wav = s.wav := (rfl)
@[simp] theorem drawn_fab  : (drawn s).fab = s.fab := (rfl)
@[simp] theorem drawn_dlk  : (drawn s).dlk = s.dlk := (rfl)
@[simp] theorem drawn_egress  : (drawn s).egress = s.egress := (rfl)
@[simp] theorem drawn_ingress  : (drawn s).ingress = s.ingress := (rfl)
@[simp] theorem drawn_loader  : (drawn s).loader = s.loader := (rfl)
@[simp] theorem drawn_syn  : (drawn s).syn = s.syn := (rfl)
@[simp] theorem drawn_jtag  : (drawn s).jtag = s.jtag := (rfl)
@[simp] theorem drawn_due  : (drawn s).due = s.due := (rfl)
@[simp] theorem drawn_first  : (drawn s).first = s.first := (rfl)
@[simp] theorem drawn_iLast  : (drawn s).iLast = s.iLast := (rfl)
@[simp] theorem drawn_gateBlank  : (drawn s).gateBlank = s.gateBlank := (rfl)
@[simp] theorem drawn_blankDue  : (drawn s).blankDue = s.blankDue := (rfl)
@[simp] theorem drawn_forcedAt  : (drawn s).forcedAt = s.forcedAt := (rfl)
@[simp] theorem drawn_proofAt  : (drawn s).proofAt = s.proofAt := (rfl)
@[simp] theorem drawn_sleepEntry  : (drawn s).sleepEntry = s.sleepEntry := (rfl)
@[simp] theorem drawn_waking  : (drawn s).waking = s.waking := (rfl)
@[simp] theorem drawn_tmrStopped  : (drawn s).tmrStopped = s.tmrStopped := (rfl)
@[simp] theorem drawn_sleepRatio  : (drawn s).sleepRatio = s.sleepRatio := (rfl)
@[simp] theorem drawn_slowRatio  : (drawn s).slowRatio = s.slowRatio := (rfl)
@[simp] theorem drawn_slowAt  : (drawn s).slowAt = s.slowAt := (rfl)
@[simp] theorem drawn_wdAt  : (drawn s).wdAt = s.wdAt := (rfl)
@[simp] theorem drawn_img  : (drawn s).img = s.img := (rfl)

/-! ### respond -/

@[simp] theorem respond_pending (v : Word) (n : Nat) : (respond v n s).pending = s.pending := (rfl)
@[simp] theorem respond_fresh (v : Word) (n : Nat) : (respond v n s).fresh = s.fresh := (rfl)
@[simp] theorem respond_time (v : Word) (n : Nat) : (respond v n s).time = s.time := (rfl)
@[simp] theorem respond_gated (v : Word) (n : Nat) : (respond v n s).gated = s.gated := (rfl)
@[simp] theorem respond_cyc (v : Word) (n : Nat) : (respond v n s).cyc = s.cyc := (rfl)
@[simp] theorem respond_regs (v : Word) (n : Nat) : (respond v n s).regs = s.regs := (rfl)
@[simp] theorem respond_proof (v : Word) (n : Nat) : (respond v n s).proof = s.proof := (rfl)
@[simp] theorem respond_mem (v : Word) (n : Nat) : (respond v n s).mem = s.mem := (rfl)
@[simp] theorem respond_ue (v : Word) (n : Nat) : (respond v n s).ue = s.ue := (rfl)
@[simp] theorem respond_ce (v : Word) (n : Nat) : (respond v n s).ce = s.ce := (rfl)
@[simp] theorem respond_patch (v : Word) (n : Nat) : (respond v n s).patch = s.patch := (rfl)
@[simp] theorem respond_wire (v : Word) (n : Nat) : (respond v n s).wire = s.wire := (rfl)
@[simp] theorem respond_mode (v : Word) (n : Nat) : (respond v n s).mode = s.mode := (rfl)
@[simp] theorem respond_prev (v : Word) (n : Nat) : (respond v n s).prev = s.prev := (rfl)
@[simp] theorem respond_cause (v : Word) (n : Nat) : (respond v n s).cause = s.cause := (rfl)
@[simp] theorem respond_sealed (v : Word) (n : Nat) : (respond v n s).sealed = s.sealed := (rfl)
@[simp] theorem respond_stages (v : Word) (n : Nat) : (respond v n s).stages = s.stages := (rfl)
@[simp] theorem respond_latches (v : Word) (n : Nat) : (respond v n s).latches = s.latches := (rfl)
@[simp] theorem respond_cells (v : Word) (n : Nat) : (respond v n s).cells = s.cells := (rfl)
@[simp] theorem respond_pair (v : Word) (n : Nat) : (respond v n s).pair = s.pair := (rfl)
@[simp] theorem respond_tmr (v : Word) (n : Nat) : (respond v n s).tmr = s.tmr := (rfl)
@[simp] theorem respond_dma (v : Word) (n : Nat) : (respond v n s).dma = s.dma := (rfl)
@[simp] theorem respond_tester (v : Word) (n : Nat) : (respond v n s).tester = s.tester := (rfl)
@[simp] theorem respond_evLatch (v : Word) (n : Nat) : (respond v n s).evLatch = s.evLatch := (rfl)
@[simp] theorem respond_evAhead (v : Word) (n : Nat) : (respond v n s).evAhead = s.evAhead := (rfl)
@[simp] theorem respond_evBefore (v : Word) (n : Nat) : (respond v n s).evBefore = s.evBefore := (rfl)
@[simp] theorem respond_pos (v : Word) (n : Nat) : (respond v n s).pos = s.pos := (rfl)
@[simp] theorem respond_cmp (v : Word) (n : Nat) : (respond v n s).cmp = s.cmp := (rfl)
@[simp] theorem respond_lst (v : Word) (n : Nat) : (respond v n s).lst = s.lst := (rfl)
@[simp] theorem respond_links (v : Word) (n : Nat) : (respond v n s).links = s.links := (rfl)
@[simp] theorem respond_wav (v : Word) (n : Nat) : (respond v n s).wav = s.wav := (rfl)
@[simp] theorem respond_fab (v : Word) (n : Nat) : (respond v n s).fab = s.fab := (rfl)
@[simp] theorem respond_dlk (v : Word) (n : Nat) : (respond v n s).dlk = s.dlk := (rfl)
@[simp] theorem respond_egress (v : Word) (n : Nat) : (respond v n s).egress = s.egress := (rfl)
@[simp] theorem respond_ingress (v : Word) (n : Nat) : (respond v n s).ingress = s.ingress := (rfl)
@[simp] theorem respond_loader (v : Word) (n : Nat) : (respond v n s).loader = s.loader := (rfl)
@[simp] theorem respond_syn (v : Word) (n : Nat) : (respond v n s).syn = s.syn := (rfl)
@[simp] theorem respond_jtag (v : Word) (n : Nat) : (respond v n s).jtag = s.jtag := (rfl)
@[simp] theorem respond_due (v : Word) (n : Nat) : (respond v n s).due = s.due := (rfl)
@[simp] theorem respond_first (v : Word) (n : Nat) : (respond v n s).first = s.first := (rfl)
@[simp] theorem respond_iLast (v : Word) (n : Nat) : (respond v n s).iLast = s.iLast := (rfl)
@[simp] theorem respond_gateBlank (v : Word) (n : Nat) : (respond v n s).gateBlank = s.gateBlank := (rfl)
@[simp] theorem respond_blankDue (v : Word) (n : Nat) : (respond v n s).blankDue = s.blankDue := (rfl)
@[simp] theorem respond_forcedAt (v : Word) (n : Nat) : (respond v n s).forcedAt = s.forcedAt := (rfl)
@[simp] theorem respond_proofAt (v : Word) (n : Nat) : (respond v n s).proofAt = s.proofAt := (rfl)
@[simp] theorem respond_sleepEntry (v : Word) (n : Nat) : (respond v n s).sleepEntry = s.sleepEntry := (rfl)
@[simp] theorem respond_waking (v : Word) (n : Nat) : (respond v n s).waking = s.waking := (rfl)
@[simp] theorem respond_tmrStopped (v : Word) (n : Nat) : (respond v n s).tmrStopped = s.tmrStopped := (rfl)
@[simp] theorem respond_sleepRatio (v : Word) (n : Nat) : (respond v n s).sleepRatio = s.sleepRatio := (rfl)
@[simp] theorem respond_slowRatio (v : Word) (n : Nat) : (respond v n s).slowRatio = s.slowRatio := (rfl)
@[simp] theorem respond_slowAt (v : Word) (n : Nat) : (respond v n s).slowAt = s.slowAt := (rfl)
@[simp] theorem respond_wdAt (v : Word) (n : Nat) : (respond v n s).wdAt = s.wdAt := (rfl)
@[simp] theorem respond_img (v : Word) (n : Nat) : (respond v n s).img = s.img := (rfl)

/-! ### emit -/

@[simp] theorem emit_pending (o : Out) : (emit o s).pending = s.pending := (rfl)
@[simp] theorem emit_fresh (o : Out) : (emit o s).fresh = s.fresh := (rfl)
@[simp] theorem emit_time (o : Out) : (emit o s).time = s.time := (rfl)
@[simp] theorem emit_gated (o : Out) : (emit o s).gated = s.gated := (rfl)
@[simp] theorem emit_cyc (o : Out) : (emit o s).cyc = s.cyc := (rfl)
@[simp] theorem emit_regs (o : Out) : (emit o s).regs = s.regs := (rfl)
@[simp] theorem emit_proof (o : Out) : (emit o s).proof = s.proof := (rfl)
@[simp] theorem emit_mem (o : Out) : (emit o s).mem = s.mem := (rfl)
@[simp] theorem emit_ue (o : Out) : (emit o s).ue = s.ue := (rfl)
@[simp] theorem emit_ce (o : Out) : (emit o s).ce = s.ce := (rfl)
@[simp] theorem emit_patch (o : Out) : (emit o s).patch = s.patch := (rfl)
@[simp] theorem emit_mode (o : Out) : (emit o s).mode = s.mode := (rfl)
@[simp] theorem emit_prev (o : Out) : (emit o s).prev = s.prev := (rfl)
@[simp] theorem emit_cause (o : Out) : (emit o s).cause = s.cause := (rfl)
@[simp] theorem emit_sealed (o : Out) : (emit o s).sealed = s.sealed := (rfl)
@[simp] theorem emit_stages (o : Out) : (emit o s).stages = s.stages := (rfl)
@[simp] theorem emit_latches (o : Out) : (emit o s).latches = s.latches := (rfl)
@[simp] theorem emit_rdata (o : Out) : (emit o s).rdata = s.rdata := (rfl)
@[simp] theorem emit_rstat (o : Out) : (emit o s).rstat = s.rstat := (rfl)
@[simp] theorem emit_cells (o : Out) : (emit o s).cells = s.cells := (rfl)
@[simp] theorem emit_pair (o : Out) : (emit o s).pair = s.pair := (rfl)
@[simp] theorem emit_tmr (o : Out) : (emit o s).tmr = s.tmr := (rfl)
@[simp] theorem emit_dma (o : Out) : (emit o s).dma = s.dma := (rfl)
@[simp] theorem emit_tester (o : Out) : (emit o s).tester = s.tester := (rfl)
@[simp] theorem emit_evLatch (o : Out) : (emit o s).evLatch = s.evLatch := (rfl)
@[simp] theorem emit_evAhead (o : Out) : (emit o s).evAhead = s.evAhead := (rfl)
@[simp] theorem emit_evBefore (o : Out) : (emit o s).evBefore = s.evBefore := (rfl)
@[simp] theorem emit_pos (o : Out) : (emit o s).pos = s.pos := (rfl)
@[simp] theorem emit_cmp (o : Out) : (emit o s).cmp = s.cmp := (rfl)
@[simp] theorem emit_lst (o : Out) : (emit o s).lst = s.lst := (rfl)
@[simp] theorem emit_links (o : Out) : (emit o s).links = s.links := (rfl)
@[simp] theorem emit_wav (o : Out) : (emit o s).wav = s.wav := (rfl)
@[simp] theorem emit_fab (o : Out) : (emit o s).fab = s.fab := (rfl)
@[simp] theorem emit_dlk (o : Out) : (emit o s).dlk = s.dlk := (rfl)
@[simp] theorem emit_egress (o : Out) : (emit o s).egress = s.egress := (rfl)
@[simp] theorem emit_ingress (o : Out) : (emit o s).ingress = s.ingress := (rfl)
@[simp] theorem emit_loader (o : Out) : (emit o s).loader = s.loader := (rfl)
@[simp] theorem emit_syn (o : Out) : (emit o s).syn = s.syn := (rfl)
@[simp] theorem emit_jtag (o : Out) : (emit o s).jtag = s.jtag := (rfl)
@[simp] theorem emit_due (o : Out) : (emit o s).due = s.due := (rfl)
@[simp] theorem emit_first (o : Out) : (emit o s).first = s.first := (rfl)
@[simp] theorem emit_iLast (o : Out) : (emit o s).iLast = s.iLast := (rfl)
@[simp] theorem emit_gateBlank (o : Out) : (emit o s).gateBlank = s.gateBlank := (rfl)
@[simp] theorem emit_blankDue (o : Out) : (emit o s).blankDue = s.blankDue := (rfl)
@[simp] theorem emit_forcedAt (o : Out) : (emit o s).forcedAt = s.forcedAt := (rfl)
@[simp] theorem emit_proofAt (o : Out) : (emit o s).proofAt = s.proofAt := (rfl)
@[simp] theorem emit_sleepEntry (o : Out) : (emit o s).sleepEntry = s.sleepEntry := (rfl)
@[simp] theorem emit_waking (o : Out) : (emit o s).waking = s.waking := (rfl)
@[simp] theorem emit_tmrStopped (o : Out) : (emit o s).tmrStopped = s.tmrStopped := (rfl)
@[simp] theorem emit_sleepRatio (o : Out) : (emit o s).sleepRatio = s.sleepRatio := (rfl)
@[simp] theorem emit_slowRatio (o : Out) : (emit o s).slowRatio = s.slowRatio := (rfl)
@[simp] theorem emit_slowAt (o : Out) : (emit o s).slowAt = s.slowAt := (rfl)
@[simp] theorem emit_wdAt (o : Out) : (emit o s).wdAt = s.wdAt := (rfl)
@[simp] theorem emit_img (o : Out) : (emit o s).img = s.img := (rfl)

/-! ### writeBytes -/

@[simp] theorem writeBytes_pending (a : Nat) (l : List Byte) : (writeBytes a l s).pending = s.pending := (rfl)
@[simp] theorem writeBytes_fresh (a : Nat) (l : List Byte) : (writeBytes a l s).fresh = s.fresh := (rfl)
@[simp] theorem writeBytes_time (a : Nat) (l : List Byte) : (writeBytes a l s).time = s.time := (rfl)
@[simp] theorem writeBytes_gated (a : Nat) (l : List Byte) : (writeBytes a l s).gated = s.gated := (rfl)
@[simp] theorem writeBytes_cyc (a : Nat) (l : List Byte) : (writeBytes a l s).cyc = s.cyc := (rfl)
@[simp] theorem writeBytes_regs (a : Nat) (l : List Byte) : (writeBytes a l s).regs = s.regs := (rfl)
@[simp] theorem writeBytes_proof (a : Nat) (l : List Byte) : (writeBytes a l s).proof = s.proof := (rfl)
@[simp] theorem writeBytes_patch (a : Nat) (l : List Byte) : (writeBytes a l s).patch = s.patch := (rfl)
@[simp] theorem writeBytes_wire (a : Nat) (l : List Byte) : (writeBytes a l s).wire = s.wire := (rfl)
@[simp] theorem writeBytes_mode (a : Nat) (l : List Byte) : (writeBytes a l s).mode = s.mode := (rfl)
@[simp] theorem writeBytes_prev (a : Nat) (l : List Byte) : (writeBytes a l s).prev = s.prev := (rfl)
@[simp] theorem writeBytes_cause (a : Nat) (l : List Byte) : (writeBytes a l s).cause = s.cause := (rfl)
@[simp] theorem writeBytes_sealed (a : Nat) (l : List Byte) : (writeBytes a l s).sealed = s.sealed := (rfl)
@[simp] theorem writeBytes_stages (a : Nat) (l : List Byte) : (writeBytes a l s).stages = s.stages := (rfl)
@[simp] theorem writeBytes_latches (a : Nat) (l : List Byte) : (writeBytes a l s).latches = s.latches := (rfl)
@[simp] theorem writeBytes_rdata (a : Nat) (l : List Byte) : (writeBytes a l s).rdata = s.rdata := (rfl)
@[simp] theorem writeBytes_rstat (a : Nat) (l : List Byte) : (writeBytes a l s).rstat = s.rstat := (rfl)
@[simp] theorem writeBytes_cells (a : Nat) (l : List Byte) : (writeBytes a l s).cells = s.cells := (rfl)
@[simp] theorem writeBytes_pair (a : Nat) (l : List Byte) : (writeBytes a l s).pair = s.pair := (rfl)
@[simp] theorem writeBytes_tmr (a : Nat) (l : List Byte) : (writeBytes a l s).tmr = s.tmr := (rfl)
@[simp] theorem writeBytes_dma (a : Nat) (l : List Byte) : (writeBytes a l s).dma = s.dma := (rfl)
@[simp] theorem writeBytes_tester (a : Nat) (l : List Byte) : (writeBytes a l s).tester = s.tester := (rfl)
@[simp] theorem writeBytes_evLatch (a : Nat) (l : List Byte) : (writeBytes a l s).evLatch = s.evLatch := (rfl)
@[simp] theorem writeBytes_evAhead (a : Nat) (l : List Byte) : (writeBytes a l s).evAhead = s.evAhead := (rfl)
@[simp] theorem writeBytes_evBefore (a : Nat) (l : List Byte) : (writeBytes a l s).evBefore = s.evBefore := (rfl)
@[simp] theorem writeBytes_pos (a : Nat) (l : List Byte) : (writeBytes a l s).pos = s.pos := (rfl)
@[simp] theorem writeBytes_cmp (a : Nat) (l : List Byte) : (writeBytes a l s).cmp = s.cmp := (rfl)
@[simp] theorem writeBytes_lst (a : Nat) (l : List Byte) : (writeBytes a l s).lst = s.lst := (rfl)
@[simp] theorem writeBytes_links (a : Nat) (l : List Byte) : (writeBytes a l s).links = s.links := (rfl)
@[simp] theorem writeBytes_wav (a : Nat) (l : List Byte) : (writeBytes a l s).wav = s.wav := (rfl)
@[simp] theorem writeBytes_fab (a : Nat) (l : List Byte) : (writeBytes a l s).fab = s.fab := (rfl)
@[simp] theorem writeBytes_dlk (a : Nat) (l : List Byte) : (writeBytes a l s).dlk = s.dlk := (rfl)
@[simp] theorem writeBytes_egress (a : Nat) (l : List Byte) : (writeBytes a l s).egress = s.egress := (rfl)
@[simp] theorem writeBytes_ingress (a : Nat) (l : List Byte) : (writeBytes a l s).ingress = s.ingress := (rfl)
@[simp] theorem writeBytes_loader (a : Nat) (l : List Byte) : (writeBytes a l s).loader = s.loader := (rfl)
@[simp] theorem writeBytes_syn (a : Nat) (l : List Byte) : (writeBytes a l s).syn = s.syn := (rfl)
@[simp] theorem writeBytes_jtag (a : Nat) (l : List Byte) : (writeBytes a l s).jtag = s.jtag := (rfl)
@[simp] theorem writeBytes_due (a : Nat) (l : List Byte) : (writeBytes a l s).due = s.due := (rfl)
@[simp] theorem writeBytes_first (a : Nat) (l : List Byte) : (writeBytes a l s).first = s.first := (rfl)
@[simp] theorem writeBytes_iLast (a : Nat) (l : List Byte) : (writeBytes a l s).iLast = s.iLast := (rfl)
@[simp] theorem writeBytes_gateBlank (a : Nat) (l : List Byte) : (writeBytes a l s).gateBlank = s.gateBlank := (rfl)
@[simp] theorem writeBytes_blankDue (a : Nat) (l : List Byte) : (writeBytes a l s).blankDue = s.blankDue := (rfl)
@[simp] theorem writeBytes_forcedAt (a : Nat) (l : List Byte) : (writeBytes a l s).forcedAt = s.forcedAt := (rfl)
@[simp] theorem writeBytes_proofAt (a : Nat) (l : List Byte) : (writeBytes a l s).proofAt = s.proofAt := (rfl)
@[simp] theorem writeBytes_sleepEntry (a : Nat) (l : List Byte) : (writeBytes a l s).sleepEntry = s.sleepEntry := (rfl)
@[simp] theorem writeBytes_waking (a : Nat) (l : List Byte) : (writeBytes a l s).waking = s.waking := (rfl)
@[simp] theorem writeBytes_tmrStopped (a : Nat) (l : List Byte) : (writeBytes a l s).tmrStopped = s.tmrStopped := (rfl)
@[simp] theorem writeBytes_sleepRatio (a : Nat) (l : List Byte) : (writeBytes a l s).sleepRatio = s.sleepRatio := (rfl)
@[simp] theorem writeBytes_slowRatio (a : Nat) (l : List Byte) : (writeBytes a l s).slowRatio = s.slowRatio := (rfl)
@[simp] theorem writeBytes_slowAt (a : Nat) (l : List Byte) : (writeBytes a l s).slowAt = s.slowAt := (rfl)
@[simp] theorem writeBytes_wdAt (a : Nat) (l : List Byte) : (writeBytes a l s).wdAt = s.wdAt := (rfl)
@[simp] theorem writeBytes_img (a : Nat) (l : List Byte) : (writeBytes a l s).img = s.img := (rfl)

/-! ### putCell -/

@[simp] theorem putCell_pending (cl m : Nat) (x : Cell) : (putCell cl m x s).pending = s.pending := (rfl)
@[simp] theorem putCell_fresh (cl m : Nat) (x : Cell) : (putCell cl m x s).fresh = s.fresh := (rfl)
@[simp] theorem putCell_time (cl m : Nat) (x : Cell) : (putCell cl m x s).time = s.time := (rfl)
@[simp] theorem putCell_gated (cl m : Nat) (x : Cell) : (putCell cl m x s).gated = s.gated := (rfl)
@[simp] theorem putCell_cyc (cl m : Nat) (x : Cell) : (putCell cl m x s).cyc = s.cyc := (rfl)
@[simp] theorem putCell_regs (cl m : Nat) (x : Cell) : (putCell cl m x s).regs = s.regs := (rfl)
@[simp] theorem putCell_proof (cl m : Nat) (x : Cell) : (putCell cl m x s).proof = s.proof := (rfl)
@[simp] theorem putCell_mem (cl m : Nat) (x : Cell) : (putCell cl m x s).mem = s.mem := (rfl)
@[simp] theorem putCell_ue (cl m : Nat) (x : Cell) : (putCell cl m x s).ue = s.ue := (rfl)
@[simp] theorem putCell_ce (cl m : Nat) (x : Cell) : (putCell cl m x s).ce = s.ce := (rfl)
@[simp] theorem putCell_patch (cl m : Nat) (x : Cell) : (putCell cl m x s).patch = s.patch := (rfl)
@[simp] theorem putCell_wire (cl m : Nat) (x : Cell) : (putCell cl m x s).wire = s.wire := (rfl)
@[simp] theorem putCell_mode (cl m : Nat) (x : Cell) : (putCell cl m x s).mode = s.mode := (rfl)
@[simp] theorem putCell_prev (cl m : Nat) (x : Cell) : (putCell cl m x s).prev = s.prev := (rfl)
@[simp] theorem putCell_cause (cl m : Nat) (x : Cell) : (putCell cl m x s).cause = s.cause := (rfl)
@[simp] theorem putCell_sealed (cl m : Nat) (x : Cell) : (putCell cl m x s).sealed = s.sealed := (rfl)
@[simp] theorem putCell_stages (cl m : Nat) (x : Cell) : (putCell cl m x s).stages = s.stages := (rfl)
@[simp] theorem putCell_latches (cl m : Nat) (x : Cell) : (putCell cl m x s).latches = s.latches := (rfl)
@[simp] theorem putCell_rdata (cl m : Nat) (x : Cell) : (putCell cl m x s).rdata = s.rdata := (rfl)
@[simp] theorem putCell_rstat (cl m : Nat) (x : Cell) : (putCell cl m x s).rstat = s.rstat := (rfl)
@[simp] theorem putCell_pair (cl m : Nat) (x : Cell) : (putCell cl m x s).pair = s.pair := (rfl)
@[simp] theorem putCell_tmr (cl m : Nat) (x : Cell) : (putCell cl m x s).tmr = s.tmr := (rfl)
@[simp] theorem putCell_dma (cl m : Nat) (x : Cell) : (putCell cl m x s).dma = s.dma := (rfl)
@[simp] theorem putCell_tester (cl m : Nat) (x : Cell) : (putCell cl m x s).tester = s.tester := (rfl)
@[simp] theorem putCell_evLatch (cl m : Nat) (x : Cell) : (putCell cl m x s).evLatch = s.evLatch := (rfl)
@[simp] theorem putCell_evAhead (cl m : Nat) (x : Cell) : (putCell cl m x s).evAhead = s.evAhead := (rfl)
@[simp] theorem putCell_evBefore (cl m : Nat) (x : Cell) : (putCell cl m x s).evBefore = s.evBefore := (rfl)
@[simp] theorem putCell_pos (cl m : Nat) (x : Cell) : (putCell cl m x s).pos = s.pos := (rfl)
@[simp] theorem putCell_cmp (cl m : Nat) (x : Cell) : (putCell cl m x s).cmp = s.cmp := (rfl)
@[simp] theorem putCell_lst (cl m : Nat) (x : Cell) : (putCell cl m x s).lst = s.lst := (rfl)
@[simp] theorem putCell_links (cl m : Nat) (x : Cell) : (putCell cl m x s).links = s.links := (rfl)
@[simp] theorem putCell_wav (cl m : Nat) (x : Cell) : (putCell cl m x s).wav = s.wav := (rfl)
@[simp] theorem putCell_fab (cl m : Nat) (x : Cell) : (putCell cl m x s).fab = s.fab := (rfl)
@[simp] theorem putCell_dlk (cl m : Nat) (x : Cell) : (putCell cl m x s).dlk = s.dlk := (rfl)
@[simp] theorem putCell_egress (cl m : Nat) (x : Cell) : (putCell cl m x s).egress = s.egress := (rfl)
@[simp] theorem putCell_ingress (cl m : Nat) (x : Cell) : (putCell cl m x s).ingress = s.ingress := (rfl)
@[simp] theorem putCell_loader (cl m : Nat) (x : Cell) : (putCell cl m x s).loader = s.loader := (rfl)
@[simp] theorem putCell_syn (cl m : Nat) (x : Cell) : (putCell cl m x s).syn = s.syn := (rfl)
@[simp] theorem putCell_jtag (cl m : Nat) (x : Cell) : (putCell cl m x s).jtag = s.jtag := (rfl)
@[simp] theorem putCell_due (cl m : Nat) (x : Cell) : (putCell cl m x s).due = s.due := (rfl)
@[simp] theorem putCell_first (cl m : Nat) (x : Cell) : (putCell cl m x s).first = s.first := (rfl)
@[simp] theorem putCell_iLast (cl m : Nat) (x : Cell) : (putCell cl m x s).iLast = s.iLast := (rfl)
@[simp] theorem putCell_gateBlank (cl m : Nat) (x : Cell) : (putCell cl m x s).gateBlank = s.gateBlank := (rfl)
@[simp] theorem putCell_blankDue (cl m : Nat) (x : Cell) : (putCell cl m x s).blankDue = s.blankDue := (rfl)
@[simp] theorem putCell_forcedAt (cl m : Nat) (x : Cell) : (putCell cl m x s).forcedAt = s.forcedAt := (rfl)
@[simp] theorem putCell_proofAt (cl m : Nat) (x : Cell) : (putCell cl m x s).proofAt = s.proofAt := (rfl)
@[simp] theorem putCell_sleepEntry (cl m : Nat) (x : Cell) : (putCell cl m x s).sleepEntry = s.sleepEntry := (rfl)
@[simp] theorem putCell_waking (cl m : Nat) (x : Cell) : (putCell cl m x s).waking = s.waking := (rfl)
@[simp] theorem putCell_tmrStopped (cl m : Nat) (x : Cell) : (putCell cl m x s).tmrStopped = s.tmrStopped := (rfl)
@[simp] theorem putCell_sleepRatio (cl m : Nat) (x : Cell) : (putCell cl m x s).sleepRatio = s.sleepRatio := (rfl)
@[simp] theorem putCell_slowRatio (cl m : Nat) (x : Cell) : (putCell cl m x s).slowRatio = s.slowRatio := (rfl)
@[simp] theorem putCell_slowAt (cl m : Nat) (x : Cell) : (putCell cl m x s).slowAt = s.slowAt := (rfl)
@[simp] theorem putCell_wdAt (cl m : Nat) (x : Cell) : (putCell cl m x s).wdAt = s.wdAt := (rfl)
@[simp] theorem putCell_img (cl m : Nat) (x : Cell) : (putCell cl m x s).img = s.img := (rfl)

/-! ### pushEvent -/

/-- All that an event packet can do (R416): the egress, and the count of those discarded. -/
theorem pushEvent_eq (p : Packet) : ∃ (r : Tab Word) (y : Cyc) (e : Egress),
    pushEvent p s = { s with regs := r, cyc := y, egress := e } := by
  unfold pushEvent
  dsimp only
  obtain ⟨v, y, h⟩ := addSat_eq { s with egress := { s.egress with
    event := pushEvent.trim p s.egress.event.length s.egress.event ++ [p] } } R.ASP_DROP 0 16
    (s.egress.event.length - (pushEvent.trim p s.egress.event.length s.egress.event).length)
  rw [h]
  exact ⟨v, y, _, rfl⟩


@[simp] theorem pushEvent_pending (p : Packet) : (pushEvent p s).pending = s.pending := by obtain ⟨_, _, _, h⟩ := pushEvent_eq s p; rw [h]
@[simp] theorem pushEvent_fresh (p : Packet) : (pushEvent p s).fresh = s.fresh := by obtain ⟨_, _, _, h⟩ := pushEvent_eq s p; rw [h]
@[simp] theorem pushEvent_time (p : Packet) : (pushEvent p s).time = s.time := by obtain ⟨_, _, _, h⟩ := pushEvent_eq s p; rw [h]
@[simp] theorem pushEvent_gated (p : Packet) : (pushEvent p s).gated = s.gated := by obtain ⟨_, _, _, h⟩ := pushEvent_eq s p; rw [h]
@[simp] theorem pushEvent_proof (p : Packet) : (pushEvent p s).proof = s.proof := by obtain ⟨_, _, _, h⟩ := pushEvent_eq s p; rw [h]
@[simp] theorem pushEvent_mem (p : Packet) : (pushEvent p s).mem = s.mem := by obtain ⟨_, _, _, h⟩ := pushEvent_eq s p; rw [h]
@[simp] theorem pushEvent_ue (p : Packet) : (pushEvent p s).ue = s.ue := by obtain ⟨_, _, _, h⟩ := pushEvent_eq s p; rw [h]
@[simp] theorem pushEvent_ce (p : Packet) : (pushEvent p s).ce = s.ce := by obtain ⟨_, _, _, h⟩ := pushEvent_eq s p; rw [h]
@[simp] theorem pushEvent_patch (p : Packet) : (pushEvent p s).patch = s.patch := by obtain ⟨_, _, _, h⟩ := pushEvent_eq s p; rw [h]
@[simp] theorem pushEvent_wire (p : Packet) : (pushEvent p s).wire = s.wire := by obtain ⟨_, _, _, h⟩ := pushEvent_eq s p; rw [h]
@[simp] theorem pushEvent_mode (p : Packet) : (pushEvent p s).mode = s.mode := by obtain ⟨_, _, _, h⟩ := pushEvent_eq s p; rw [h]
@[simp] theorem pushEvent_prev (p : Packet) : (pushEvent p s).prev = s.prev := by obtain ⟨_, _, _, h⟩ := pushEvent_eq s p; rw [h]
@[simp] theorem pushEvent_cause (p : Packet) : (pushEvent p s).cause = s.cause := by obtain ⟨_, _, _, h⟩ := pushEvent_eq s p; rw [h]
@[simp] theorem pushEvent_sealed (p : Packet) : (pushEvent p s).sealed = s.sealed := by obtain ⟨_, _, _, h⟩ := pushEvent_eq s p; rw [h]
@[simp] theorem pushEvent_stages (p : Packet) : (pushEvent p s).stages = s.stages := by obtain ⟨_, _, _, h⟩ := pushEvent_eq s p; rw [h]
@[simp] theorem pushEvent_latches (p : Packet) : (pushEvent p s).latches = s.latches := by obtain ⟨_, _, _, h⟩ := pushEvent_eq s p; rw [h]
@[simp] theorem pushEvent_rdata (p : Packet) : (pushEvent p s).rdata = s.rdata := by obtain ⟨_, _, _, h⟩ := pushEvent_eq s p; rw [h]
@[simp] theorem pushEvent_rstat (p : Packet) : (pushEvent p s).rstat = s.rstat := by obtain ⟨_, _, _, h⟩ := pushEvent_eq s p; rw [h]
@[simp] theorem pushEvent_cells (p : Packet) : (pushEvent p s).cells = s.cells := by obtain ⟨_, _, _, h⟩ := pushEvent_eq s p; rw [h]
@[simp] theorem pushEvent_pair (p : Packet) : (pushEvent p s).pair = s.pair := by obtain ⟨_, _, _, h⟩ := pushEvent_eq s p; rw [h]
@[simp] theorem pushEvent_tmr (p : Packet) : (pushEvent p s).tmr = s.tmr := by obtain ⟨_, _, _, h⟩ := pushEvent_eq s p; rw [h]
@[simp] theorem pushEvent_dma (p : Packet) : (pushEvent p s).dma = s.dma := by obtain ⟨_, _, _, h⟩ := pushEvent_eq s p; rw [h]
@[simp] theorem pushEvent_tester (p : Packet) : (pushEvent p s).tester = s.tester := by obtain ⟨_, _, _, h⟩ := pushEvent_eq s p; rw [h]
@[simp] theorem pushEvent_evLatch (p : Packet) : (pushEvent p s).evLatch = s.evLatch := by obtain ⟨_, _, _, h⟩ := pushEvent_eq s p; rw [h]
@[simp] theorem pushEvent_evAhead (p : Packet) : (pushEvent p s).evAhead = s.evAhead := by obtain ⟨_, _, _, h⟩ := pushEvent_eq s p; rw [h]
@[simp] theorem pushEvent_evBefore (p : Packet) : (pushEvent p s).evBefore = s.evBefore := by obtain ⟨_, _, _, h⟩ := pushEvent_eq s p; rw [h]
@[simp] theorem pushEvent_pos (p : Packet) : (pushEvent p s).pos = s.pos := by obtain ⟨_, _, _, h⟩ := pushEvent_eq s p; rw [h]
@[simp] theorem pushEvent_cmp (p : Packet) : (pushEvent p s).cmp = s.cmp := by obtain ⟨_, _, _, h⟩ := pushEvent_eq s p; rw [h]
@[simp] theorem pushEvent_lst (p : Packet) : (pushEvent p s).lst = s.lst := by obtain ⟨_, _, _, h⟩ := pushEvent_eq s p; rw [h]
@[simp] theorem pushEvent_links (p : Packet) : (pushEvent p s).links = s.links := by obtain ⟨_, _, _, h⟩ := pushEvent_eq s p; rw [h]
@[simp] theorem pushEvent_wav (p : Packet) : (pushEvent p s).wav = s.wav := by obtain ⟨_, _, _, h⟩ := pushEvent_eq s p; rw [h]
@[simp] theorem pushEvent_fab (p : Packet) : (pushEvent p s).fab = s.fab := by obtain ⟨_, _, _, h⟩ := pushEvent_eq s p; rw [h]
@[simp] theorem pushEvent_dlk (p : Packet) : (pushEvent p s).dlk = s.dlk := by obtain ⟨_, _, _, h⟩ := pushEvent_eq s p; rw [h]
@[simp] theorem pushEvent_ingress (p : Packet) : (pushEvent p s).ingress = s.ingress := by obtain ⟨_, _, _, h⟩ := pushEvent_eq s p; rw [h]
@[simp] theorem pushEvent_loader (p : Packet) : (pushEvent p s).loader = s.loader := by obtain ⟨_, _, _, h⟩ := pushEvent_eq s p; rw [h]
@[simp] theorem pushEvent_syn (p : Packet) : (pushEvent p s).syn = s.syn := by obtain ⟨_, _, _, h⟩ := pushEvent_eq s p; rw [h]
@[simp] theorem pushEvent_jtag (p : Packet) : (pushEvent p s).jtag = s.jtag := by obtain ⟨_, _, _, h⟩ := pushEvent_eq s p; rw [h]
@[simp] theorem pushEvent_due (p : Packet) : (pushEvent p s).due = s.due := by obtain ⟨_, _, _, h⟩ := pushEvent_eq s p; rw [h]
@[simp] theorem pushEvent_first (p : Packet) : (pushEvent p s).first = s.first := by obtain ⟨_, _, _, h⟩ := pushEvent_eq s p; rw [h]
@[simp] theorem pushEvent_iLast (p : Packet) : (pushEvent p s).iLast = s.iLast := by obtain ⟨_, _, _, h⟩ := pushEvent_eq s p; rw [h]
@[simp] theorem pushEvent_gateBlank (p : Packet) : (pushEvent p s).gateBlank = s.gateBlank := by obtain ⟨_, _, _, h⟩ := pushEvent_eq s p; rw [h]
@[simp] theorem pushEvent_blankDue (p : Packet) : (pushEvent p s).blankDue = s.blankDue := by obtain ⟨_, _, _, h⟩ := pushEvent_eq s p; rw [h]
@[simp] theorem pushEvent_forcedAt (p : Packet) : (pushEvent p s).forcedAt = s.forcedAt := by obtain ⟨_, _, _, h⟩ := pushEvent_eq s p; rw [h]
@[simp] theorem pushEvent_proofAt (p : Packet) : (pushEvent p s).proofAt = s.proofAt := by obtain ⟨_, _, _, h⟩ := pushEvent_eq s p; rw [h]
@[simp] theorem pushEvent_sleepEntry (p : Packet) : (pushEvent p s).sleepEntry = s.sleepEntry := by obtain ⟨_, _, _, h⟩ := pushEvent_eq s p; rw [h]
@[simp] theorem pushEvent_waking (p : Packet) : (pushEvent p s).waking = s.waking := by obtain ⟨_, _, _, h⟩ := pushEvent_eq s p; rw [h]
@[simp] theorem pushEvent_tmrStopped (p : Packet) : (pushEvent p s).tmrStopped = s.tmrStopped := by obtain ⟨_, _, _, h⟩ := pushEvent_eq s p; rw [h]
@[simp] theorem pushEvent_sleepRatio (p : Packet) : (pushEvent p s).sleepRatio = s.sleepRatio := by obtain ⟨_, _, _, h⟩ := pushEvent_eq s p; rw [h]
@[simp] theorem pushEvent_slowRatio (p : Packet) : (pushEvent p s).slowRatio = s.slowRatio := by obtain ⟨_, _, _, h⟩ := pushEvent_eq s p; rw [h]
@[simp] theorem pushEvent_slowAt (p : Packet) : (pushEvent p s).slowAt = s.slowAt := by obtain ⟨_, _, _, h⟩ := pushEvent_eq s p; rw [h]
@[simp] theorem pushEvent_wdAt (p : Packet) : (pushEvent p s).wdAt = s.wdAt := by obtain ⟨_, _, _, h⟩ := pushEvent_eq s p; rw [h]
@[simp] theorem pushEvent_img (p : Packet) : (pushEvent p s).img = s.img := by obtain ⟨_, _, _, h⟩ := pushEvent_eq s p; rw [h]

/-! ### raiseAlarm -/

/-- All that an alarm can do (R415, R469): its summary bit, this core cycle's record, and the egress. -/
theorem raiseAlarm_eq (t : Nat) (x : Alarm) : ∃ (y : Cyc) (e : Egress),
    raiseAlarm t x s = { wb (if t < 32 then R.TIL_ASUML else R.TIL_ASUMH) (t % 32) true s with cyc := y, egress := e } := by
  unfold raiseAlarm
  exact ⟨_, _, rfl⟩


@[simp] theorem raiseAlarm_pending (t : Nat) (x : Alarm) : (raiseAlarm t x s).pending = s.pending := by obtain ⟨_, _, h⟩ := raiseAlarm_eq s t x; rw [h]; simp
@[simp] theorem raiseAlarm_fresh (t : Nat) (x : Alarm) : (raiseAlarm t x s).fresh = s.fresh := by obtain ⟨_, _, h⟩ := raiseAlarm_eq s t x; rw [h]; simp
@[simp] theorem raiseAlarm_time (t : Nat) (x : Alarm) : (raiseAlarm t x s).time = s.time := by obtain ⟨_, _, h⟩ := raiseAlarm_eq s t x; rw [h]; simp
@[simp] theorem raiseAlarm_gated (t : Nat) (x : Alarm) : (raiseAlarm t x s).gated = s.gated := by obtain ⟨_, _, h⟩ := raiseAlarm_eq s t x; rw [h]; simp
@[simp] theorem raiseAlarm_proof (t : Nat) (x : Alarm) : (raiseAlarm t x s).proof = s.proof := by obtain ⟨_, _, h⟩ := raiseAlarm_eq s t x; rw [h]; simp
@[simp] theorem raiseAlarm_mem (t : Nat) (x : Alarm) : (raiseAlarm t x s).mem = s.mem := by obtain ⟨_, _, h⟩ := raiseAlarm_eq s t x; rw [h]; simp
@[simp] theorem raiseAlarm_ue (t : Nat) (x : Alarm) : (raiseAlarm t x s).ue = s.ue := by obtain ⟨_, _, h⟩ := raiseAlarm_eq s t x; rw [h]; simp
@[simp] theorem raiseAlarm_ce (t : Nat) (x : Alarm) : (raiseAlarm t x s).ce = s.ce := by obtain ⟨_, _, h⟩ := raiseAlarm_eq s t x; rw [h]; simp
@[simp] theorem raiseAlarm_patch (t : Nat) (x : Alarm) : (raiseAlarm t x s).patch = s.patch := by obtain ⟨_, _, h⟩ := raiseAlarm_eq s t x; rw [h]; simp
@[simp] theorem raiseAlarm_wire (t : Nat) (x : Alarm) : (raiseAlarm t x s).wire = s.wire := by obtain ⟨_, _, h⟩ := raiseAlarm_eq s t x; rw [h]; simp
@[simp] theorem raiseAlarm_mode (t : Nat) (x : Alarm) : (raiseAlarm t x s).mode = s.mode := by obtain ⟨_, _, h⟩ := raiseAlarm_eq s t x; rw [h]; simp
@[simp] theorem raiseAlarm_prev (t : Nat) (x : Alarm) : (raiseAlarm t x s).prev = s.prev := by obtain ⟨_, _, h⟩ := raiseAlarm_eq s t x; rw [h]; simp
@[simp] theorem raiseAlarm_cause (t : Nat) (x : Alarm) : (raiseAlarm t x s).cause = s.cause := by obtain ⟨_, _, h⟩ := raiseAlarm_eq s t x; rw [h]; simp
@[simp] theorem raiseAlarm_sealed (t : Nat) (x : Alarm) : (raiseAlarm t x s).sealed = s.sealed := by obtain ⟨_, _, h⟩ := raiseAlarm_eq s t x; rw [h]; simp
@[simp] theorem raiseAlarm_stages (t : Nat) (x : Alarm) : (raiseAlarm t x s).stages = s.stages := by obtain ⟨_, _, h⟩ := raiseAlarm_eq s t x; rw [h]; simp
@[simp] theorem raiseAlarm_latches (t : Nat) (x : Alarm) : (raiseAlarm t x s).latches = s.latches := by obtain ⟨_, _, h⟩ := raiseAlarm_eq s t x; rw [h]; simp
@[simp] theorem raiseAlarm_rdata (t : Nat) (x : Alarm) : (raiseAlarm t x s).rdata = s.rdata := by obtain ⟨_, _, h⟩ := raiseAlarm_eq s t x; rw [h]; simp
@[simp] theorem raiseAlarm_rstat (t : Nat) (x : Alarm) : (raiseAlarm t x s).rstat = s.rstat := by obtain ⟨_, _, h⟩ := raiseAlarm_eq s t x; rw [h]; simp
@[simp] theorem raiseAlarm_cells (t : Nat) (x : Alarm) : (raiseAlarm t x s).cells = s.cells := by obtain ⟨_, _, h⟩ := raiseAlarm_eq s t x; rw [h]; simp
@[simp] theorem raiseAlarm_pair (t : Nat) (x : Alarm) : (raiseAlarm t x s).pair = s.pair := by obtain ⟨_, _, h⟩ := raiseAlarm_eq s t x; rw [h]; simp
@[simp] theorem raiseAlarm_tmr (t : Nat) (x : Alarm) : (raiseAlarm t x s).tmr = s.tmr := by obtain ⟨_, _, h⟩ := raiseAlarm_eq s t x; rw [h]; simp
@[simp] theorem raiseAlarm_dma (t : Nat) (x : Alarm) : (raiseAlarm t x s).dma = s.dma := by obtain ⟨_, _, h⟩ := raiseAlarm_eq s t x; rw [h]; simp
@[simp] theorem raiseAlarm_tester (t : Nat) (x : Alarm) : (raiseAlarm t x s).tester = s.tester := by obtain ⟨_, _, h⟩ := raiseAlarm_eq s t x; rw [h]; simp
@[simp] theorem raiseAlarm_evLatch (t : Nat) (x : Alarm) : (raiseAlarm t x s).evLatch = s.evLatch := by obtain ⟨_, _, h⟩ := raiseAlarm_eq s t x; rw [h]; simp
@[simp] theorem raiseAlarm_evAhead (t : Nat) (x : Alarm) : (raiseAlarm t x s).evAhead = s.evAhead := by obtain ⟨_, _, h⟩ := raiseAlarm_eq s t x; rw [h]; simp
@[simp] theorem raiseAlarm_evBefore (t : Nat) (x : Alarm) : (raiseAlarm t x s).evBefore = s.evBefore := by obtain ⟨_, _, h⟩ := raiseAlarm_eq s t x; rw [h]; simp
@[simp] theorem raiseAlarm_pos (t : Nat) (x : Alarm) : (raiseAlarm t x s).pos = s.pos := by obtain ⟨_, _, h⟩ := raiseAlarm_eq s t x; rw [h]; simp
@[simp] theorem raiseAlarm_cmp (t : Nat) (x : Alarm) : (raiseAlarm t x s).cmp = s.cmp := by obtain ⟨_, _, h⟩ := raiseAlarm_eq s t x; rw [h]; simp
@[simp] theorem raiseAlarm_lst (t : Nat) (x : Alarm) : (raiseAlarm t x s).lst = s.lst := by obtain ⟨_, _, h⟩ := raiseAlarm_eq s t x; rw [h]; simp
@[simp] theorem raiseAlarm_links (t : Nat) (x : Alarm) : (raiseAlarm t x s).links = s.links := by obtain ⟨_, _, h⟩ := raiseAlarm_eq s t x; rw [h]; simp
@[simp] theorem raiseAlarm_wav (t : Nat) (x : Alarm) : (raiseAlarm t x s).wav = s.wav := by obtain ⟨_, _, h⟩ := raiseAlarm_eq s t x; rw [h]; simp
@[simp] theorem raiseAlarm_fab (t : Nat) (x : Alarm) : (raiseAlarm t x s).fab = s.fab := by obtain ⟨_, _, h⟩ := raiseAlarm_eq s t x; rw [h]; simp
@[simp] theorem raiseAlarm_dlk (t : Nat) (x : Alarm) : (raiseAlarm t x s).dlk = s.dlk := by obtain ⟨_, _, h⟩ := raiseAlarm_eq s t x; rw [h]; simp
@[simp] theorem raiseAlarm_ingress (t : Nat) (x : Alarm) : (raiseAlarm t x s).ingress = s.ingress := by obtain ⟨_, _, h⟩ := raiseAlarm_eq s t x; rw [h]; simp
@[simp] theorem raiseAlarm_loader (t : Nat) (x : Alarm) : (raiseAlarm t x s).loader = s.loader := by obtain ⟨_, _, h⟩ := raiseAlarm_eq s t x; rw [h]; simp
@[simp] theorem raiseAlarm_syn (t : Nat) (x : Alarm) : (raiseAlarm t x s).syn = s.syn := by obtain ⟨_, _, h⟩ := raiseAlarm_eq s t x; rw [h]; simp
@[simp] theorem raiseAlarm_jtag (t : Nat) (x : Alarm) : (raiseAlarm t x s).jtag = s.jtag := by obtain ⟨_, _, h⟩ := raiseAlarm_eq s t x; rw [h]; simp
@[simp] theorem raiseAlarm_due (t : Nat) (x : Alarm) : (raiseAlarm t x s).due = s.due := by obtain ⟨_, _, h⟩ := raiseAlarm_eq s t x; rw [h]; simp
@[simp] theorem raiseAlarm_first (t : Nat) (x : Alarm) : (raiseAlarm t x s).first = s.first := by obtain ⟨_, _, h⟩ := raiseAlarm_eq s t x; rw [h]; simp
@[simp] theorem raiseAlarm_iLast (t : Nat) (x : Alarm) : (raiseAlarm t x s).iLast = s.iLast := by obtain ⟨_, _, h⟩ := raiseAlarm_eq s t x; rw [h]; simp
@[simp] theorem raiseAlarm_gateBlank (t : Nat) (x : Alarm) : (raiseAlarm t x s).gateBlank = s.gateBlank := by obtain ⟨_, _, h⟩ := raiseAlarm_eq s t x; rw [h]; simp
@[simp] theorem raiseAlarm_blankDue (t : Nat) (x : Alarm) : (raiseAlarm t x s).blankDue = s.blankDue := by obtain ⟨_, _, h⟩ := raiseAlarm_eq s t x; rw [h]; simp
@[simp] theorem raiseAlarm_forcedAt (t : Nat) (x : Alarm) : (raiseAlarm t x s).forcedAt = s.forcedAt := by obtain ⟨_, _, h⟩ := raiseAlarm_eq s t x; rw [h]; simp
@[simp] theorem raiseAlarm_proofAt (t : Nat) (x : Alarm) : (raiseAlarm t x s).proofAt = s.proofAt := by obtain ⟨_, _, h⟩ := raiseAlarm_eq s t x; rw [h]; simp
@[simp] theorem raiseAlarm_sleepEntry (t : Nat) (x : Alarm) : (raiseAlarm t x s).sleepEntry = s.sleepEntry := by obtain ⟨_, _, h⟩ := raiseAlarm_eq s t x; rw [h]; simp
@[simp] theorem raiseAlarm_waking (t : Nat) (x : Alarm) : (raiseAlarm t x s).waking = s.waking := by obtain ⟨_, _, h⟩ := raiseAlarm_eq s t x; rw [h]; simp
@[simp] theorem raiseAlarm_tmrStopped (t : Nat) (x : Alarm) : (raiseAlarm t x s).tmrStopped = s.tmrStopped := by obtain ⟨_, _, h⟩ := raiseAlarm_eq s t x; rw [h]; simp
@[simp] theorem raiseAlarm_sleepRatio (t : Nat) (x : Alarm) : (raiseAlarm t x s).sleepRatio = s.sleepRatio := by obtain ⟨_, _, h⟩ := raiseAlarm_eq s t x; rw [h]; simp
@[simp] theorem raiseAlarm_slowRatio (t : Nat) (x : Alarm) : (raiseAlarm t x s).slowRatio = s.slowRatio := by obtain ⟨_, _, h⟩ := raiseAlarm_eq s t x; rw [h]; simp
@[simp] theorem raiseAlarm_slowAt (t : Nat) (x : Alarm) : (raiseAlarm t x s).slowAt = s.slowAt := by obtain ⟨_, _, h⟩ := raiseAlarm_eq s t x; rw [h]; simp
@[simp] theorem raiseAlarm_wdAt (t : Nat) (x : Alarm) : (raiseAlarm t x s).wdAt = s.wdAt := by obtain ⟨_, _, h⟩ := raiseAlarm_eq s t x; rw [h]; simp
@[simp] theorem raiseAlarm_img (t : Nat) (x : Alarm) : (raiseAlarm t x s).img = s.img := by obtain ⟨_, _, h⟩ := raiseAlarm_eq s t x; rw [h]; simp

/-! ### alarmBit -/

@[simp] theorem alarmBit_pending (a i t : Nat) (x : Alarm) : (alarmBit a i t x s).pending = s.pending := by simp [alarmBit]
@[simp] theorem alarmBit_fresh (a i t : Nat) (x : Alarm) : (alarmBit a i t x s).fresh = s.fresh := by simp [alarmBit]
@[simp] theorem alarmBit_time (a i t : Nat) (x : Alarm) : (alarmBit a i t x s).time = s.time := by simp [alarmBit]
@[simp] theorem alarmBit_gated (a i t : Nat) (x : Alarm) : (alarmBit a i t x s).gated = s.gated := by simp [alarmBit]
@[simp] theorem alarmBit_proof (a i t : Nat) (x : Alarm) : (alarmBit a i t x s).proof = s.proof := by simp [alarmBit]
@[simp] theorem alarmBit_mem (a i t : Nat) (x : Alarm) : (alarmBit a i t x s).mem = s.mem := by simp [alarmBit]
@[simp] theorem alarmBit_ue (a i t : Nat) (x : Alarm) : (alarmBit a i t x s).ue = s.ue := by simp [alarmBit]
@[simp] theorem alarmBit_ce (a i t : Nat) (x : Alarm) : (alarmBit a i t x s).ce = s.ce := by simp [alarmBit]
@[simp] theorem alarmBit_patch (a i t : Nat) (x : Alarm) : (alarmBit a i t x s).patch = s.patch := by simp [alarmBit]
@[simp] theorem alarmBit_wire (a i t : Nat) (x : Alarm) : (alarmBit a i t x s).wire = s.wire := by simp [alarmBit]
@[simp] theorem alarmBit_mode (a i t : Nat) (x : Alarm) : (alarmBit a i t x s).mode = s.mode := by simp [alarmBit]
@[simp] theorem alarmBit_prev (a i t : Nat) (x : Alarm) : (alarmBit a i t x s).prev = s.prev := by simp [alarmBit]
@[simp] theorem alarmBit_cause (a i t : Nat) (x : Alarm) : (alarmBit a i t x s).cause = s.cause := by simp [alarmBit]
@[simp] theorem alarmBit_sealed (a i t : Nat) (x : Alarm) : (alarmBit a i t x s).sealed = s.sealed := by simp [alarmBit]
@[simp] theorem alarmBit_stages (a i t : Nat) (x : Alarm) : (alarmBit a i t x s).stages = s.stages := by simp [alarmBit]
@[simp] theorem alarmBit_latches (a i t : Nat) (x : Alarm) : (alarmBit a i t x s).latches = s.latches := by simp [alarmBit]
@[simp] theorem alarmBit_rdata (a i t : Nat) (x : Alarm) : (alarmBit a i t x s).rdata = s.rdata := by simp [alarmBit]
@[simp] theorem alarmBit_rstat (a i t : Nat) (x : Alarm) : (alarmBit a i t x s).rstat = s.rstat := by simp [alarmBit]
@[simp] theorem alarmBit_cells (a i t : Nat) (x : Alarm) : (alarmBit a i t x s).cells = s.cells := by simp [alarmBit]
@[simp] theorem alarmBit_pair (a i t : Nat) (x : Alarm) : (alarmBit a i t x s).pair = s.pair := by simp [alarmBit]
@[simp] theorem alarmBit_tmr (a i t : Nat) (x : Alarm) : (alarmBit a i t x s).tmr = s.tmr := by simp [alarmBit]
@[simp] theorem alarmBit_dma (a i t : Nat) (x : Alarm) : (alarmBit a i t x s).dma = s.dma := by simp [alarmBit]
@[simp] theorem alarmBit_tester (a i t : Nat) (x : Alarm) : (alarmBit a i t x s).tester = s.tester := by simp [alarmBit]
@[simp] theorem alarmBit_evLatch (a i t : Nat) (x : Alarm) : (alarmBit a i t x s).evLatch = s.evLatch := by simp [alarmBit]
@[simp] theorem alarmBit_evAhead (a i t : Nat) (x : Alarm) : (alarmBit a i t x s).evAhead = s.evAhead := by simp [alarmBit]
@[simp] theorem alarmBit_evBefore (a i t : Nat) (x : Alarm) : (alarmBit a i t x s).evBefore = s.evBefore := by simp [alarmBit]
@[simp] theorem alarmBit_pos (a i t : Nat) (x : Alarm) : (alarmBit a i t x s).pos = s.pos := by simp [alarmBit]
@[simp] theorem alarmBit_cmp (a i t : Nat) (x : Alarm) : (alarmBit a i t x s).cmp = s.cmp := by simp [alarmBit]
@[simp] theorem alarmBit_lst (a i t : Nat) (x : Alarm) : (alarmBit a i t x s).lst = s.lst := by simp [alarmBit]
@[simp] theorem alarmBit_links (a i t : Nat) (x : Alarm) : (alarmBit a i t x s).links = s.links := by simp [alarmBit]
@[simp] theorem alarmBit_wav (a i t : Nat) (x : Alarm) : (alarmBit a i t x s).wav = s.wav := by simp [alarmBit]
@[simp] theorem alarmBit_fab (a i t : Nat) (x : Alarm) : (alarmBit a i t x s).fab = s.fab := by simp [alarmBit]
@[simp] theorem alarmBit_dlk (a i t : Nat) (x : Alarm) : (alarmBit a i t x s).dlk = s.dlk := by simp [alarmBit]
@[simp] theorem alarmBit_ingress (a i t : Nat) (x : Alarm) : (alarmBit a i t x s).ingress = s.ingress := by simp [alarmBit]
@[simp] theorem alarmBit_loader (a i t : Nat) (x : Alarm) : (alarmBit a i t x s).loader = s.loader := by simp [alarmBit]
@[simp] theorem alarmBit_syn (a i t : Nat) (x : Alarm) : (alarmBit a i t x s).syn = s.syn := by simp [alarmBit]
@[simp] theorem alarmBit_jtag (a i t : Nat) (x : Alarm) : (alarmBit a i t x s).jtag = s.jtag := by simp [alarmBit]
@[simp] theorem alarmBit_due (a i t : Nat) (x : Alarm) : (alarmBit a i t x s).due = s.due := by simp [alarmBit]
@[simp] theorem alarmBit_first (a i t : Nat) (x : Alarm) : (alarmBit a i t x s).first = s.first := by simp [alarmBit]
@[simp] theorem alarmBit_iLast (a i t : Nat) (x : Alarm) : (alarmBit a i t x s).iLast = s.iLast := by simp [alarmBit]
@[simp] theorem alarmBit_gateBlank (a i t : Nat) (x : Alarm) : (alarmBit a i t x s).gateBlank = s.gateBlank := by simp [alarmBit]
@[simp] theorem alarmBit_blankDue (a i t : Nat) (x : Alarm) : (alarmBit a i t x s).blankDue = s.blankDue := by simp [alarmBit]
@[simp] theorem alarmBit_forcedAt (a i t : Nat) (x : Alarm) : (alarmBit a i t x s).forcedAt = s.forcedAt := by simp [alarmBit]
@[simp] theorem alarmBit_proofAt (a i t : Nat) (x : Alarm) : (alarmBit a i t x s).proofAt = s.proofAt := by simp [alarmBit]
@[simp] theorem alarmBit_sleepEntry (a i t : Nat) (x : Alarm) : (alarmBit a i t x s).sleepEntry = s.sleepEntry := by simp [alarmBit]
@[simp] theorem alarmBit_waking (a i t : Nat) (x : Alarm) : (alarmBit a i t x s).waking = s.waking := by simp [alarmBit]
@[simp] theorem alarmBit_tmrStopped (a i t : Nat) (x : Alarm) : (alarmBit a i t x s).tmrStopped = s.tmrStopped := by simp [alarmBit]
@[simp] theorem alarmBit_sleepRatio (a i t : Nat) (x : Alarm) : (alarmBit a i t x s).sleepRatio = s.sleepRatio := by simp [alarmBit]
@[simp] theorem alarmBit_slowRatio (a i t : Nat) (x : Alarm) : (alarmBit a i t x s).slowRatio = s.slowRatio := by simp [alarmBit]
@[simp] theorem alarmBit_slowAt (a i t : Nat) (x : Alarm) : (alarmBit a i t x s).slowAt = s.slowAt := by simp [alarmBit]
@[simp] theorem alarmBit_wdAt (a i t : Nat) (x : Alarm) : (alarmBit a i t x s).wdAt = s.wdAt := by simp [alarmBit]
@[simp] theorem alarmBit_img (a i t : Nat) (x : Alarm) : (alarmBit a i t x s).img = s.img := by simp [alarmBit]

/-! ### What the updates make of their own fields -/

/-- A register read after it is written. -/
@[simp] theorem rd_wr_self (a : Nat) (v : Word) : rd a (wr a v s) = v := by simp [rd, wr]

/-- Any other register after a write. -/
@[simp] theorem rd_wr_other {a b : Nat} (v : Word) (h : b ≠ a) : rd b (wr a v s) = rd b s := by simp [rd, wr, h]

theorem rd_wf_other {a b : Nat} (lo w x : Nat) (h : b ≠ a) : rd b (wf a lo w x s) = rd b s := rd_wr_other s _ h

theorem rd_wb_other {a b : Nat} (i : Nat) (v : Bool) (h : b ≠ a) : rd b (wb a i v s) = rd b s := by
  obtain ⟨_, e⟩ := wb_eq s a i v; rw [e]; exact rd_wr_other s _ h

@[simp] theorem rd_noteSet (a b i : Nat) : rd b (noteSet a i s) = rd b s := (rfl)
@[simp] theorem rd_putEvents (a b : Nat) (l : List RcEv) : rd b (putEvents a l s) = rd b s := (rfl)
@[simp] theorem rd_noteEvent (a b lo w : Nat) (join : Option Nat → Nat) : rd b (noteEvent a lo w join s) = rd b s := by
  obtain ⟨_, e⟩ := noteEvent_eq s a lo w join; rw [e]; rfl

theorem rd_addSat_other {a b : Nat} (lo w n : Nat) (h : b ≠ a) : rd b (addSat a lo w n s) = rd b s := by
  unfold addSat
  split
  · rfl
  · rw [rd_wf_other _ _ _ _ h, rd_noteEvent]

theorem rd_keepMin_other {a b : Nat} (lo w x : Nat) (h : b ≠ a) : rd b (keepMin a lo w x s) = rd b s := by
  unfold keepMin
  dsimp only
  split
  · rw [rd_wf_other _ _ _ _ h, rd_noteEvent]
  · rw [rd_noteEvent]

theorem rd_keepMax_other {a b : Nat} (lo w x : Nat) (h : b ≠ a) : rd b (keepMax a lo w x s) = rd b s := by
  unfold keepMax
  dsimp only
  split
  · rw [rd_wf_other _ _ _ _ h, rd_noteEvent]
  · rw [rd_noteEvent]

/-- An event packet changes no register but its count of those discarded (R416). -/
theorem rd_pushEvent_other (p : Packet) {b : Nat} (h : b ≠ R.ASP_DROP) : rd b (pushEvent p s) = rd b s := by
  unfold pushEvent
  dsimp only
  rw [rd_addSat_other _ _ _ _ h]
  rfl

/-- A field of a register read after it is written. -/
theorem rf_wf_self (a lo w x : Nat) (h : lo + w ≤ 32) : rf a lo w (wf a lo w x s) = x % 2 ^ w := by
  simp [rf, wf, fld_putFld_self _ _ _ _ h]

/-- Another field of the register. -/
theorem rf_wf_other (a lo w x lo' w' : Nat) (h : lo' + w' ≤ lo ∨ lo + w ≤ lo') :
    rf a lo' w' (wf a lo w x s) = rf a lo' w' s := by
  simp [rf, wf, fld_putFld_other _ _ _ _ _ _ h]

/-- A bit of a register read after it is written. -/
theorem rb_wb_self (a i : Nat) (b : Bool) (h : i < 32) : rb a i (wb a i b s) = b := by
  obtain ⟨_, e⟩ := wb_eq s a i b
  rw [e]
  change bit (rd a (wr a _ s)) i = b
  rw [rd_wr_self, bit_putBit_self _ _ _ h]

/-- Another bit of the register. -/
theorem rb_wb_other (a i j : Nat) (b : Bool) (h : j ≠ i) : rb a j (wb a i b s) = rb a j s := by
  obtain ⟨_, e⟩ := wb_eq s a i b
  rw [e]
  change bit (rd a (wr a _ s)) j = _
  rw [rd_wr_self, bit_putBit_other _ _ _ _ h]
  rfl

/-- A saturating counter. -/
theorem rf_addSat_self (a lo w n : Nat) (h : lo + w ≤ 32) :
    rf a lo w (addSat a lo w n s) = min (2 ^ w - 1) (rf a lo w s + n) := by
  have hw : 0 < 2 ^ w := by positivity
  unfold addSat
  split
  · have : rf a lo w s < 2 ^ w := fld_lt _ _ _
    subst n
    omega
  · rw [rf_wf_self _ a lo w _ h, Nat.mod_eq_of_lt]
    omega

/-- Fields and bits of any other register after a write. -/
theorem rf_wr_other {a b : Nat} (lo w : Nat) (v : Word) (h : b ≠ a) : rf b lo w (wr a v s) = rf b lo w s := by
  simp [rf, h]

theorem rb_wr_other {a b : Nat} (i : Nat) (v : Word) (h : b ≠ a) : rb b i (wr a v s) = rb b i s := by simp [rb, h]

@[simp] theorem rd_drawn (a : Nat) : rd a (drawn s) = rd a s := (rfl)
@[simp] theorem rd_respond (a : Nat) (v : Word) (n : Nat) : rd a (respond v n s) = rd a s := (rfl)
@[simp] theorem rd_emit (a : Nat) (o : Out) : rd a (emit o s) = rd a s := (rfl)
@[simp] theorem rd_writeBytes (a b : Nat) (l : List Byte) : rd b (writeBytes a l s) = rd b s := (rfl)
@[simp] theorem rd_putCell (a cl m : Nat) (x : Cell) : rd a (putCell cl m x s) = rd a s := (rfl)
@[simp] theorem respond_rdata (v : Word) (n : Nat) : (respond v n s).rdata = v := (rfl)
@[simp] theorem respond_rstat (v : Word) (n : Nat) : (respond v n s).rstat = n := (rfl)
@[simp] theorem emit_wire (o : Out) : (emit o s).wire = o :: s.wire := (rfl)
@[simp] theorem drawn_fresh : (drawn s).fresh = s.fresh + 1 := (rfl)

/-- An alarm touches the registers of the alarm summary alone (R469). -/
theorem rd_raiseAlarm_other (t : Nat) (x : Alarm) {a : Nat} (h : a ≠ R.TIL_ASUML ∧ a ≠ R.TIL_ASUMH) :
    rd a (raiseAlarm t x s) = rd a s := by
  have hs : a ≠ (if t < 32 then R.TIL_ASUML else R.TIL_ASUMH) := by split <;> [exact h.1; exact h.2]
  obtain ⟨y, e, h'⟩ := raiseAlarm_eq s t x
  rw [h']
  exact rd_wb_other s _ _ hs

/-- An alarm of a known type touches the one register of its summary bit (R469). -/
theorem rd_raiseAlarm_ne (t : Nat) (x : Alarm) {a : Nat} (h : a ≠ (if t < 32 then R.TIL_ASUML else R.TIL_ASUMH)) :
    rd a (raiseAlarm t x s) = rd a s := by
  obtain ⟨y, e, h'⟩ := raiseAlarm_eq s t x
  rw [h']
  exact rd_wb_other s _ _ h

/-- The cell just put, but for the time since which it is idle (R334). -/
theorem cellOf_putCell_self (cl m : Nat) (x : Cell) :
    ∃ i, cellOf cl m (putCell cl m x s) = { x with idleSince := i } := by
  unfold cellOf putCell
  exact ⟨_, Sparse.get_set_self _ _ _ _⟩

/-- Every other cell. -/
theorem cellOf_putCell_other (cl m cl' m' : Nat) (x : Cell) (h : cl' * 16 + m' ≠ cl * 16 + m) :
    cellOf cl' m' (putCell cl m x s) = cellOf cl' m' s := by
  simp [cellOf, putCell, h]

/-- The context just changed. -/
theorem theCtx_onCtx_self (cl m c : Nat) (f : Ctx → Ctx) :
    theCtx cl m c (onCtx cl m c f s) = f (theCtx cl m c s) := by
  obtain ⟨i, hi⟩ := cellOf_putCell_self s cl m (putCtx c (f (ctxOf (cellOf cl m s) c)) (cellOf cl m s))
  simp only [theCtx, onCtx, onCell, hi]
  simp [ctxOf, putCtx]

/-- Every other context of the cell. -/
theorem theCtx_onCtx_other (cl m c d : Nat) (f : Ctx → Ctx) (h : d ≠ c) :
    theCtx cl m d (onCtx cl m c f s) = theCtx cl m d s := by
  obtain ⟨i, hi⟩ := cellOf_putCell_self s cl m (putCtx c (f (ctxOf (cellOf cl m s) c)) (cellOf cl m s))
  simp only [theCtx, onCtx, onCell, hi]
  simp [ctxOf, putCtx, h]

/-! ### A change of any field but the registers leaves every register as it was -/

@[simp] theorem rd_mk (a : Nat) (e : State)
    (x0 : List Instr) (x1 : Nat) (x2 : Nat) (x3 : Nat) (x4 : Cyc) (x6 : Tab Word) (x7 : List Host.Cell) (x8 :
    List Nat) (x9 : List Nat) (x10 : Tab Nat) (x11 : List Out) (x12 : Mode) (x13 : Mode) (x14 : Nat) (x15 :
    Bool) (x16 : Tab (Option (Nat × Nat))) (x17 : Tab (List (Nat × Nat))) (x18 : Word) (x19 : Nat) (x20 : Tab
    Cell) (x21 : Tab PairCh) (x22 : Tab Tmr) (x23 : Tab DmaEng) (x24 : Tab Tester) (x25 : Tab Nat) (x26 : Tab
    Nat) (x27 : Tab Nat) (x28 : Pos) (x29 : Cmp) (x30 : Lst) (x31 : Links) (x32 : Wav) (x33 : Fabric) (x34 :
    Dlk) (x35 : Egress) (x36 : Ingress) (x37 : Loader) (x38 : Syn) (x39 : Jtag) (x40 : List (Int × Int)) (x41 :
    Option Int) (x42 : Option Int) (x43 : Bool) (x44 : List Nat) (x45 : Option Nat) (x46 : Nat) (x47 : Bool)
    (x48 : Bool) (x49 : Bool) (x50 : Tab Nat) (x51 : Tab Nat) (x52 : Option Nat) (x53 : Nat) (x54 : Nat) :
    rd a (State.mk
    x0 x1 x2 x3 x4 e.regs x6 x7 x8 x9 x10 x11 x12 x13 x14 x15 x16 x17 x18 x19 x20 x21 x22 x23 x24 x25 x26 x27
    x28 x29 x30 x31 x32 x33 x34 x35 x36 x37 x38 x39 x40 x41 x42 x43 x44 x45 x46 x47 x48 x49 x50 x51 x52 x53 x54) = rd a e := (rfl)

@[simp] theorem rf_mk (a lo w : Nat) (e : State)
    (x0 : List Instr) (x1 : Nat) (x2 : Nat) (x3 : Nat) (x4 : Cyc) (x6 : Tab Word) (x7 : List Host.Cell) (x8 :
    List Nat) (x9 : List Nat) (x10 : Tab Nat) (x11 : List Out) (x12 : Mode) (x13 : Mode) (x14 : Nat) (x15 :
    Bool) (x16 : Tab (Option (Nat × Nat))) (x17 : Tab (List (Nat × Nat))) (x18 : Word) (x19 : Nat) (x20 : Tab
    Cell) (x21 : Tab PairCh) (x22 : Tab Tmr) (x23 : Tab DmaEng) (x24 : Tab Tester) (x25 : Tab Nat) (x26 : Tab
    Nat) (x27 : Tab Nat) (x28 : Pos) (x29 : Cmp) (x30 : Lst) (x31 : Links) (x32 : Wav) (x33 : Fabric) (x34 :
    Dlk) (x35 : Egress) (x36 : Ingress) (x37 : Loader) (x38 : Syn) (x39 : Jtag) (x40 : List (Int × Int)) (x41 :
    Option Int) (x42 : Option Int) (x43 : Bool) (x44 : List Nat) (x45 : Option Nat) (x46 : Nat) (x47 : Bool)
    (x48 : Bool) (x49 : Bool) (x50 : Tab Nat) (x51 : Tab Nat) (x52 : Option Nat) (x53 : Nat) (x54 : Nat) :
    rf a lo w (State.mk
    x0 x1 x2 x3 x4 e.regs x6 x7 x8 x9 x10 x11 x12 x13 x14 x15 x16 x17 x18 x19 x20 x21 x22 x23 x24 x25 x26 x27
    x28 x29 x30 x31 x32 x33 x34 x35 x36 x37 x38 x39 x40 x41 x42 x43 x44 x45 x46 x47 x48 x49 x50 x51 x52 x53 x54) = rf a lo w e := (rfl)

@[simp] theorem rb_mk (a i : Nat) (e : State)
    (x0 : List Instr) (x1 : Nat) (x2 : Nat) (x3 : Nat) (x4 : Cyc) (x6 : Tab Word) (x7 : List Host.Cell) (x8 :
    List Nat) (x9 : List Nat) (x10 : Tab Nat) (x11 : List Out) (x12 : Mode) (x13 : Mode) (x14 : Nat) (x15 :
    Bool) (x16 : Tab (Option (Nat × Nat))) (x17 : Tab (List (Nat × Nat))) (x18 : Word) (x19 : Nat) (x20 : Tab
    Cell) (x21 : Tab PairCh) (x22 : Tab Tmr) (x23 : Tab DmaEng) (x24 : Tab Tester) (x25 : Tab Nat) (x26 : Tab
    Nat) (x27 : Tab Nat) (x28 : Pos) (x29 : Cmp) (x30 : Lst) (x31 : Links) (x32 : Wav) (x33 : Fabric) (x34 :
    Dlk) (x35 : Egress) (x36 : Ingress) (x37 : Loader) (x38 : Syn) (x39 : Jtag) (x40 : List (Int × Int)) (x41 :
    Option Int) (x42 : Option Int) (x43 : Bool) (x44 : List Nat) (x45 : Option Nat) (x46 : Nat) (x47 : Bool)
    (x48 : Bool) (x49 : Bool) (x50 : Tab Nat) (x51 : Tab Nat) (x52 : Option Nat) (x53 : Nat) (x54 : Nat) :
    rb a i (State.mk
    x0 x1 x2 x3 x4 e.regs x6 x7 x8 x9 x10 x11 x12 x13 x14 x15 x16 x17 x18 x19 x20 x21 x22 x23 x24 x25 x26 x27
    x28 x29 x30 x31 x32 x33 x34 x35 x36 x37 x38 x39 x40 x41 x42 x43 x44 x45 x46 x47 x48 x49 x50 x51 x52 x53 x54) = rb a i e := (rfl)

/-! ### Events -/

/-- All that becoming pending notes of a source in service (R330). -/
theorem notePending_eq (cl i : Nat) (s : State) : ∃ y, notePending cl i s = { s with evBefore := y } := by
  by_cases h : actOf cl i s = true
  · exact ⟨_, if_pos h⟩
  · exact ⟨s.evBefore, if_neg h⟩

end Sys2Proof.Machine
end

