-- ==== Sys2Proof/Laws/Bytes.lean ====
section
/-! SUPPORT. The memories and their words in error, unchanged by every operation that neither stores nor meets an error: one
lemma for each. -/

namespace Sys2Proof.Machine

set_option linter.unusedTactic false
set_option linter.unreachableTactic false
set_option linter.unusedSimpArgs false
set_option linter.unusedVariables false
set_option linter.tactic.unusedName false

/-- The memories, and the words of them that hold an error. -/
def bytes (s : State) := (s.mem, s.ue, s.ce)
@[simp] theorem bytes_mk (e : State) (pending : List Instr) (fresh : Nat) (time : Nat) (gated : Nat) (cyc : Cyc)
    (regs : Tab Word) (proof : Tab Word) (patch : Tab Nat) (wire : List Out) (mode : Mode) (prev : Mode) (cause :
    Nat) (sealed : Bool) (stages : Tab (Option (Nat × Nat))) (latches : Tab (List (Nat × Nat))) (rdata : Word) (rstat
    : Nat) (cells : Tab Cell) (pair : Tab PairCh) (tmr : Tab Tmr) (dma : Tab DmaEng) (tester : Tab Tester) (evLatch :
    Tab Nat) (evAhead : Tab Nat) (evBefore : Tab Nat) (pos : Pos) (cmp : Cmp) (lst : Lst) (links : Links) (wav : Wav)
    (fab : Fabric) (dlk : Dlk) (egress : Egress) (ingress : Ingress) (loader : Loader) (syn : Syn) (jtag : Jtag) (due
    : List (Int × Int)) (first : Option Int) (iLast : Option Int) (gateBlank : Bool) (blankDue : List Nat) (forcedAt
    : Option Nat) (proofAt : Nat) (sleepEntry : Bool) (waking : Bool) (tmrStopped : Bool) (sleepRatio : Tab Nat)
    (slowRatio : Tab Nat) (slowAt : Option Nat) (wdAt : Nat) (img : Nat) :
  bytes (State.mk pending fresh time gated cyc regs proof e.mem e.ue e.ce patch wire mode prev cause sealed stages latches rdata rstat cells pair tmr dma tester evLatch evAhead evBefore pos cmp lst links wav fab dlk egress ingress loader syn jtag due first iLast gateBlank blankDue forcedAt proofAt sleepEntry waking tmrStopped sleepRatio slowRatio slowAt wdAt img) = bytes e := (rfl)
@[simp] theorem bytes_foldl {α : Type} (f : State → α → State) (l : List α) (s : State) (h : ∀ s x, bytes (f s x) =
    bytes s) :
    bytes (l.foldl f s) = bytes s := by
  induction l generalizing s with
  | nil => rfl
  | cons x r ih => rw [List.foldl_cons, ih, h]
@[simp] theorem bytes_ite (c : Prop) [Decidable c] (a b : State) : bytes (if c then a else b) = if c then bytes a
    else bytes b := by
  split <;> rfl

/-! ### Ops -/

@[simp] theorem bytes_wr (a : Nat) (v : Word) (s : State) : bytes (wr a v s) = bytes s := by
  unfold wr; simp
@[simp] theorem bytes_wf (a lo w x : Nat) (s : State) : bytes (wf a lo w x s) = bytes s := by
  unfold wf; simp
@[simp] theorem bytes_noteSet (a i : Nat) (s : State) : bytes (noteSet a i s) = bytes s := by
  unfold noteSet; simp
@[simp] theorem bytes_wb (a i : Nat) (b : Bool) (s : State) : bytes (wb a i b s) = bytes s := by
  unfold wb; simp
@[simp] theorem bytes_putEvents (a : Nat) (l : List RcEv) (s : State) : bytes (putEvents a l s) = bytes s := by
  unfold putEvents; simp
@[simp] theorem bytes_noteEvent (a lo w : Nat) (join : Option Nat → Nat) (s : State) : bytes (noteEvent a lo w join
    s) = bytes s := by
  unfold noteEvent; dsimp only; repeat' (first | (simp; done) | (refine (bytes_foldl _ _ _ (fun s x => ?_)).trans ?_) | split | simp)
@[simp] theorem bytes_clearFields (a : Nat) (m back : Word) (s : State) : bytes (clearFields a m back s) = bytes s :=
    by
  unfold clearFields; simp
@[simp] theorem bytes_addSat (a lo w n : Nat) (s : State) : bytes (addSat a lo w n s) = bytes s := by
  unfold addSat; simp
@[simp] theorem bytes_keepMin (a lo w x : Nat) (s : State) : bytes (keepMin a lo w x s) = bytes s := by
  unfold keepMin; simp
@[simp] theorem bytes_keepMax (a lo w x : Nat) (s : State) : bytes (keepMax a lo w x s) = bytes s := by
  unfold keepMax; simp
@[simp] theorem bytes_wrLine (aL aH : Nat) (i : Int) (s : State) : bytes (wrLine aL aH i s) = bytes s := by
  unfold wrLine; simp
@[simp] theorem bytes_drawn (s : State) : bytes (drawn s) = bytes s := by
  unfold drawn; simp
@[simp] theorem bytes_pushEvent (p : Packet) (s : State) : bytes (pushEvent p s) = bytes s := by
  unfold pushEvent; simp
@[simp] theorem bytes_postEvent (kind cl m c detail : Nat) (s : State) : bytes (postEvent kind cl m c detail s) =
    bytes s := by
  unfold postEvent; simp
@[simp] theorem bytes_pushTrace (p : Packet) (s : State) : bytes (pushTrace p s) = bytes s := by
  unfold pushTrace; simp
@[simp] theorem bytes_raiseAlarm (typ : Nat) (x : Alarm) (s : State) : bytes (raiseAlarm typ x s) = bytes s := by
  unfold raiseAlarm; simp
@[simp] theorem bytes_alarmBit (a i typ : Nat) (x : Alarm) (s : State) : bytes (alarmBit a i typ x s) = bytes s := by
  unfold alarmBit; simp
@[simp] theorem bytes_tileAlarm (code : Nat) (x : Alarm) (s : State) : bytes (tileAlarm code x s) = bytes s := by
  unfold tileAlarm; simp
@[simp] theorem bytes_addressError (a : Nat) (s : State) : bytes (addressError a s) = bytes s := by
  unfold addressError; simp
@[simp] theorem bytes_respond (v : Word) (st : Nat) (s : State) : bytes (respond v st s) = bytes s := by
  unfold respond; simp
@[simp] theorem bytes_redLost (i : Nat) (s : State) : bytes (redLost i s) = bytes s := by
  unfold redLost; simp
@[simp] theorem bytes_emit (o : Out) (s : State) : bytes (emit o s) = bytes s := by
  unfold emit; simp

/-! ### Events -/

@[simp] theorem bytes_wb64 (aL aH i : Nat) (b : Bool) (s : State) : bytes (wb64 aL aH i b s) = bytes s := by
  unfold wb64; simp
@[simp] theorem bytes_latchEdge (cl i : Nat) (s : State) : bytes (latchEdge cl i s) = bytes s := by
  unfold latchEdge; simp
@[simp] theorem bytes_putRank (cl j rk : Nat) (s : State) : bytes (putRank cl j rk s) = bytes s := by
  unfold putRank; simp
@[simp] theorem bytes_notePending (cl i : Nat) (s : State) : bytes (notePending cl i s) = bytes s := by
  unfold notePending; simp
@[simp] theorem bytes_setPend (cl i rk : Nat) (s : State) : bytes (setPend cl i rk s) = bytes s := by
  unfold setPend; simp
@[simp] theorem bytes_pendEdge (cl i rk : Nat) (s : State) : bytes (pendEdge cl i rk s) = bytes s := by
  unfold pendEdge; simp
@[simp] theorem bytes_assertSource (cl i : Nat) (s : State) : bytes (assertSource cl i s) = bytes s := by
  unfold assertSource; simp
@[simp] theorem bytes_levelRises (cl i : Nat) (was : Bool) (s : State) : bytes (levelRises cl i was s) = bytes s := by
  unfold levelRises; simp
@[simp] theorem bytes_assertAll (i : Nat) (s : State) : bytes (assertAll i s) = bytes s := by
  unfold assertAll; simp
@[simp] theorem bytes_releaseLatches (s : State) : bytes (releaseLatches s) = bytes s := by
  unfold releaseLatches; simp
@[simp] theorem bytes_putCell (cl m : Nat) (x : Cell) (s : State) : bytes (putCell cl m x s) = bytes s := by
  unfold putCell; simp
@[simp] theorem bytes_onCell (cl m : Nat) (f : Cell → Cell) (s : State) : bytes (onCell cl m f s) = bytes s := by
  unfold onCell; simp
@[simp] theorem bytes_onCtx (cl m c : Nat) (f : Ctx → Ctx) (s : State) : bytes (onCtx cl m c f s) = bytes s := by
  unfold onCtx; simp
@[simp] theorem bytes_giveCell (cl m c : Nat) (s : State) : bytes (giveCell cl m c s) = bytes s := by
  unfold giveCell; simp
@[simp] theorem bytes_yieldCell (cl m : Nat) (s : State) : bytes (yieldCell cl m s) = bytes s := by
  unfold yieldCell; try lift_lets
  repeat' (first | (intro x; first | (have hx : bytes x = bytes s := (by simp only [x]; repeat' (first | rfl | assumption | (simp [*]; done) | (refine (bytes_foldl _ _ _ (fun s x => ?_)).trans ?_) | split)); clear_value x) | clear_value x) | (first | rfl | assumption | (simp [*]; done) | (refine (bytes_foldl _ _ _ (fun s x => ?_)).trans ?_) | split) | lift_lets)
@[simp] theorem bytes_runBest (cl m : Nat) (s : State) : bytes (runBest cl m s) = bytes s := by
  unfold runBest; try lift_lets
  repeat' (first | (intro x; first | (have hx : bytes x = bytes s := (by simp only [x]; repeat' (first | rfl | assumption | (simp [*]; done) | (refine (bytes_foldl _ _ _ (fun s x => ?_)).trans ?_) | split)); clear_value x) | clear_value x) | (first | rfl | assumption | (simp [*]; done) | (refine (bytes_foldl _ _ _ (fun s x => ?_)).trans ?_) | split) | lift_lets)
@[simp] theorem bytes_reschedule (cl m : Nat) (s : State) : bytes (reschedule cl m s) = bytes s := by
  unfold reschedule; try lift_lets
  repeat' (first | (intro x; first | (have hx : bytes x = bytes s := (by simp only [x]; repeat' (first | rfl | assumption | (simp [*]; done) | (refine (bytes_foldl _ _ _ (fun s x => ?_)).trans ?_) | split)); clear_value x) | clear_value x) | (first | rfl | assumption | (simp [*]; done) | (refine (bytes_foldl _ _ _ (fun s x => ?_)).trans ?_) | split) | lift_lets)
@[simp] theorem bytes_endService (cl m c : Nat) (s : State) : bytes (endService cl m c s) = bytes s := by
  unfold endService; try lift_lets
  repeat' (first | (intro x; first | (have hx : bytes x = bytes s := (by simp only [x]; repeat' (first | rfl | assumption | (simp [*]; done) | (refine (bytes_foldl _ _ _ (fun s x => ?_)).trans ?_) | split)); clear_value x) | clear_value x) | (first | rfl | assumption | (simp [*]; done) | (refine (bytes_foldl _ _ _ (fun s x => ?_)).trans ?_) | split) | lift_lets)
@[simp] theorem bytes_offerAgain (cl : Nat) (k : Ctx) (s : State) : bytes (offerAgain cl k s) = bytes s := by
  unfold offerAgain; (repeat' split) <;> simp
@[simp] theorem bytes_stopCtx (cl m c : Nat) (s : State) : bytes (stopCtx cl m c s) = bytes s := by
  unfold stopCtx; simp
@[simp] theorem bytes_startCtx (cl m c : Nat) (s : State) : bytes (startCtx cl m c s) = bytes s := by
  unfold startCtx; simp
@[simp] theorem bytes_startSet (cl m : Nat) (s : State) : bytes (startSet cl m s) = bytes s := by
  unfold startSet; simp
@[simp] theorem bytes_faultIn7 (cl m code : Nat) (s : State) : bytes (faultIn7 cl m code s) = bytes s := by
  unfold faultIn7; simp
@[simp] theorem bytes_takeTrap (cl m : Nat) (t : TrapRec) (s : State) : bytes (takeTrap cl m t s) = bytes s := by
  unfold takeTrap; simp
@[simp] theorem bytes_raiseTrap (cl m c code pc slot adr : Nat) (s : State) : bytes (raiseTrap cl m c code pc slot
    adr s) = bytes s := by
  unfold raiseTrap; dsimp only; repeat' (first | (simp; done) | (refine (bytes_foldl _ _ _ (fun s x => ?_)).trans ?_) | split | simp)
@[simp] theorem bytes_forgetPending (cl i : Nat) (s : State) : bytes (forgetPending cl i s) = bytes s := by
  unfold forgetPending; simp
@[simp] theorem bytes_claimSource (cl i : Nat) (s : State) : bytes (claimSource cl i s) = bytes s := by
  unfold claimSource; simp
@[simp] theorem bytes_deliver (cl i e : Nat) (s : State) : bytes (deliver cl i e s) = bytes s := by
  unfold deliver; simp
@[simp] theorem bytes_countWithheld (cl i : Nat) (s : State) : bytes (countWithheld cl i s) = bytes s := by
  unfold countWithheld; simp
@[simp] theorem bytes_tryDeliver (cl : Nat) (l : List Nat) (s : State) : bytes (tryDeliver cl l s) = bytes s := by
  unfold tryDeliver
  extract_lets skipped t
  have h : bytes t = bytes s := bytes_foldl _ _ _ (fun _ _ => bytes_countWithheld ..)
  clear_value t
  generalize l.drop skipped.length = d
  cases d with
  | nil => exact h
  | cons i r =>
    dsimp only
    generalize targetOf cl i s = e
    cases e with
    | none => exact h
    | some e => exact (bytes_deliver ..).trans ((bytes_countWithheld ..).trans h)

/-! ### Composer -/

@[simp] theorem bytes_putSlice (cl : Nat) (x : Slice) (s : State) : bytes (putSlice cl x s) = bytes s := by
  unfold putSlice; simp
@[simp] theorem bytes_onSlice (cl : Nat) (f : Slice → Slice) (s : State) : bytes (onSlice cl f s) = bytes s := by
  unfold onSlice; simp
@[simp] theorem bytes_tileUe (s : State) : bytes (tileUe s) = bytes s := by
  unfold tileUe; simp
@[simp] theorem bytes_tileCe (s : State) : bytes (tileCe s) = bytes s := by
  unfold tileCe; simp
@[simp] theorem bytes_tileReads (ues ces : Nat) (s : State) : bytes (tileReads ues ces s) = bytes s := by
  unfold tileReads; simp
@[simp] theorem bytes_putSeg (cl n : Nat) (m : Option MapSeg) (s : State) : bytes (putSeg cl n m s) = bytes s := by
  unfold putSeg; simp
@[simp] theorem bytes_refreshSeg (cl n : Nat) (i : Int) (s : State) : bytes (refreshSeg cl n i s) = bytes s := by
  unfold refreshSeg; simp
@[simp] theorem bytes_takeStream (cl : Nat) (i : Int) (s : State) : bytes (takeStream cl i s) = bytes s := by
  unfold takeStream; dsimp only; repeat' (first | (simp; done) | (refine (bytes_foldl _ _ _ (fun s x => ?_)).trans ?_) | split | simp)
@[simp] theorem bytes_pantryUe (cl w : Nat) (s : State) : bytes (pantryUe cl w s) = bytes s := by
  unfold pantryUe; simp
@[simp] theorem bytes_pantryCe (cl : Nat) (s : State) : bytes (pantryCe cl s) = bytes s := by
  unfold pantryCe; simp
@[simp] theorem bytes_composeNow (cl : Nat) (i : Int) (s : State) : bytes (composeNow cl i s) = bytes s := by
  unfold composeNow; dsimp only; repeat' (first | (simp; done) | (refine (bytes_foldl _ _ _ (fun s x => ?_)).trans ?_) | split | simp)
@[simp] theorem bytes_putProof (a : Nat) (v : Word) (s : State) : bytes (putProof a v s) = bytes s := by
  unfold putProof; simp
@[simp] theorem bytes_activateProof (cl : Nat) (s : State) : bytes (activateProof cl s) = bytes s := by
  unfold activateProof; simp
@[simp] theorem bytes_reportCommit (nozzle : Bool) (issuer result : Nat) (s : State) : bytes (reportCommit nozzle
    issuer result s) = bytes s := by
  unfold reportCommit; simp
@[simp] theorem bytes_takeCommits (p : PendCommit → Bool) (mask : Nat) (s : State) : bytes (takeCommits p mask s) =
    bytes s := by
  unfold takeCommits; simp
@[simp] theorem bytes_takeProof (cl : Nat) (i : Int) (s : State) : bytes (takeProof cl i s) = bytes s := by
  unfold takeProof; try lift_lets
  repeat' (first | (intro x; first | (have hx : bytes x = bytes s := (by simp only [x]; repeat' (first | rfl | assumption | (simp [*]; done) | (refine (bytes_foldl _ _ _ (fun s x => ?_)).trans ?_) | split)); clear_value x) | clear_value x) | (first | rfl | assumption | (simp [*]; done) | (refine (bytes_foldl _ _ _ (fun s x => ?_)).trans ?_) | split) | lift_lets)
@[simp] theorem bytes_startLine (cl : Nat) (i : Int) (s : State) : bytes (startLine cl i s) = bytes s := by
  unfold startLine; simp
@[simp] theorem bytes_beginNext (cl : Nat) (s : State) : bytes (beginNext cl s) = bytes s := by
  unfold beginNext; try lift_lets
  repeat' (first | (intro x; first | (have hx : bytes x = bytes s := (by simp only [x]; repeat' (first | rfl | assumption | (simp [*]; done) | (refine (bytes_foldl _ _ _ (fun s x => ?_)).trans ?_) | split)); clear_value x) | clear_value x) | (first | rfl | assumption | (simp [*]; done) | (refine (bytes_foldl _ _ _ (fun s x => ?_)).trans ?_) | split) | lift_lets)
@[simp] theorem bytes_beginAll (s : State) : bytes (beginAll s) = bytes s := by
  unfold beginAll; simp

/-! ### PosBase -/

@[simp] theorem bytes_putRg (g : Nat) (x : Rg) (s : State) : bytes (putRg g x s) = bytes s := by
  unfold putRg; simp
@[simp] theorem bytes_putEv (e : Nat) (x : EvIn) (s : State) : bytes (putEv e x s) = bytes s := by
  unfold putEv; simp
@[simp] theorem bytes_putReg (k : Nat) (x : RegCh) (s : State) : bytes (putReg k x s) = bytes s := by
  unfold putReg; simp
@[simp] theorem bytes_putSsi (n : Nat) (x : Ssi) (s : State) : bytes (putSsi n x s) = bytes s := by
  unfold putSsi; simp
@[simp] theorem bytes_wr48 (aL aH : Nat) (i : Int) (s : State) : bytes (wr48 aL aH i s) = bytes s := by
  unfold wr48; simp
@[simp] theorem bytes_putCmp (j : Nat) (v : Int) (s : State) : bytes (putCmp j v s) = bytes s := by
  unfold putCmp; simp
@[simp] theorem bytes_putRegNext (k : Nat) (v : Int) (s : State) : bytes (putRegNext k v s) = bytes s := by
  unfold putRegNext; simp
@[simp] theorem bytes_keepPlacement (g now : Nat) (old : Option (Fire × Nat)) (s : State) : bytes (keepPlacement g
    now old s) = bytes s := by
  unfold keepPlacement; simp
@[simp] theorem bytes_trackReversal (s : State) : bytes (trackReversal s) = bytes s := by
  unfold trackReversal; simp

/-! ### Nozzle -/

@[simp] theorem bytes_readWord (w : TabWord) (s : State) : bytes (readWord w s) = bytes s := by
  unfold readWord; simp
@[simp] theorem bytes_readWords (p : TabWord → Bool) (s : State) : bytes (readWords p s) = bytes s := by
  unfold readWords; (repeat' split) <;> simp
@[simp] theorem bytes_readNoz (staged : Bool) (g n : Nat) (s : State) : bytes (readNoz staged g n s) = bytes s := by
  unfold readNoz; simp
@[simp] theorem bytes_takeMap (i : Int) (s : State) : bytes (takeMap i s) = bytes s := by
  unfold takeMap; try lift_lets
  repeat' (first | (intro x; first | (have hx : bytes x = bytes s := (by simp only [x]; repeat' (first | rfl | assumption | (simp [*]; done) | (refine (bytes_foldl _ _ _ (fun s x => ?_)).trans ?_) | split)); clear_value x) | clear_value x) | (first | rfl | assumption | (simp [*]; done) | (refine (bytes_foldl _ _ _ (fun s x => ?_)).trans ?_) | split) | lift_lets)

/-! ### Codec -/

@[simp] theorem bytes_setOcc (o : Nat) (s : State) : bytes (setOcc o s) = bytes s := by
  unfold setOcc; simp
@[simp] theorem bytes_setPointers (wp : Nat) (s : State) : bytes (setPointers wp s) = bytes s := by
  unfold setPointers; simp
@[simp] theorem bytes_raiseLate (cls : List Nat) (i : Int) (s : State) : bytes (raiseLate cls i s) = bytes s := by
  unfold raiseLate; simp
@[simp] theorem bytes_codecReport (c : Coded) (blocks : Nat) (s : State) : bytes (codecReport c blocks s) = bytes s
    := by
  unfold codecReport; simp

/-! ### Wave -/

@[simp] theorem bytes_putVoice (v : Nat) (x : Voice) (s : State) : bytes (putVoice v x s) = bytes s := by
  unfold putVoice; simp
@[simp] theorem bytes_putOut (c : Nat) (x : WOut) (s : State) : bytes (putOut c x s) = bytes s := by
  unfold putOut; simp
@[simp] theorem bytes_trigger (v t : Nat) (s : State) : bytes (trigger v t s) = bytes s := by
  unfold trigger; simp
@[simp] theorem bytes_rowTrigger (g t : Nat) (fired : Bool) (s : State) : bytes (rowTrigger g t fired s) = bytes s :=
    by
  unfold rowTrigger; simp
@[simp] theorem bytes_timerTrigger (cl t c : Nat) (s : State) : bytes (timerTrigger cl t c s) = bytes s := by
  unfold timerTrigger; simp
@[simp] theorem bytes_reading (x : Nat) (t : Int) (s : State) : bytes (reading x t s) = bytes s := by
  unfold reading; simp
@[simp] theorem bytes_pwmEdge (e : Nat) (rising : Bool) (t : Nat) (s : State) : bytes (pwmEdge e rising t s) = bytes
    s := by
  unfold pwmEdge; dsimp only; repeat' (first | (simp; done) | (refine (bytes_foldl _ _ _ (fun s x => ?_)).trans ?_) | split | simp)
@[simp] theorem bytes_jesdStart (s : State) : bytes (jesdStart s) = bytes s := by
  unfold jesdStart; simp
@[simp] theorem bytes_jesdIdle (s : State) : bytes (jesdIdle s) = bytes s := by
  unfold jesdIdle; simp
@[simp] theorem bytes_waveSafe (s : State) : bytes (waveSafe s) = bytes s := by
  unfold waveSafe; simp

/-! ### Links -/

@[simp] theorem bytes_putG3 (k : Nat) (x : G3) (s : State) : bytes (putG3 k x s) = bytes s := by
  unfold putG3; simp
@[simp] theorem bytes_emitFrame (k : Nat) (f : Frame3) (s : State) : bytes (emitFrame k f s) = bytes s := by
  unfold emitFrame; simp
@[simp] theorem bytes_sendFrame (k : Nat) (f : Frame3) (s : State) : bytes (sendFrame k f s) = bytes s := by
  unfold sendFrame; simp
@[simp] theorem bytes_abandonFrame (k : Nat) (f : Frame3) (s : State) : bytes (abandonFrame k f s) = bytes s := by
  unfold abandonFrame; simp
@[simp] theorem bytes_retransmit (k : Nat) (f : Frame3) (s : State) : bytes (retransmit k f s) = bytes s := by
  unfold retransmit; simp
@[simp] theorem bytes_portTurn (k : Nat) (n : Nat) (s : State) : bytes (portTurn k n s) = bytes s := by
  induction n generalizing s with
  | zero => rfl
  | succ n ih =>
    unfold portTurn; repeat' (first | (simp [ih]; done) | split | simp [ih])
@[simp] theorem bytes_portServe (k : Nat) (s : State) : bytes (portServe k s) = bytes s := by
  unfold portServe; simp
@[simp] theorem bytes_sendAgain (k q : Nat) (s : State) : bytes (sendAgain k q s) = bytes s := by
  unfold sendAgain; simp
@[simp] theorem bytes_servePorts (s : State) : bytes (servePorts s) = bytes s := by
  unfold servePorts; simp
@[simp] theorem bytes_sendFireOn (ps : List Nat) (g : Nat) (q : Int) (t : Nat) (hold : Bool) (s : State) : bytes
    (sendFireOn ps g q t hold s) = bytes s := by
  unfold sendFireOn; simp
@[simp] theorem bytes_sendFire (g : Nat) (q : Int) (t : Nat) (hold : Bool) (s : State) : bytes (sendFire g q t hold
    s) = bytes s := by
  unfold sendFire; simp
@[simp] theorem bytes_holdFrame (g : Nat) (q : Int) (s : State) : bytes (holdFrame g q s) = bytes s := by
  unfold holdFrame; try lift_lets
  repeat' (first | (intro x; first | (have hx : bytes x = bytes s := (by simp only [x]; repeat' (first | rfl | assumption | (simp [*]; done) | (refine (bytes_foldl _ _ _ (fun s x => ?_)).trans ?_) | split)); clear_value x) | clear_value x) | (first | rfl | assumption | (simp [*]; done) | (refine (bytes_foldl _ _ _ (fun s x => ?_)).trans ?_) | split) | lift_lets)
@[simp] theorem bytes_withdrawFires (s : State) : bytes (withdrawFires s) = bytes s := by
  unfold withdrawFires; try lift_lets
  repeat' (first | (intro x; first | (have hx : bytes x = bytes s := (by simp only [x]; repeat' (first | rfl | assumption | (simp [*]; done) | (refine (bytes_foldl _ _ _ (fun s x => ?_)).trans ?_) | split)); clear_value x) | clear_value x) | (first | rfl | assumption | (simp [*]; done) | (refine (bytes_foldl _ _ _ (fun s x => ?_)).trans ?_) | split) | lift_lets)
@[simp] theorem bytes_fireUpdates (s : State) : bytes (fireUpdates s) = bytes s := by
  unfold fireUpdates
  refine (bytes_foldl _ _ _ (fun s x => ?_)).trans (bytes_withdrawFires s)
  repeat' (first | rfl | (simp; done) | split)
@[simp] theorem bytes_emitPin (o : Out) (s : State) : bytes (emitPin o s) = bytes s := by
  unfold emitPin; simp
@[simp] theorem bytes_strobeFall (o t : Nat) (s : State) : bytes (strobeFall o t s) = bytes s := by
  unfold strobeFall; simp
@[simp] theorem bytes_cutPulse (o t : Nat) (q : Int) (g : Nat) (s : State) : bytes (cutPulse o t q g s) = bytes s :=
    by
  unfold cutPulse; simp
@[simp] theorem bytes_strobeRise (o t : Nat) (q : Int) (g : Nat) (s : State) : bytes (strobeRise o t q g s) = bytes s
    := by
  unfold strobeRise; try lift_lets
  repeat' (first | (intro x; first | (have hx : bytes x = bytes s := (by simp only [x]; repeat' (first | rfl | assumption | (simp [*]; done) | (refine (bytes_foldl _ _ _ (fun s x => ?_)).trans ?_) | split)); clear_value x) | clear_value x) | (first | rfl | assumption | (simp [*]; done) | (refine (bytes_foldl _ _ _ (fun s x => ?_)).trans ?_) | split) | lift_lets)
@[simp] theorem bytes_pulse (g t : Nat) (q : Int) (late : List (Nat × Nat)) (sup : List Nat) (s : State) : bytes
    (pulse g t q late sup s) = bytes s := by
  unfold pulse; simp
@[simp] theorem bytes_emitGen2 (k : Nat) (body : List Byte) (abort : Bool) (s : State) : bytes (emitGen2 k body abort
    s) = bytes s := by
  unfold emitGen2; simp
@[simp] theorem bytes_abortGen2 (k : Nat) (q : Int) (s : State) : bytes (abortGen2 k q s) = bytes s := by
  unfold abortGen2; dsimp only; repeat' (first | (simp; done) | (refine (bytes_foldl _ _ _ (fun s x => ?_)).trans ?_) | split | simp)
@[simp] theorem bytes_cutGen2 (k : Nat) (s : State) : bytes (cutGen2 k s) = bytes s := by
  unfold cutGen2; (repeat' split) <;> simp
@[simp] theorem bytes_dropUnsent (g : Nat) (q : Int) (fires : Bool) (s : State) : bytes (dropUnsent g q fires s).1 =
    bytes s := by
  unfold dropUnsent; simp
@[simp] theorem bytes_fireNow (g : Nat) (f : Fire) (t : Nat) (s : State) : bytes (fireNow g f t s) = bytes s := by
  unfold fireNow; dsimp only; repeat' (first | (simp; done) | (refine (bytes_foldl _ _ _ (fun s x => ?_)).trans ?_) | split | simp)
@[simp] theorem bytes_lineStoreUe (a : Nat) (s : State) : bytes (lineStoreUe a s) = bytes s := by
  unfold lineStoreUe; simp
@[simp] theorem bytes_putCopy (g : Nat) (c : Option CopyBuf) (s : State) : bytes (putCopy g c s) = bytes s := by
  unfold putCopy; simp
@[simp] theorem bytes_peelDo (g : Nat) (q i : Int) (quiet : Bool) (s : State) : bytes (peelDo g q i quiet s).1 =
    bytes s := by
  unfold peelDo; dsimp only; repeat' (first | (simp; done) | (refine (bytes_foldl _ _ _ (fun s x => ?_)).trans ?_) | split | simp)
@[simp] theorem bytes_queueXfers (g : Nat) (q tq : Int) (codes : List Nat) (poison : List Bool) (red noFire spit zero
    : Bool) (s : State) : bytes (queueXfers g q tq codes poison red noFire spit zero s) = bytes s := by
  unfold queueXfers; simp
@[simp] theorem bytes_peelTake (g : Nat) (q i n : Int) (s : State) : bytes (peelTake g q i n s).1 = bytes s := by
  unfold peelTake; try lift_lets
  repeat' (first | (intro x; first | (have hx : bytes x = bytes s := (by simp only [x]; repeat' (first | rfl | assumption | (simp [*]; done) | (refine (bytes_foldl _ _ _ (fun s x => ?_)).trans ?_) | split)); clear_value x) | clear_value x) | (first | rfl | assumption | (simp [*]; done) | (refine (bytes_foldl _ _ _ (fun s x => ?_)).trans ?_) | split) | lift_lets)
@[simp] theorem bytes_peelRead (b : Int) (g : Nat) (s : State) : bytes (peelRead b g s) = bytes s := by
  unfold peelRead; dsimp only; repeat' (first | (simp; done) | (refine (bytes_foldl _ _ _ (fun s x => ?_)).trans ?_) | split | simp)

/-! ### Modes -/

@[simp] theorem bytes_mapSlices (f : Slice → Slice) (s : State) : bytes (mapSlices f s) = bytes s := by
  unfold mapSlices; simp
@[simp] theorem bytes_enterComposing (s : State) : bytes (enterComposing s) = bytes s := by
  unfold enterComposing; simp
@[simp] theorem bytes_withdrawSent (g : Nat) (s : State) : bytes (withdrawSent g s) = bytes s := by
  unfold withdrawSent; try lift_lets
  repeat' (first | (intro x; first | (have hx : bytes x = bytes s := (by simp only [x]; repeat' (first | rfl | assumption | (simp [*]; done) | (refine (bytes_foldl _ _ _ (fun s x => ?_)).trans ?_) | split)); clear_value x) | clear_value x) | (first | rfl | assumption | (simp [*]; done) | (refine (bytes_foldl _ _ _ (fun s x => ?_)).trans ?_) | split) | lift_lets)
@[simp] theorem bytes_safeEntry (s : State) : bytes (safeEntry s) = bytes s := by
  unfold safeEntry; dsimp only; repeat' (first | (simp; done) | (refine (bytes_foldl _ _ _ (fun s x => ?_)).trans ?_) | split | simp)
@[simp] theorem bytes_noteMode (m : Mode) (cause : Nat) (forced : Bool) (s : State) : bytes (noteMode m cause forced
    s) = bytes s := by
  unfold noteMode; simp
@[simp] theorem bytes_lowerOutputs (m : Mode) (s : State) : bytes (lowerOutputs m s) = bytes s := by
  unfold lowerOutputs; simp
@[simp] theorem bytes_leaveSpit (from_ : Mode) (s : State) : bytes (leaveSpit from_ s) = bytes s := by
  unfold leaveSpit; simp
@[simp] theorem bytes_intoSafe (m : Mode) (s : State) : bytes (intoSafe m s) = bytes s := by
  unfold intoSafe; simp
@[simp] theorem bytes_forceSafe (cause : Nat) (s : State) : bytes (forceSafe cause s) = bytes s := by
  unfold forceSafe setMode intoComposing; rw [show composes .safe = false from rfl]; split <;> simp
@[simp] theorem bytes_answerRequest (result n : Nat) (s : State) : bytes (answerRequest result n s) = bytes s := by
  unfold answerRequest; simp
@[simp] theorem bytes_turnedAway (w : Writer) (s : State) : bytes (turnedAway w s) = bytes s := by
  unfold turnedAway; try lift_lets
  repeat' (first | (intro x; first | (have hx : bytes x = bytes s := (by simp only [x]; repeat' (first | rfl | assumption | (simp [*]; done) | (refine (bytes_foldl _ _ _ (fun s x => ?_)).trans ?_) | split)); clear_value x) | clear_value x) | (first | rfl | assumption | (simp [*]; done) | (refine (bytes_foldl _ _ _ (fun s x => ?_)).trans ?_) | split) | lift_lets)
@[simp] theorem bytes_renumber (s : State) : bytes (renumber s) = bytes s := by
  unfold renumber
  rw [bytes_mk, bytes_mapSlices, bytes_foldl]
  intro s x
  dsimp only
  rw [bytes_putRg, bytes_withdrawSent]
@[simp] theorem bytes_wake (s : State) : bytes (wake s) = bytes s := by
  unfold wake; simp
@[simp] theorem bytes_motionWake (s : State) : bytes (motionWake s) = bytes s := by
  unfold motionWake; simp
@[simp] theorem bytes_requestSleep (s : State) : bytes (requestSleep s) = bytes s := by
  unfold requestSleep; simp
@[simp] theorem bytes_requestIllegal (n : Nat) (s : State) : bytes (requestIllegal n s) = bytes s := by
  unfold requestIllegal; simp

/-! ### Pairs -/

@[simp] theorem bytes_stagePut (w : Writer) (h v : Nat) (s : State) : bytes (stagePut w h v s) = bytes s := by
  unfold stagePut; simp
@[simp] theorem bytes_stageTake (w : Writer) (h : Nat) (s : State) : bytes (stageTake w h s).2 = bytes s := by
  unfold stageTake; try lift_lets
  repeat' (first | (intro x; first | (have hx : bytes x = bytes s := (by simp only [x]; repeat' (first | rfl | assumption | (simp [*]; done) | (refine (bytes_foldl _ _ _ (fun s x => ?_)).trans ?_) | split)); clear_value x) | clear_value x) | (first | rfl | assumption | (simp [*]; done) | (refine (bytes_foldl _ _ _ (fun s x => ?_)).trans ?_) | split) | lift_lets)
@[simp] theorem bytes_latchPut (w : Writer) (l : List (Nat × Nat)) (s : State) : bytes (latchPut w l s) = bytes s :=
    by
  unfold latchPut; simp
@[simp] theorem bytes_latchTake (w : Writer) (h : Nat) (s : State) : bytes (latchTake w h s).2 = bytes s := by
  unfold latchTake; try lift_lets
  repeat' (first | (intro x; first | (have hx : bytes x = bytes s := (by simp only [x]; repeat' (first | rfl | assumption | (simp [*]; done) | (refine (bytes_foldl _ _ _ (fun s x => ?_)).trans ?_) | split)); clear_value x) | clear_value x) | (first | rfl | assumption | (simp [*]; done) | (refine (bytes_foldl _ _ _ (fun s x => ?_)).trans ?_) | split) | lift_lets)

/-! ### Timers -/

@[simp] theorem bytes_putTmr (cl n : Nat) (x : Tmr) (s : State) : bytes (putTmr cl n x s) = bytes s := by
  unfold putTmr; simp
@[simp] theorem bytes_setCnt (cl n v : Nat) (s : State) : bytes (setCnt cl n v s) = bytes s := by
  unfold setCnt; simp
@[simp] theorem bytes_onNow (cl n : Nat) (f : TmrNow → TmrNow) (s : State) : bytes (onNow cl n f s) = bytes s := by
  unfold onNow; simp
@[simp] theorem bytes_spitStart (s : State) : bytes (spitStart s) = bytes s := by
  unfold spitStart; simp
@[simp] theorem bytes_dmaRequest (cl n : Nat) (s : State) : bytes (dmaRequest cl n s) = bytes s := by
  unfold dmaRequest; simp
@[simp] theorem bytes_timerOutputs (cl n c : Nat) (ovf mat : Bool) (s : State) : bytes (timerOutputs cl n c ovf mat
    s) = bytes s := by
  unfold timerOutputs; simp
@[simp] theorem bytes_capture (cl n : Nat) (s : State) : bytes (capture cl n s) = bytes s := by
  unfold capture; dsimp only; repeat' (first | (simp; done) | (refine (bytes_foldl _ _ _ (fun s x => ?_)).trans ?_) | split | simp)
@[simp] theorem bytes_timerEvent (cl n : Nat) (ovf mat : Bool) (s : State) : bytes (timerEvent cl n ovf mat s) =
    bytes s := by
  unfold timerEvent; simp
@[simp] theorem bytes_tickCnt (cl n : Nat) (s : State) : bytes (tickCnt cl n s).1 = bytes s := by
  unfold tickCnt; try lift_lets
  repeat' (first | (intro x; first | (have hx : bytes x = bytes s := (by simp only [x]; repeat' (first | rfl | assumption | (simp [*]; done) | (refine (bytes_foldl _ _ _ (fun s x => ?_)).trans ?_) | split)); clear_value x) | clear_value x) | (first | rfl | assumption | (simp [*]; done) | (refine (bytes_foldl _ _ _ (fun s x => ?_)).trans ?_) | split) | lift_lets)
@[simp] theorem bytes_tickTimer (cl n : Nat) (s : State) : bytes (tickTimer cl n s) = bytes s := by
  unfold tickTimer; simp
@[simp] theorem bytes_reload (cl n : Nat) (s : State) : bytes (reload cl n s) = bytes s := by
  unfold reload; simp
@[simp] theorem bytes_timerEnd (cl n : Nat) (gate : Bool) (s : State) : bytes (timerEnd cl n gate s) = bytes s := by
  unfold timerEnd; dsimp only; repeat' (first | (simp; done) | (refine (bytes_foldl _ _ _ (fun s x => ?_)).trans ?_) | split | simp)
@[simp] theorem bytes_timerAfter (cl m c : Nat) (y : TmrNow) (s : State) : bytes (timerAfter cl m c y s) = bytes s :=
    by
  unfold timerAfter; simp
@[simp] theorem bytes_timersCore (s : State) : bytes (timersCore s) = bytes s := by
  unfold timersCore; simp
@[simp] theorem bytes_gatesCore (s : State) : bytes (gatesCore s) = bytes s := by
  unfold gatesCore; simp
@[simp] theorem bytes_timersLine (s : State) : bytes (timersLine s) = bytes s := by
  unfold timersLine; simp
@[simp] theorem bytes_timerEvIn (e : Nat) (s : State) : bytes (timerEvIn e s) = bytes s := by
  unfold timerEvIn; simp
@[simp] theorem bytes_writeCnt (cl n : Nat) (v : Word) (s : State) : bytes (writeCnt cl n v s) = bytes s := by
  unfold writeCnt; simp
@[simp] theorem bytes_writePer (cl n : Nat) (v : Word) (s : State) : bytes (writePer cl n v s) = bytes s := by
  unfold writePer; simp
@[simp] theorem bytes_openCap (cl n : Nat) (s : State) : bytes (openCap cl n s) = bytes s := by
  unfold openCap; simp
@[simp] theorem bytes_closeCap (cl n : Nat) (s : State) : bytes (closeCap cl n s) = bytes s := by
  unfold closeCap; try lift_lets
  repeat' (first | (intro x; first | (have hx : bytes x = bytes s := (by simp only [x]; repeat' (first | rfl | assumption | (simp [*]; done) | (refine (bytes_foldl _ _ _ (fun s x => ?_)).trans ?_) | split)); clear_value x) | clear_value x) | (first | rfl | assumption | (simp [*]; done) | (refine (bytes_foldl _ _ _ (fun s x => ?_)).trans ?_) | split) | lift_lets)
@[simp] theorem bytes_applyMakeUp (cl n : Nat) (m : MakeUp) (s : State) : bytes (applyMakeUp cl n m s) = bytes s := by
  unfold applyMakeUp; dsimp only; repeat' (first | (simp; done) | (refine (bytes_foldl _ _ _ (fun s x => ?_)).trans ?_) | split | simp)
@[simp] theorem bytes_makeUpCluster (cl e : Nat) (s : State) : bytes (makeUpCluster cl e s) = bytes s := by
  unfold makeUpCluster; simp
@[simp] theorem bytes_stopTimers (s : State) : bytes (stopTimers s) = bytes s := by
  unfold stopTimers; simp

/-! ### Chain -/

@[simp] theorem bytes_refreshCons (s : State) : bytes (refreshCons s) = bytes s := by
  unfold refreshCons; simp
@[simp] theorem bytes_mismatchPolicy (s : State) : bytes (mismatchPolicy s) = bytes s := by
  unfold mismatchPolicy; simp
@[simp] theorem bytes_raiseCond (i : Nat) (p : Int) (s : State) : bytes (raiseCond i p s) = bytes s := by
  unfold raiseCond; simp
@[simp] theorem bytes_checkCond (i : Nat) (bad : Bool) (p : Int) (s : State) : bytes (checkCond i bad p s) = bytes s
    := by
  unfold checkCond; simp
@[simp] theorem bytes_sendForward (rep : Bool) (s : State) : bytes (sendForward rep s) = bytes s := by
  unfold sendForward; simp
@[simp] theorem bytes_headBoundary (s : State) : bytes (headBoundary s) = bytes s := by
  unfold headBoundary; simp
@[simp] theorem bytes_headFree (s : State) : bytes (headFree s) = bytes s := by
  unfold headFree; simp
@[simp] theorem bytes_indexFlags (s : State) : bytes (indexFlags s) = bytes s := by
  unfold indexFlags; simp
@[simp] theorem bytes_alignTo (x : Fwd) (s : State) : bytes (alignTo x s) = bytes s := by
  unfold alignTo; simp
@[simp] theorem bytes_checkDigest (x : Fwd) (s : State) : bytes (checkDigest x s) = bytes s := by
  unfold checkDigest; simp
@[simp] theorem bytes_checkSlip (x : Fwd) (s : State) : bytes (checkSlip x s) = bytes s := by
  unfold checkSlip
  generalize slipAbove x s = b
  generalize slipOf x s = d
  dsimp only
  split
  · rw [bytes_raiseCond, bytes_mk, bytes_drawn, bytes_wr]
  · split
    · rw [bytes_wb, bytes_mk, bytes_drawn, bytes_wr]
    · rw [bytes_mk, bytes_drawn, bytes_wr]
@[simp] theorem bytes_checkCount (k : Nat) (p : Int) (s : State) : bytes (checkCount k p s) = bytes s := by
  unfold checkCount; simp
@[simp] theorem bytes_chainChecks (x : Fwd) (aligned : Bool) (s : State) : bytes (chainChecks x aligned s) = bytes s
    := by
  unfold chainChecks; simp
@[simp] theorem bytes_frameDiscarded (ret : Bool) (s : State) : bytes (frameDiscarded ret s) = bytes s := by
  unfold frameDiscarded; simp
@[simp] theorem bytes_requestAlign (s : State) : bytes (requestAlign s) = bytes s := by
  unfold requestAlign; simp
@[simp] theorem bytes_newEpoch (s : State) : bytes (newEpoch s) = bytes s := by
  unfold newEpoch; simp
@[simp] theorem bytes_rebaseNow (s : State) : bytes (rebaseNow s) = bytes s := by
  unfold rebaseNow; simp

/-! ### Boundary -/

@[simp] theorem bytes_measurePeriod (s : State) : bytes (measurePeriod s) = bytes s := by
  unfold measurePeriod; try lift_lets
  repeat' (first | (intro x; first | (have hx : bytes x = bytes s := (by simp only [x]; repeat' (first | rfl | assumption | (simp [*]; done) | (refine (bytes_foldl _ _ _ (fun s x => ?_)).trans ?_) | split)); clear_value x) | clear_value x) | (first | rfl | assumption | (simp [*]; done) | (refine (bytes_foldl _ _ _ (fun s x => ?_)).trans ?_) | split) | lift_lets)
@[simp] theorem bytes_indexLimit (s : State) : bytes (indexLimit s) = bytes s := by
  unfold indexLimit; simp
@[simp] theorem bytes_overdueFire (g : Nat) (s : State) : bytes (overdueFire g s) = bytes s := by
  unfold overdueFire; try lift_lets
  repeat' (first | (intro x; first | (have hx : bytes x = bytes s := (by simp only [x]; repeat' (first | rfl | assumption | (simp [*]; done) | (refine (bytes_foldl _ _ _ (fun s x => ?_)).trans ?_) | split)); clear_value x) | clear_value x) | (first | rfl | assumption | (simp [*]; done) | (refine (bytes_foldl _ _ _ (fun s x => ?_)).trans ?_) | split) | lift_lets)
@[simp] theorem bytes_pendFire (g : Nat) (s : State) : bytes (pendFire g s) = bytes s := by
  unfold pendFire; simp
@[simp] theorem bytes_updateReg (k : Nat) (s : State) : bytes (updateReg k s) = bytes s := by
  unfold updateReg; simp
@[simp] theorem bytes_startSsi (n : Nat) (s : State) : bytes (startSsi n s) = bytes s := by
  unfold startSsi; simp
@[simp] theorem bytes_fallDue (s : State) : bytes (fallDue s) = bytes s := by
  unfold fallDue; simp
@[simp] theorem bytes_autoApply (s : State) : bytes (autoApply s) = bytes s := by
  unfold autoApply; simp
@[simp] theorem bytes_autoCommit (s : State) : bytes (autoCommit s) = bytes s := by
  unfold autoCommit; simp
@[simp] theorem bytes_takeSwitch (s : State) : bytes (takeSwitch s) = bytes s := by
  unfold takeSwitch; try lift_lets
  repeat' (first | (intro x; first | (have hx : bytes x = bytes s := (by simp only [x]; repeat' (first | rfl | assumption | (simp [*]; done) | (refine (bytes_foldl _ _ _ (fun s x => ?_)).trans ?_) | split)); clear_value x) | clear_value x) | (first | rfl | assumption | (simp [*]; done) | (refine (bytes_foldl _ _ _ (fun s x => ?_)).trans ?_) | split) | lift_lets)
@[simp] theorem bytes_beacon (s : State) : bytes (beacon s) = bytes s := by
  unfold beacon; simp

/-! ### Position -/

@[simp] theorem bytes_recordRaw (i : RawIn) (s : State) : bytes (recordRaw i s) = bytes s := by
  unfold recordRaw; simp
@[simp] theorem bytes_compareMove (p0 p1 h : Int) (j : Nat) (s : State) : bytes (compareMove p0 p1 h j s) = bytes s
    := by
  unfold compareMove; simp
@[simp] theorem bytes_compareAll (p0 p1 h : Int) (s : State) : bytes (compareAll p0 p1 h s) = bytes s := by
  unfold compareAll; simp
@[simp] theorem bytes_crossThresholds (p1 : Int) (s : State) : bytes (crossThresholds p1 s) = bytes s := by
  unfold crossThresholds; try lift_lets
  repeat' (first | (intro x; first | (have hx : bytes x = bytes s := (by simp only [x]; repeat' (first | rfl | assumption | (simp [*]; done) | (refine (bytes_foldl _ _ _ (fun s x => ?_)).trans ?_) | split)); clear_value x) | clear_value x) | (first | rfl | assumption | (simp [*]; done) | (refine (bytes_foldl _ _ _ (fun s x => ?_)).trans ?_) | split) | lift_lets)
@[simp] theorem bytes_issueHeld (s : State) : bytes (issueHeld s) = bytes s := by
  unfold issueHeld; simp
@[simp] theorem bytes_countVelocity (s : State) : bytes (countVelocity s) = bytes s := by
  unfold countVelocity; try lift_lets
  repeat' (first | (intro x; first | (have hx : bytes x = bytes s := (by simp only [x]; repeat' (first | rfl | assumption | (simp [*]; done) | (refine (bytes_foldl _ _ _ (fun s x => ?_)).trans ?_) | split)); clear_value x) | clear_value x) | (first | rfl | assumption | (simp [*]; done) | (refine (bytes_foldl _ _ _ (fun s x => ?_)).trans ?_) | split) | lift_lets)
@[simp] theorem bytes_countSeen (s : State) : bytes (countSeen s) = bytes s := by
  unfold countSeen; simp
@[simp] theorem bytes_putEnc (n : Nat) (x : Enc) (s : State) : bytes (putEnc n x s) = bytes s := by
  unfold putEnc; simp
@[simp] theorem bytes_countInput (n : Nat) (d : Int) (s : State) : bytes (countInput n d s) = bytes s := by
  unfold countInput; simp
@[simp] theorem bytes_deviate (k : Nat) (dev : Int) (s : State) : bytes (deviate k dev s) = bytes s := by
  unfold deviate; simp
@[simp] theorem bytes_keepDecoder (k : Nat) (s : State) : bytes (keepDecoder k s) = bytes s := by
  unfold keepDecoder; simp
@[simp] theorem bytes_landCapture (e t : Nat) (p : Int) (s : State) : bytes (landCapture e t p s) = bytes s := by
  unfold landCapture; simp
@[simp] theorem bytes_markCapture (k : Nat) (p : Int) (s : State) : bytes (markCapture k p s) = bytes s := by
  unfold markCapture; simp

/-! ### PosRegs -/

@[simp] theorem bytes_codedWrite (a : Nat) (v : Word) (s : State) : bytes (codedWrite a v s) = bytes s := by
  unfold codedWrite; try lift_lets
  repeat' (first | (intro x; first | (have hx : bytes x = bytes s := (by simp only [x]; repeat' (first | rfl | assumption | (simp [*]; done) | (refine (bytes_foldl _ _ _ (fun s x => ?_)).trans ?_) | split)); clear_value x) | clear_value x) | (first | rfl | assumption | (simp [*]; done) | (refine (bytes_foldl _ _ _ (fun s x => ?_)).trans ?_) | split) | lift_lets)
@[simp] theorem bytes_sealEvent (hit : Bool) (a : Nat) (s : State) : bytes (sealEvent hit a s) = bytes s := by
  unfold sealEvent; simp
@[simp] theorem bytes_writeGf (n : Nat) (v : Word) (s : State) : bytes (writeGf n v s) = bytes s := by
  unfold writeGf; simp
@[simp] theorem bytes_clearRead (a : Nat) (s : State) : bytes (clearRead a s) = bytes s := by
  unfold clearRead; simp
@[simp] theorem bytes_returnDecoder (s : State) : bytes (returnDecoder s) = bytes s := by
  unfold returnDecoder; simp
@[simp] theorem bytes_commitCompare (j : Nat) (v : Int) (s : State) : bytes (commitCompare j v s) = bytes s := by
  unfold commitCompare; simp
@[simp] theorem bytes_openCapture (w : Writer) (e : Nat) (s : State) : bytes (openCapture w e s) = bytes s := by
  unfold openCapture; simp
@[simp] theorem bytes_closeCapture (e : Nat) (s : State) : bytes (closeCapture e s) = bytes s := by
  unfold closeCapture; try lift_lets
  repeat' (first | (intro x; first | (have hx : bytes x = bytes s := (by simp only [x]; repeat' (first | rfl | assumption | (simp [*]; done) | (refine (bytes_foldl _ _ _ (fun s x => ?_)).trans ?_) | split)); clear_value x) | clear_value x) | (first | rfl | assumption | (simp [*]; done) | (refine (bytes_foldl _ _ _ (fun s x => ?_)).trans ?_) | split) | lift_lets)
@[simp] theorem bytes_writeRegCtl (k : Nat) (v : Word) (s : State) : bytes (writeRegCtl k v s) = bytes s := by
  unfold writeRegCtl; simp
@[simp] theorem bytes_latchModes (w : Writer) (s : State) : bytes (latchModes w s) = bytes s := by
  unfold latchModes; simp

/-! ### LineCmds -/

@[simp] theorem bytes_writeProof (cl a : Nat) (v : Word) (s : State) : bytes (writeProof cl a v s) = bytes s := by
  unfold writeProof; simp
@[simp] theorem bytes_proofAccess (w : Writer) (cl a : Nat) (v : Word) (s : State) : bytes (proofAccess w cl a v s) =
    bytes s := by
  unfold proofAccess; dsimp only; repeat' (first | (simp; done) | (refine (bytes_foldl _ _ _ (fun s x => ?_)).trans ?_) | split | simp)
@[simp] theorem bytes_issueCommit (nozzle : Bool) (issuer mask : Nat) (s : State) : bytes (issueCommit nozzle issuer
    mask s) = bytes s := by
  unfold issueCommit; simp
@[simp] theorem bytes_autoDecided (ok : Bool) (s : State) : bytes (autoDecided ok s) = bytes s := by
  unfold autoDecided; simp
@[simp] theorem bytes_decideCommit (c : Commit) (s : State) : bytes (decideCommit c s) = bytes s := by
  unfold decideCommit; simp
@[simp] theorem bytes_retakeStream (cl : Nat) (i : Int) (s : State) : bytes (retakeStream cl i s) = bytes s := by
  unfold retakeStream; simp
@[simp] theorem bytes_takeAtStart (cl : Nat) (l : Int) (s : State) : bytes (takeAtStart cl l s) = bytes s := by
  unfold takeAtStart; simp
@[simp] theorem bytes_recompose (mask : Nat) (l : Int) (s : State) : bytes (recompose mask l s) = bytes s := by
  unfold recompose; simp
@[simp] theorem bytes_setStreamWp (o : Nat) (s : State) : bytes (setStreamWp o s) = bytes s := by
  unfold setStreamWp; simp
@[simp] theorem bytes_resetStream (s : State) : bytes (resetStream s) = bytes s := by
  unfold resetStream; simp

/-! ### CondCmds -/

@[simp] theorem bytes_onBusy (f : Coded → Coded) (s : State) : bytes (onBusy f s) = bytes s := by
  unfold onBusy; simp
@[simp] theorem bytes_applyUpd (v : Word) (s : State) : bytes (applyUpd v s) = bytes s := by
  unfold applyUpd; simp
@[simp] theorem bytes_nozzleOut (g n : Nat) (s : State) : bytes (nozzleOut g n s) = bytes s := by
  unfold nozzleOut; simp
@[simp] theorem bytes_writeNzlCfg (v : Word) (s : State) : bytes (writeNzlCfg v s) = bytes s := by
  unfold writeNzlCfg; simp

/-! ### Store -/

@[simp] theorem bytes_setJob (j : SliceJob) (s : State) : bytes (setJob j s) = bytes s := by
  unfold setJob; simp
@[simp] theorem bytes_noSpare (s : State) : bytes (noSpare s) = bytes s := by
  unfold noSpare; simp
@[simp] theorem bytes_standIn (k p : Nat) (s : State) : bytes (standIn k p s) = bytes s := by
  unfold standIn; simp
@[simp] theorem bytes_repairsGoOn (s : State) : bytes (repairsGoOn s) = bytes s := by
  unfold repairsGoOn; dsimp only; repeat' (first | (simp; done) | (refine (bytes_foldl _ _ _ (fun s x => ?_)).trans ?_) | split | simp)
@[simp] theorem bytes_needRepair (k : Nat) (s : State) : bytes (needRepair k s) = bytes s := by
  unfold needRepair; dsimp only; repeat' (first | (simp; done) | (refine (bytes_foldl _ _ _ (fun s x => ?_)).trans ?_) | split | simp)
@[simp] theorem bytes_blockUes (a : Nat) (s : State) : bytes (blockUes a s) = bytes s := by
  unfold blockUes; simp
@[simp] theorem bytes_countSlice (k : Nat) (s : State) : bytes (countSlice k s) = bytes s := by
  unfold countSlice; simp

/-! ### HeadLink -/

@[simp] theorem bytes_sentXfers (p : Xfer → Bool) (s : State) : bytes (sentXfers p s) = bytes s := by
  unfold sentXfers; simp
@[simp] theorem bytes_acceptSwitch (l : Int) (t : Bool) (s : State) : bytes (acceptSwitch l t s) = bytes s := by
  unfold acceptSwitch; simp
@[simp] theorem bytes_portFails (k : Nat) (s : State) : bytes (portFails k s) = bytes s := by
  unfold portFails; simp
@[simp] theorem bytes_txLaneFails (k l : Nat) (s : State) : bytes (txLaneFails k l s) = bytes s := by
  unfold txLaneFails; simp
@[simp] theorem bytes_tempEntry (k q e : Nat) (s : State) : bytes (tempEntry k q e s) = bytes s := by
  unfold tempEntry; simp
@[simp] theorem bytes_retrainPort (k : Nat) (s : State) : bytes (retrainPort k s) = bytes s := by
  unfold retrainPort; simp
@[simp] theorem bytes_requestSwitch (t : Bool) (s : State) : bytes (requestSwitch t s) = bytes s := by
  unfold requestSwitch; simp
@[simp] theorem bytes_noPeel (s : State) : bytes (noPeel s) = bytes s := by
  unfold noPeel; simp
/-! ### Fetch -/

@[simp] theorem bytes_onFetch (cl m : Nat) (f : Fetch → Fetch) (s : State) : bytes (onFetch cl m f s) = bytes s := by
  unfold onFetch; simp
@[simp] theorem bytes_localUe (cl m a : Nat) (s : State) : bytes (localUe cl m a s) = bytes s := by
  unfold localUe; simp
@[simp] theorem bytes_localCe (cl : Nat) (s : State) : bytes (localCe cl s) = bytes s := by
  unfold localCe; simp
@[simp] theorem bytes_countFetch (cl m a n : Nat) (s : State) : bytes (countFetch cl m a n s) = bytes s := by
  unfold countFetch; simp
@[simp] theorem bytes_refill (cl m pc : Nat) (s : State) : bytes (refill cl m pc s) = bytes s := by
  unfold refill; simp
@[simp] theorem bytes_cacheAsk (cl m a : Nat) (s : State) : bytes (cacheAsk cl m a s) = bytes s := by
  unfold cacheAsk; dsimp only; repeat' (first | (simp; done) | (refine (bytes_foldl _ _ _ (fun s x => ?_)).trans ?_) | split | simp)
@[simp] theorem bytes_cacheStore (cl m a : Nat) (v : Half) (s : State) : bytes (cacheStore cl m a v s) = bytes s := by
  unfold cacheStore; simp
@[simp] theorem bytes_keepOld (cl m a : Nat) (s : State) : bytes (keepOld cl m a s) = bytes s := by
  unfold keepOld; simp
@[simp] theorem bytes_fetched (cl m pc n : Nat) (s : State) : bytes (fetched cl m pc n s) = bytes s := by
  unfold fetched; simp
@[simp] theorem bytes_begun (cl m : Nat) (again : Bool) (short : Option Short) (s : State) : bytes (begun cl m again
    short s) = bytes s := by
  unfold begun; simp
@[simp] theorem bytes_hold (cl m : Nat) (s : State) : bytes (hold cl m s) = bytes s := by
  unfold hold; simp
@[simp] theorem bytes_teach (cl m : Nat) (f : Fetch → Fetch) (s : State) : bytes (teach cl m f s) = bytes s := by
  unfold teach; simp
@[simp] theorem bytes_redirect (cl m : Nat) (s : State) : bytes (redirect cl m s) = bytes s := by
  unfold redirect; simp
@[simp] theorem bytes_refetch (cl m : Nat) (s : State) : bytes (refetch cl m s) = bytes s := by
  unfold refetch; simp
@[simp] theorem bytes_mulIssued (cl m : Nat) (s : State) : bytes (mulIssued cl m s) = bytes s := by
  unfold mulIssued; simp
@[simp] theorem bytes_mulWait (cl m : Nat) (s : State) : bytes (mulWait cl m s) = bytes s := by
  unfold mulWait; simp
@[simp] theorem bytes_stallCycle (cl m : Nat) (s : State) : bytes (stallCycle cl m s) = bytes s := by
  unfold stallCycle; simp
@[simp] theorem bytes_windowWait (cl m b : Nat) (s : State) : bytes (windowWait cl m b s) = bytes s := by
  unfold windowWait; simp

/-! ### Operands -/

@[simp] theorem bytes_trapHere (cl m c code adr : Nat) (s : State) : bytes (trapHere cl m c code adr s) = bytes s :=
    by
  unfold trapHere; simp
@[simp] theorem bytes_transfer (g : Guess) (cl m c : Nat) (t : Int) (ret : Option Nat) (f : Ctx → Ctx) (s : State) :
    bytes (transfer g cl m c t ret f s) = bytes s := by
  unfold transfer; dsimp only; repeat' (first | (simp; done) | (refine (bytes_foldl _ _ _ (fun s x => ?_)).trans ?_) | split | simp)
@[simp] theorem bytes_claimMr (cl m c : Nat) (s : State) : bytes (claimMr cl m c s) = bytes s := by
  unfold claimMr; simp
@[simp] theorem bytes_markDirty (cl m c : Nat) (which : List Nat) (s : State) : bytes (markDirty cl m c which s) =
    bytes s := by
  unfold markDirty; simp

/-! ### Ctl -/

@[simp] theorem bytes_startReq (cl m mask : Nat) (s : State) : bytes (startReq cl m mask s) = bytes s := by
  unfold startReq; simp
@[simp] theorem bytes_stopReq (cl m mask : Nat) (s : State) : bytes (stopReq cl m mask s) = bytes s := by
  unfold stopReq; simp
@[simp] theorem bytes_cellRestart (cl m : Nat) (s : State) : bytes (cellRestart cl m s) = bytes s := by
  unfold cellRestart; simp
@[simp] theorem bytes_writeEvcCell (cl m : Nat) (v : Word) (s : State) : bytes (writeEvcCell cl m v s) = bytes s := by
  unfold writeEvcCell; simp
@[simp] theorem bytes_pendSet (rk cl : Nat) (hi : Bool) (v : Word) (s : State) : bytes (pendSet rk cl hi v s) = bytes
    s := by
  unfold pendSet; simp
@[simp] theorem bytes_pendClr (rk cl : Nat) (hi : Bool) (v : Word) (s : State) : bytes (pendClr rk cl hi v s) = bytes
    s := by
  unfold pendClr; simp
@[simp] theorem bytes_maskPut (rk cl : Nat) (hi : Bool) (l : List Nat) (v : Word) (s : State) : bytes (maskPut rk cl
    hi l v s) = bytes s := by
  unfold maskPut; simp
@[simp] theorem bytes_maskSet (rk cl : Nat) (hi : Bool) (v : Word) (s : State) : bytes (maskSet rk cl hi v s) = bytes
    s := by
  unfold maskSet; simp
@[simp] theorem bytes_maskClr (rk cl : Nat) (hi : Bool) (v : Word) (s : State) : bytes (maskClr rk cl hi v s) = bytes
    s := by
  unfold maskClr; simp
@[simp] theorem bytes_incoming (cl m : Nat) (s : State) : bytes (incoming cl m s) = bytes s := by
  unfold incoming
  generalize (cellOf cl m s).running = o
  cases o with
  | none => rfl
  | some r =>
    dsimp only
    split
    · rfl
    · exact (bytes_onFetch ..).trans (bytes_countFetch ..)
@[simp] theorem bytes_timedOut (cl m c : Nat) (o : Option Nat) (s : State) : bytes (timedOut cl m c o s) = bytes s :=
    by
  unfold timedOut; dsimp only; repeat' (first | (simp; done) | (refine (bytes_foldl _ _ _ (fun s x => ?_)).trans ?_) | split | simp)
@[simp] theorem bytes_timeOut (cl m c : Nat) (s : State) : bytes (timeOut cl m c s) = bytes s := by
  unfold timeOut; simp
@[simp] theorem bytes_waitCycle (cl m c : Nat) (s : State) : bytes (waitCycle cl m c s) = bytes s := by
  unfold waitCycle; simp
@[simp] theorem bytes_waitsCore (s : State) : bytes (waitsCore s) = bytes s := by
  unfold waitsCore; simp
@[simp] theorem bytes_stallsCore (s : State) : bytes (stallsCore s) = bytes s := by
  unfold stallsCore; simp
@[simp] theorem bytes_suspend (cl m c e : Nat) (tmo : Bool) (s : State) : bytes (suspend cl m c e tmo s) = bytes s :=
    by
  unfold suspend; simp
@[simp] theorem bytes_waitServed (cl m c e : Nat) (tmo : Bool) (src : Option Nat) (s : State) : bytes (waitServed cl
    m c e tmo src s) = bytes s := by
  unfold waitServed; try lift_lets
  repeat' (first | (intro x; first | (have hx : bytes x = bytes s := (by simp only [x]; repeat' (first | rfl | assumption | (simp [*]; done) | (refine (bytes_foldl _ _ _ (fun s x => ?_)).trans ?_) | split)); clear_value x) | clear_value x) | (first | rfl | assumption | (simp [*]; done) | (refine (bytes_foldl _ _ _ (fun s x => ?_)).trans ?_) | split) | lift_lets)
@[simp] theorem bytes_waitOn (cl m c e : Nat) (tmo : Bool) (s : State) : bytes (waitOn cl m c e tmo s) = bytes s := by
  unfold waitOn; rw [bytes_waitServed, bytes_endService, bytes_onCtx]
@[simp] theorem bytes_trapAction (cl m h : Nat) (s : State) : bytes (trapAction cl m h s) = bytes s := by
  unfold trapAction
  dsimp only
  split
  · exact bytes_onCtx ..
  · exact bytes_startCtx ..
  · exact bytes_stopCtx ..

/-! ### Ports -/

@[simp] theorem bytes_putPair (cl k : Nat) (x : PairCh) (s : State) : bytes (putPair cl k x s) = bytes s := by
  unfold putPair; simp
@[simp] theorem bytes_pairToward (cl k : Nat) (v : Word) (p : Nat) (s : State) : bytes (pairToward cl k v p s) =
    bytes s := by
  unfold pairToward; simp
@[simp] theorem bytes_pairSendValue (cl k : Nat) (v : Word) (s : State) : bytes (pairSendValue cl k v s) = bytes s :=
    by
  unfold pairSendValue; simp
@[simp] theorem bytes_pairOutHigh (w : Writer) (cl k : Nat) (v : Half) (s : State) : bytes (pairOutHigh w cl k v s) =
    bytes s := by
  unfold pairOutHigh; simp
@[simp] theorem bytes_pairLand (cl k : Nat) (from1 : Bool) (v : Word) (s : State) : bytes (pairLand cl k from1 v s) =
    bytes s := by
  unfold pairLand; simp
@[simp] theorem bytes_pairInLow (w : Writer) (cl k : Nat) (in1 : Bool) (s : State) : bytes (pairInLow w cl k in1 s).2
    = bytes s := by
  unfold pairInLow; simp
@[simp] theorem bytes_pairClear (cl k : Nat) (in1 : Bool) (s : State) : bytes (pairClear cl k in1 s) = bytes s := by
  unfold pairClear; simp
@[simp] theorem bytes_pairInHigh (w : Writer) (cl k : Nat) (in1 : Bool) (s : State) : bytes (pairInHigh w cl k in1
    s).2 = bytes s := by
  unfold pairInHigh; simp
@[simp] theorem bytes_pairRep (v : Word) (s : State) : bytes (pairRep v s) = bytes s := by
  unfold pairRep; simp
@[simp] theorem bytes_pairRepWord (cl k : Nat) (v : Half) (s : State) : bytes (pairRepWord cl k v s) = bytes s := by
  unfold pairRepWord; simp
@[simp] theorem bytes_pairStatWrite (cl k : Nat) (v : Half) (s : State) : bytes (pairStatWrite cl k v s) = bytes s :=
    by
  unfold pairStatWrite; simp
@[simp] theorem bytes_postCell (w : Writer) (cl : Nat) (v : Word) (s : State) : bytes (postCell w cl v s) = bytes s
    := by
  unfold postCell; simp
@[simp] theorem bytes_postTrace (w : Writer) (cl : Nat) (v : Word) (s : State) : bytes (postTrace w cl v s) = bytes s
    := by
  unfold postTrace; try lift_lets
  repeat' (first | (intro x; first | (have hx : bytes x = bytes s := (by simp only [x]; repeat' (first | rfl | assumption | (simp [*]; done) | (refine (bytes_foldl _ _ _ (fun s x => ?_)).trans ?_) | split)); clear_value x) | clear_value x) | (first | rfl | assumption | (simp [*]; done) | (refine (bytes_foldl _ _ _ (fun s x => ?_)).trans ?_) | split) | lift_lets)
@[simp] theorem bytes_wdRestart (s : State) : bytes (wdRestart s) = bytes s := by
  unfold wdRestart; simp
@[simp] theorem bytes_retrainLink (s : State) : bytes (retrainLink s) = bytes s := by
  unfold retrainLink; simp
@[simp] theorem bytes_putDma (cl : Nat) (x : DmaEng) (s : State) : bytes (putDma cl x s) = bytes s := by
  unfold putDma; simp
@[simp] theorem bytes_dmaRelease (cl k : Nat) (s : State) : bytes (dmaRelease cl k s) = bytes s := by
  unfold dmaRelease; simp
@[simp] theorem bytes_dmaForget (cl k : Nat) (s : State) : bytes (dmaForget cl k s) = bytes s := by
  unfold dmaForget; simp
@[simp] theorem bytes_dmaEnd (cl k i : Nat) (s : State) : bytes (dmaEnd cl k i s) = bytes s := by
  unfold dmaEnd; simp
@[simp] theorem bytes_dmaErr (cl k code : Nat) (s : State) : bytes (dmaErr cl k code s) = bytes s := by
  unfold dmaErr; simp
@[simp] theorem bytes_dmaBegin (cl k : Nat) (s : State) : bytes (dmaBegin cl k s) = bytes s := by
  unfold dmaBegin; simp
@[simp] theorem bytes_dmaHalt (cl k : Nat) (s : State) : bytes (dmaHalt cl k s) = bytes s := by
  unfold dmaHalt; simp
@[simp] theorem bytes_dmaCtlWrite (cl k : Nat) (v : Word) (s : State) : bytes (dmaCtlWrite cl k v s) = bytes s := by
  unfold dmaCtlWrite; simp
@[simp] theorem bytes_dmaParamWrite (cl k a : Nat) (v : Word) (s : State) : bytes (dmaParamWrite cl k a v s) = bytes
    s := by
  unfold dmaParamWrite; simp

/-! ### RegRead -/

@[simp] theorem bytes_clearRc (a : Nat) (m : Word) (s : State) : bytes (clearRc a m s) = bytes s := by
  unfold clearRc; try lift_lets
  repeat' (first | (intro x; first | (have hx : bytes x = bytes s := (by simp only [x]; repeat' (first | rfl | assumption | (simp [*]; done) | (refine (bytes_foldl _ _ _ (fun s x => ?_)).trans ?_) | split)); clear_value x) | clear_value x) | (first | rfl | assumption | (simp [*]; done) | (refine (bytes_foldl _ _ _ (fun s x => ?_)).trans ?_) | split) | lift_lets)
@[simp] theorem bytes_readTable (a : Nat) (s : State) : bytes (readTable a s) = bytes s := by
  unfold readTable; simp
@[simp] theorem bytes_readAt (w : Writer) (k a : Nat) (s : State) : bytes (readAt w k a s).2 = bytes s := by
  unfold readAt; dsimp only; repeat' (first | (simp; done) | (refine (bytes_foldl _ _ _ (fun s x => ?_)).trans ?_) | split | simp)
@[simp] theorem bytes_readMany (w : Writer) (l : List Nat) (s : State) : bytes (readMany w l s).2 = bytes s := by
  induction l generalizing s with
  | nil => rfl
  | cons b r ih => unfold readMany; dsimp only; rw [ih, bytes_readAt]
@[simp] theorem bytes_latchMany (w : Writer) (a : Nat) (l : List Nat) (s : State) : bytes (latchMany w a l s) = bytes
    s := by
  unfold latchMany; simp
@[simp] theorem bytes_readOver (w : Writer) (a : Nat) (l : List Nat) (s : State) : bytes (readOver w a l s).2 = bytes
    s := by
  unfold readOver; try lift_lets
  repeat' (first | (intro x; first | (have hx : bytes x = bytes s := (by simp only [x]; repeat' (first | rfl | assumption | (simp [*]; done) | (refine (bytes_foldl _ _ _ (fun s x => ?_)).trans ?_) | split)); clear_value x) | clear_value x) | (first | rfl | assumption | (simp [*]; done) | (refine (bytes_foldl _ _ _ (fun s x => ?_)).trans ?_) | split) | lift_lets)
@[simp] theorem bytes_readReg (w : Writer) (a : Nat) (s : State) : bytes (readReg w a s).2 = bytes s := by
  unfold readReg; simp

/-! ### WaveCmds -/

@[simp] theorem bytes_waveWrite (a : Nat) (v : Word) (s : State) : bytes (waveWrite a v s) = bytes s := by
  unfold waveWrite; simp
@[simp] theorem bytes_sampleVoices (t : Nat) (s : State) : bytes (sampleVoices t s) = bytes s := by
  unfold sampleVoices; simp
@[simp] theorem bytes_stepGain (c : Nat) (s : State) : bytes (stepGain c s) = bytes s := by
  unfold stepGain; simp
@[simp] theorem bytes_sampleOut (c t : Nat) (s : State) : bytes (sampleOut c t s).1 = bytes s := by
  unfold sampleOut; simp
@[simp] theorem bytes_vote (c : Nat) (s : State) : bytes (vote c s) = bytes s := by
  unfold vote; simp
@[simp] theorem bytes_sendSample (ys : List Int) (t : Nat) (s : State) : bytes (sendSample ys t s) = bytes s := by
  unfold sendSample; simp
@[simp] theorem bytes_ilasStart (s : State) : bytes (ilasStart s) = bytes s := by
  unfold ilasStart; simp
@[simp] theorem bytes_linkSample (ys : List Int) (t : Nat) (s : State) : bytes (linkSample ys t s) = bytes s := by
  unfold linkSample; dsimp only; repeat' (first | (simp; done) | (refine (bytes_foldl _ _ _ (fun s x => ?_)).trans ?_) | split | simp)
@[simp] theorem bytes_writeGain (c : Nat) (v : Word) (s : State) : bytes (writeGain c v s) = bytes s := by
  unfold writeGain; simp
@[simp] theorem bytes_writeFactor (x : Nat) (v : Word) (s : State) : bytes (writeFactor x v s) = bytes s := by
  unfold writeFactor; simp
@[simp] theorem bytes_requestRealign (s : State) : bytes (requestRealign s) = bytes s := by
  unfold requestRealign; simp

/-! ### RegWrite -/

@[simp] theorem bytes_writeCmp (o a : Nat) (v : Word) (s : State) : bytes (writeCmp o a v s) = bytes s := by
  unfold writeCmp; simp
@[simp] theorem bytes_writeNzl (o a : Nat) (v : Word) (s : State) : bytes (writeNzl o a v s) = bytes s := by
  unfold writeNzl; simp
@[simp] theorem bytes_writeBud (v : Word) (s : State) : bytes (writeBud v s) = bytes s := by
  unfold writeBud; simp
@[simp] theorem bytes_writeHlk (o a : Nat) (v : Word) (s : State) : bytes (writeHlk o a v s) = bytes s := by
  unfold writeHlk; try lift_lets
  repeat' (first | (intro x; first | (have hx : bytes x = bytes s := (by simp only [x]; repeat' (first | rfl | assumption | (simp [*]; done) | (refine (bytes_foldl _ _ _ (fun s x => ?_)).trans ?_) | split)); clear_value x) | clear_value x) | (first | rfl | assumption | (simp [*]; done) | (refine (bytes_foldl _ _ _ (fun s x => ?_)).trans ?_) | split) | lift_lets)
@[simp] theorem bytes_writeWav (o a : Nat) (v : Word) (s : State) : bytes (writeWav o a v s) = bytes s := by
  unfold writeWav; try lift_lets
  repeat' (first | (intro x; first | (have hx : bytes x = bytes s := (by simp only [x]; repeat' (first | rfl | assumption | (simp [*]; done) | (refine (bytes_foldl _ _ _ (fun s x => ?_)).trans ?_) | split)); clear_value x) | clear_value x) | (first | rfl | assumption | (simp [*]; done) | (refine (bytes_foldl _ _ _ (fun s x => ?_)).trans ?_) | split) | lift_lets)
@[simp] theorem bytes_writeSynCtl (v : Word) (s : State) : bytes (writeSynCtl v s) = bytes s := by
  unfold writeSynCtl; simp
@[simp] theorem bytes_writeEvc (rk cl o a : Nat) (v : Word) (s : State) : bytes (writeEvc rk cl o a v s) = bytes s :=
    by
  unfold writeEvc; simp
@[simp] theorem bytes_writeTmr (cl o a : Nat) (v : Word) (s : State) : bytes (writeTmr cl o a v s) = bytes s := by
  unfold writeTmr; try lift_lets
  repeat' (first | (intro x; first | (have hx : bytes x = bytes s := (by simp only [x]; repeat' (first | rfl | assumption | (simp [*]; done) | (refine (bytes_foldl _ _ _ (fun s x => ?_)).trans ?_) | split)); clear_value x) | clear_value x) | (first | rfl | assumption | (simp [*]; done) | (refine (bytes_foldl _ _ _ (fun s x => ?_)).trans ?_) | split) | lift_lets)
@[simp] theorem bytes_writeRatio (w : Writer) (cl : Nat) (v : Word) (s : State) : bytes (writeRatio w cl v s) = bytes
    s := by
  unfold writeRatio; simp
@[simp] theorem bytes_writeCluster (w : Writer) (cl o a : Nat) (v : Word) (s : State) : bytes (writeCluster w cl o a
    v s) = bytes s := by
  unfold writeCluster; try lift_lets
  repeat' (first | (intro x; first | (have hx : bytes x = bytes s := (by simp only [x]; repeat' (first | rfl | assumption | (simp [*]; done) | (refine (bytes_foldl _ _ _ (fun s x => ?_)).trans ?_) | split)); clear_value x) | clear_value x) | (first | rfl | assumption | (simp [*]; done) | (refine (bytes_foldl _ _ _ (fun s x => ?_)).trans ?_) | split) | lift_lets)
@[simp] theorem bytes_commitCouple (h : Nat) (l : Option Nat) (v : Word) (s : State) : bytes (commitCouple h l v s) =
    bytes s := by
  unfold commitCouple; dsimp only; repeat' (first | (simp; done) | (refine (bytes_foldl _ _ _ (fun s x => ?_)).trans ?_) | split | simp)
@[simp] theorem bytes_writeBoth (a : Nat) (lo hi : Word) (s : State) : bytes (writeBoth a lo hi s).s = bytes s := by
  unfold writeBoth; try lift_lets
  repeat' (first | (intro x; first | (have hx : bytes x = bytes s := (by simp only [x]; repeat' (first | rfl | assumption | (simp [*]; done) | (refine (bytes_foldl _ _ _ (fun s x => ?_)).trans ?_) | split)); clear_value x) | clear_value x) | (first | rfl | assumption | (simp [*]; done) | (refine (bytes_foldl _ _ _ (fun s x => ?_)).trans ?_) | split) | lift_lets)

/-! ### IoPage -/

@[simp] theorem bytes_cxRead (cl m : Fin 16) (c : Fin 8) (w : Nat) (s : State) : bytes (cxRead cl m c w s).2 = bytes
    s := by
  unfold cxRead; try lift_lets
  repeat' (first | (intro x; first | (have hx : bytes x = bytes s := (by simp only [x]; repeat' (first | rfl | assumption | (simp [*]; done) | (refine (bytes_foldl _ _ _ (fun s x => ?_)).trans ?_) | split)); clear_value x) | clear_value x) | (first | rfl | assumption | (simp [*]; done) | (refine (bytes_foldl _ _ _ (fun s x => ?_)).trans ?_) | split) | lift_lets)
@[simp] theorem bytes_setWrite (cl m c w : Nat) (v : Half) (s : State) : bytes (setWrite cl m c w v s) = bytes s := by
  unfold setWrite; simp
@[simp] theorem bytes_winWrite (cl m c : Nat) (l : Option Nat) (v : Half) (s : State) : bytes (winWrite cl m c l v s)
    = bytes s := by
  unfold winWrite; simp
@[simp] theorem bytes_cxWrite (cl m : Fin 16) (c : Fin 8) (w : Nat) (v : Half) (s : State) : bytes (cxWrite cl m c w
    v s) = bytes s := by
  unfold cxWrite; dsimp only; repeat' (first | (simp; done) | (refine (bytes_foldl _ _ _ (fun s x => ?_)).trans ?_) | split | simp)
@[simp] theorem bytes_ioReadLow (w : Writer) (cl a : Nat) (s : State) : bytes (ioReadLow w cl a s).2 = bytes s := by
  unfold ioReadLow; dsimp only; repeat' (first | (simp; done) | (refine (bytes_foldl _ _ _ (fun s x => ?_)).trans ?_) | split | simp)
@[simp] theorem bytes_ioReadHigh (w : Writer) (cl a : Nat) (s : State) : bytes (ioReadHigh w cl a s).2 = bytes s := by
  unfold ioReadHigh; dsimp only; repeat' (first | (simp; done) | (refine (bytes_foldl _ _ _ (fun s x => ?_)).trans ?_) | split | simp)
@[simp] theorem bytes_ioRead (cl m : Fin 16) (c : Fin 8) (w : Nat) (s : State) : bytes (ioRead cl m c w s).2 = bytes
    s := by
  unfold ioRead; try lift_lets
  repeat' (first | (intro x; first | (have hx : bytes x = bytes s := (by simp only [x]; repeat' (first | rfl | assumption | (simp [*]; done) | (refine (bytes_foldl _ _ _ (fun s x => ?_)).trans ?_) | split)); clear_value x) | clear_value x) | (first | rfl | assumption | (simp [*]; done) | (refine (bytes_foldl _ _ _ (fun s x => ?_)).trans ?_) | split) | lift_lets)
@[simp] theorem bytes_ioRead2 (cl m : Fin 16) (c : Fin 8) (w : Nat) (s : State) : bytes (ioRead2 cl m c w s).2 =
    bytes s := by
  unfold ioRead2; try lift_lets
  repeat' (first | (intro x; first | (have hx : bytes x = bytes s := (by simp only [x]; repeat' (first | rfl | assumption | (simp [*]; done) | (refine (bytes_foldl _ _ _ (fun s x => ?_)).trans ?_) | split)); clear_value x) | clear_value x) | (first | rfl | assumption | (simp [*]; done) | (refine (bytes_foldl _ _ _ (fun s x => ?_)).trans ?_) | split) | lift_lets)

/-! ### Access -/

@[simp] theorem bytes_ueRead (w : Nat) (s : State) : bytes (ueRead w s) = bytes s := by
  unfold ueRead; try lift_lets
  repeat' (first | (intro x; first | (have hx : bytes x = bytes s := (by simp only [x]; repeat' (first | rfl | assumption | (simp [*]; done) | (refine (bytes_foldl _ _ _ (fun s x => ?_)).trans ?_) | split)); clear_value x) | clear_value x) | (first | rfl | assumption | (simp [*]; done) | (refine (bytes_foldl _ _ _ (fun s x => ?_)).trans ?_) | split) | lift_lets)
@[simp] theorem bytes_ceRead (w : Nat) (s : State) : bytes (ceRead w s) = bytes s := by
  unfold ceRead; (repeat' split) <;> simp
@[simp] theorem bytes_readWordsAt (a n : Nat) (s : State) : bytes (readWordsAt a n s).s = bytes s := by
  unfold readWordsAt; simp
@[simp] theorem bytes_readSpan (a n : Nat) (s : State) : bytes (readSpan a n s).s = bytes s := by
  unfold readSpan; try lift_lets
  repeat' (first | (intro x; first | (have hx : bytes x = bytes s := (by simp only [x]; repeat' (first | rfl | assumption | (simp [*]; done) | (refine (bytes_foldl _ _ _ (fun s x => ?_)).trans ?_) | split)); clear_value x) | clear_value x) | (first | rfl | assumption | (simp [*]; done) | (refine (bytes_foldl _ _ _ (fun s x => ?_)).trans ?_) | split) | lift_lets)

/-! ### Dma -/

@[simp] theorem bytes_unitBegin (cl k : Nat) (s : State) : bytes (unitBegin cl k s) = bytes s := by
  unfold unitBegin; simp

/-! ### Fabric -/

@[simp] theorem bytes_fabricFault (i node port lane code : Nat) (s : State) : bytes (fabricFault i node port lane
    code s) = bytes s := by
  unfold fabricFault; simp
@[simp] theorem bytes_crossbarFault (i node code : Nat) (s : State) : bytes (crossbarFault i node code s) = bytes s
    := by
  unfold crossbarFault; simp
@[simp] theorem bytes_noCrossbar (node : Nat) (s : State) : bytes (noCrossbar node s) = bytes s := by
  unfold noCrossbar; simp
/-! ### Jtag -/

@[simp] theorem bytes_jtagSelect (code : Nat) (dr : BitVec 336) (s : State) : bytes (jtagSelect code dr s) = bytes s
    := by
  unfold jtagSelect; simp

/-! ### LevainAlu -/

@[simp] theorem bytes_trapAfter (cl m c code : Nat) (s : State) : bytes (trapAfter cl m c code s) = bytes s := by
  unfold trapAfter; simp
@[simp] theorem bytes_divide (cl m c : Nat) (f : Half → Half → Half → Half → Half × Half × Half) (s : State) : bytes
    (divide cl m c f s) = bytes s := by
  unfold divide; simp
@[simp] theorem bytes_branch (g : Guess) (cl m c : Nat) (h : Shape) (taken : Bool) (t : Int) (f : Ctx → Ctx) (s :
    State) : bytes (branch g cl m c h taken t f s) = bytes s := by
  unfold branch; simp

/-! ### LevainMem -/

@[simp] theorem bytes_waitAtBank (cl m b : Nat) (s : State) : bytes (waitAtBank cl m b s) = bytes s := by
  unfold waitAtBank; simp
@[simp] theorem bytes_elemTrap (cl m : Nat) (c code adr pc slot : Nat) (s : State) : bytes (elemTrap cl m c code adr
    pc slot s) = bytes s := by
  unfold elemTrap; simp
@[simp] theorem bytes_drainError (cl m c adr : Nat) (s : State) : bytes (drainError cl m c adr s) = bytes s := by
  unfold drainError; try lift_lets
  repeat' (first | (intro x; first | (have hx : bytes x = bytes s := (by simp only [x]; repeat' (first | rfl | assumption | (simp [*]; done) | (refine (bytes_foldl _ _ _ (fun s x => ?_)).trans ?_) | split)); clear_value x) | clear_value x) | (first | rfl | assumption | (simp [*]; done) | (refine (bytes_foldl _ _ _ (fun s x => ?_)).trans ?_) | split) | lift_lets)

/-! ### DieLink -/

@[simp] theorem bytes_dlkAlarm (i : Nat) (s : State) : bytes (dlkAlarm i s) = bytes s := by
  unfold dlkAlarm; simp
@[simp] theorem bytes_owe (c n : Nat) (s : State) : bytes (owe c n s) = bytes s := by
  unfold owe; simp
@[simp] theorem bytes_rejectIn (content : Bool) (s : State) : bytes (rejectIn content s) = bytes s := by
  unfold rejectIn; simp
@[simp] theorem bytes_pushRsp (p : Packet) (s : State) : bytes (pushRsp p s) = bytes s := by
  unfold pushRsp; simp
@[simp] theorem bytes_requestWords (w : Writer) (n a : Nat) (s : State) : bytes (requestWords w n a s).s = bytes s :=
    by
  induction n generalizing a s with
  | zero => rfl
  | succ n ih =>
    unfold requestWords; simp [ih]
@[simp] theorem bytes_discardContent (p : Packet) (s : State) : bytes (discardContent p s) = bytes s := by
  unfold discardContent; simp
@[simp] theorem bytes_takeAck (v nak : Bool) (seq : Nat) (s : State) : bytes (takeAck v nak seq s) = bytes s := by
  unfold takeAck; simp
@[simp] theorem bytes_takeCredits (l : List Byte) (s : State) : bytes (takeCredits l s) = bytes s := by
  unfold takeCredits; simp
@[simp] theorem bytes_discardFlit (s : State) : bytes (discardFlit s) = bytes s := by
  unfold discardFlit; simp
@[simp] theorem bytes_discardAhead (s : State) : bytes (discardAhead s) = bytes s := by
  unfold discardAhead; simp
@[simp] theorem bytes_dropEgress (c : Nat) (s : State) : bytes (dropEgress c s) = bytes s := by
  unfold dropEgress; simp
@[simp] theorem bytes_sendFlit (typ seq first : Nat) (payload : List Byte) (s : State) : bytes (sendFlit typ seq
    first payload s) = bytes s := by
  unfold sendFlit; simp
@[simp] theorem bytes_sendIdle (s : State) : bytes (sendIdle s) = bytes s := by
  unfold sendIdle; simp
@[simp] theorem bytes_resendFlit (i : Nat) (s : State) : bytes (resendFlit i s) = bytes s := by
  unfold resendFlit; try lift_lets
  repeat' (first | (intro x; first | (have hx : bytes x = bytes s := (by simp only [x]; repeat' (first | rfl | assumption | (simp [*]; done) | (refine (bytes_foldl _ _ _ (fun s x => ?_)).trans ?_) | split)); clear_value x) | clear_value x) | (first | rfl | assumption | (simp [*]; done) | (refine (bytes_foldl _ _ _ (fun s x => ?_)).trans ?_) | split) | lift_lets)
@[simp] theorem bytes_summary (t : Nat) (s : State) : bytes (summary t s) = bytes s := by
  unfold summary; simp
@[simp] theorem bytes_noAsp (s : State) : bytes (noAsp s) = bytes s := by
  unfold noAsp; simp

/-! ### Loader -/

@[simp] theorem bytes_setPhase (n : Nat) (s : State) : bytes (setPhase n s) = bytes s := by
  unfold setPhase; simp
@[simp] theorem bytes_noteCode (code : Nat) (s : State) : bytes (noteCode code s) = bytes s := by
  unfold noteCode; simp
@[simp] theorem bytes_releasePort (s : State) : bytes (releasePort s) = bytes s := by
  unfold releasePort; simp
@[simp] theorem bytes_readFrom (o : Nat) (s : State) : bytes (readFrom o s) = bytes s := by
  unfold readFrom; simp
@[simp] theorem bytes_startTable (s : State) : bytes (startTable s) = bytes s := by
  unfold startTable; simp
@[simp] theorem bytes_startRead (s : State) : bytes (startRead s) = bytes s := by
  unfold startRead; simp
@[simp] theorem bytes_failLoad (code : Nat) (s : State) : bytes (failLoad code s) = bytes s := by
  unfold failLoad; simp
@[simp] theorem bytes_enterLoad (s : State) : bytes (enterLoad s) = bytes s := by
  unfold enterLoad; try lift_lets
  repeat' (first | (intro x; first | (have hx : bytes x = bytes s := (by simp only [x]; repeat' (first | rfl | assumption | (simp [*]; done) | (refine (bytes_foldl _ _ _ (fun s x => ?_)).trans ?_) | split)); clear_value x) | clear_value x) | (first | rfl | assumption | (simp [*]; done) | (refine (bytes_foldl _ _ _ (fun s x => ?_)).trans ?_) | split) | lift_lets)
@[simp] theorem bytes_endDetect (f : FlashInfo) (s : State) : bytes (endDetect f s) = bytes s := by
  unfold endDetect; simp
@[simp] theorem bytes_detected (s : State) : bytes (detected s) = bytes s := by
  unfold detected; (repeat' split) <;> simp
@[simp] theorem bytes_detectTick (s : State) : bytes (detectTick s) = bytes s := by
  unfold detectTick; simp
@[simp] theorem bytes_deadSpare (l : List (Fin 74)) (s : State) : bytes (deadSpare l s) = bytes s := by
  unfold deadSpare; simp
@[simp] theorem bytes_loadPatch (l : List Byte) (s : State) : bytes (loadPatch l s) = bytes s := by
  unfold loadPatch; simp
@[simp] theorem bytes_showDigest (reg : Nat → Nat) (d : BitVec 256) (s : State) : bytes (showDigest reg d s) = bytes
    s := by
  unfold showDigest; simp
@[simp] theorem bytes_sealLoad (s : State) : bytes (sealLoad s) = bytes s := by
  unfold sealLoad; simp
@[simp] theorem bytes_startProof (s : State) : bytes (startProof s) = bytes s := by
  unfold startProof; simp

/-! ### Scrub -/

@[simp] theorem bytes_putTester (k : Nat) (x : Tester) (s : State) : bytes (putTester k x s) = bytes s := by
  unfold putTester; simp
@[simp] theorem bytes_localFail (cl m region : Nat) (s : State) : bytes (localFail cl m region s) = bytes s := by
  unfold localFail; simp
@[simp] theorem bytes_pantryFail (cl region : Nat) (s : State) : bytes (pantryFail cl region s) = bytes s := by
  unfold pantryFail; simp

/-! ### Tick -/

@[simp] theorem bytes_beginCycle (s : State) : bytes (beginCycle s) = bytes s := by
  unfold beginCycle; simp

/-! ### Step -/

@[simp] theorem bytes_State_withFetchWord (s : State) (nbits w : Nat) : bytes (State.withFetchWord s nbits w) = bytes
    s := by
  unfold State.withFetchWord; try lift_lets
  repeat' (first | (intro x; first | (have hx : bytes x = bytes s := (by simp only [x]; repeat' (first | rfl | assumption | (simp [*]; done) | (refine (bytes_foldl _ _ _ (fun s x => ?_)).trans ?_) | split)); clear_value x) | clear_value x) | (first | rfl | assumption | (simp [*]; done) | (refine (bytes_foldl _ _ _ (fun s x => ?_)).trans ?_) | split) | lift_lets)

end Sys2Proof.Machine
end

