-- ==== Sys2Proof/Laws/Kept.lean ====
section
/-! SUPPORT. What no operation but the loader's, the test port's and the clock's touches: the queue, time, the patch RAM,
the seal, the loader's and the test port's state; and, for every operation that changes no mode, the mode. One lemma for
each operation that gives a state. -/

namespace Sys2Proof.Machine

set_option linter.unusedTactic false
set_option linter.unreachableTactic false
set_option linter.unusedSimpArgs false
set_option linter.unusedVariables false
set_option linter.tactic.unusedName false

/-- What the loader, the test port, reset and the clock alone change. -/
def still (s : State) := (s.pending, s.time, s.patch, s.sealed, s.loader, s.jtag, s.img)
/-- `still` and the mode. -/
def kept (s : State) := (s.pending, s.time, s.patch, s.sealed, s.loader, s.jtag, s.img, s.mode, s.prev, s.cause)
@[simp] theorem still_mk (e : State) (fresh : Nat) (gated : Nat) (cyc : Cyc) (regs : Tab Word) (proof : Tab Word)
    (mem : List Host.Cell) (ue : List Nat) (ce : List Nat) (wire : List Out) (mode : Mode) (prev : Mode) (cause :
    Nat) (stages : Tab (Option (Nat × Nat))) (latches : Tab (List (Nat × Nat))) (rdata : Word) (rstat : Nat) (cells :
    Tab Cell) (pair : Tab PairCh) (tmr : Tab Tmr) (dma : Tab DmaEng) (tester : Tab Tester) (evLatch : Tab Nat)
    (evAhead : Tab Nat) (evBefore : Tab Nat) (pos : Pos) (cmp : Cmp) (lst : Lst) (links : Links) (wav : Wav) (fab :
    Fabric) (dlk : Dlk) (egress : Egress) (ingress : Ingress) (syn : Syn) (due : List (Int × Int)) (first : Option
    Int) (iLast : Option Int) (gateBlank : Bool) (blankDue : List Nat) (forcedAt : Option Nat) (proofAt : Nat)
    (sleepEntry : Bool) (waking : Bool) (tmrStopped : Bool) (sleepRatio : Tab Nat) (slowRatio : Tab Nat) (slowAt :
    Option Nat) (wdAt : Nat) :
  still (State.mk e.pending fresh e.time gated cyc regs proof mem ue ce e.patch wire mode prev cause e.sealed stages latches rdata rstat cells pair tmr dma tester evLatch evAhead evBefore pos cmp lst links wav fab dlk egress ingress e.loader syn e.jtag due first iLast gateBlank blankDue forcedAt proofAt sleepEntry waking tmrStopped sleepRatio slowRatio slowAt wdAt e.img) = still e := (rfl)
@[simp] theorem kept_mk (e : State) (fresh : Nat) (gated : Nat) (cyc : Cyc) (regs : Tab Word) (proof : Tab Word) (mem
    : List Host.Cell) (ue : List Nat) (ce : List Nat) (wire : List Out) (stages : Tab (Option (Nat × Nat))) (latches
    : Tab (List (Nat × Nat))) (rdata : Word) (rstat : Nat) (cells : Tab Cell) (pair : Tab PairCh) (tmr : Tab Tmr)
    (dma : Tab DmaEng) (tester : Tab Tester) (evLatch : Tab Nat) (evAhead : Tab Nat) (evBefore : Tab Nat) (pos : Pos)
    (cmp : Cmp) (lst : Lst) (links : Links) (wav : Wav) (fab : Fabric) (dlk : Dlk) (egress : Egress) (ingress :
    Ingress) (syn : Syn) (due : List (Int × Int)) (first : Option Int) (iLast : Option Int) (gateBlank : Bool)
    (blankDue : List Nat) (forcedAt : Option Nat) (proofAt : Nat) (sleepEntry : Bool) (waking : Bool) (tmrStopped :
    Bool) (sleepRatio : Tab Nat) (slowRatio : Tab Nat) (slowAt : Option Nat) (wdAt : Nat) :
  kept (State.mk e.pending fresh e.time gated cyc regs proof mem ue ce e.patch wire e.mode e.prev e.cause e.sealed stages latches rdata rstat cells pair tmr dma tester evLatch evAhead evBefore pos cmp lst links wav fab dlk egress ingress e.loader syn e.jtag due first iLast gateBlank blankDue forcedAt proofAt sleepEntry waking tmrStopped sleepRatio slowRatio slowAt wdAt e.img) = kept e := (rfl)
@[simp] theorem kept_foldl {α : Type} (f : State → α → State) (l : List α) (s : State) (h : ∀ s x, kept (f s x) =
    kept s) :
    kept (l.foldl f s) = kept s := by
  induction l generalizing s with
  | nil => rfl
  | cons x r ih => rw [List.foldl_cons, ih, h]
@[simp] theorem kept_ite (c : Prop) [Decidable c] (a b : State) : kept (if c then a else b) = if c then kept a else
    kept b := by
  split <;> rfl
@[simp] theorem still_foldl {α : Type} (f : State → α → State) (l : List α) (s : State) (h : ∀ s x, still (f s x) =
    still s) :
    still (l.foldl f s) = still s := by
  induction l generalizing s with
  | nil => rfl
  | cons x r ih => rw [List.foldl_cons, ih, h]
@[simp] theorem still_ite (c : Prop) [Decidable c] (a b : State) : still (if c then a else b) = if c then still a
    else still b := by
  split <;> rfl
theorem still_of_kept {s t : State} (h : kept t = kept s) : still t = still s := by
  simp only [kept, Prod.mk.injEq] at h; simp only [still, Prod.mk.injEq]; simp [h]

/-! ### Ops -/

@[simp] theorem kept_wr (a : Nat) (v : Word) (s : State) : kept (wr a v s) = kept s := by
  unfold wr; simp
@[simp] theorem still_wr (a : Nat) (v : Word) (s : State) : still (wr a v s) = still s := still_of_kept (kept_wr a v
    s)
@[simp] theorem kept_wf (a lo w x : Nat) (s : State) : kept (wf a lo w x s) = kept s := by
  unfold wf; simp
@[simp] theorem still_wf (a lo w x : Nat) (s : State) : still (wf a lo w x s) = still s := still_of_kept (kept_wf a
    lo w x s)
@[simp] theorem kept_noteSet (a i : Nat) (s : State) : kept (noteSet a i s) = kept s := by
  unfold noteSet; simp
@[simp] theorem still_noteSet (a i : Nat) (s : State) : still (noteSet a i s) = still s := still_of_kept
    (kept_noteSet a i s)
@[simp] theorem kept_wb (a i : Nat) (b : Bool) (s : State) : kept (wb a i b s) = kept s := by
  unfold wb; simp
@[simp] theorem still_wb (a i : Nat) (b : Bool) (s : State) : still (wb a i b s) = still s := still_of_kept (kept_wb
    a i b s)
@[simp] theorem kept_putEvents (a : Nat) (l : List RcEv) (s : State) : kept (putEvents a l s) = kept s := by
  unfold putEvents; simp
@[simp] theorem still_putEvents (a : Nat) (l : List RcEv) (s : State) : still (putEvents a l s) = still s :=
    still_of_kept (kept_putEvents a l s)
@[simp] theorem kept_noteEvent (a lo w : Nat) (join : Option Nat → Nat) (s : State) : kept (noteEvent a lo w join s)
    = kept s := by
  unfold noteEvent; dsimp only; repeat' (first | (simp; done) | (refine (kept_foldl _ _ _ (fun s x => ?_)).trans ?_) | split | simp)
@[simp] theorem still_noteEvent (a lo w : Nat) (join : Option Nat → Nat) (s : State) : still (noteEvent a lo w join
    s) = still s := still_of_kept (kept_noteEvent a lo w join s)
@[simp] theorem kept_clearFields (a : Nat) (m back : Word) (s : State) : kept (clearFields a m back s) = kept s := by
  unfold clearFields; simp
@[simp] theorem still_clearFields (a : Nat) (m back : Word) (s : State) : still (clearFields a m back s) = still s :=
    still_of_kept (kept_clearFields a m back s)
@[simp] theorem kept_addSat (a lo w n : Nat) (s : State) : kept (addSat a lo w n s) = kept s := by
  unfold addSat; simp
@[simp] theorem still_addSat (a lo w n : Nat) (s : State) : still (addSat a lo w n s) = still s := still_of_kept
    (kept_addSat a lo w n s)
@[simp] theorem kept_keepMin (a lo w x : Nat) (s : State) : kept (keepMin a lo w x s) = kept s := by
  unfold keepMin; simp
@[simp] theorem still_keepMin (a lo w x : Nat) (s : State) : still (keepMin a lo w x s) = still s := still_of_kept
    (kept_keepMin a lo w x s)
@[simp] theorem kept_keepMax (a lo w x : Nat) (s : State) : kept (keepMax a lo w x s) = kept s := by
  unfold keepMax; simp
@[simp] theorem still_keepMax (a lo w x : Nat) (s : State) : still (keepMax a lo w x s) = still s := still_of_kept
    (kept_keepMax a lo w x s)
@[simp] theorem kept_wrLine (aL aH : Nat) (i : Int) (s : State) : kept (wrLine aL aH i s) = kept s := by
  unfold wrLine; simp
@[simp] theorem still_wrLine (aL aH : Nat) (i : Int) (s : State) : still (wrLine aL aH i s) = still s :=
    still_of_kept (kept_wrLine aL aH i s)
@[simp] theorem kept_drawn (s : State) : kept (drawn s) = kept s := by
  unfold drawn; simp
@[simp] theorem still_drawn (s : State) : still (drawn s) = still s := still_of_kept (kept_drawn s)
@[simp] theorem kept_writeBytes (a : Nat) (l : List Byte) (s : State) : kept (writeBytes a l s) = kept s := by
  unfold writeBytes; simp
@[simp] theorem still_writeBytes (a : Nat) (l : List Byte) (s : State) : still (writeBytes a l s) = still s :=
    still_of_kept (kept_writeBytes a l s)
@[simp] theorem kept_writeN (a n v : Nat) (s : State) : kept (writeN a n v s) = kept s := by
  unfold writeN; simp
@[simp] theorem still_writeN (a n v : Nat) (s : State) : still (writeN a n v s) = still s := still_of_kept
    (kept_writeN a n v s)
@[simp] theorem kept_pushEvent (p : Packet) (s : State) : kept (pushEvent p s) = kept s := by
  unfold pushEvent; simp
@[simp] theorem still_pushEvent (p : Packet) (s : State) : still (pushEvent p s) = still s := still_of_kept
    (kept_pushEvent p s)
@[simp] theorem kept_postEvent (kind cl m c detail : Nat) (s : State) : kept (postEvent kind cl m c detail s) = kept
    s := by
  unfold postEvent; simp
@[simp] theorem still_postEvent (kind cl m c detail : Nat) (s : State) : still (postEvent kind cl m c detail s) =
    still s := still_of_kept (kept_postEvent kind cl m c detail s)
@[simp] theorem kept_pushTrace (p : Packet) (s : State) : kept (pushTrace p s) = kept s := by
  unfold pushTrace; simp
@[simp] theorem still_pushTrace (p : Packet) (s : State) : still (pushTrace p s) = still s := still_of_kept
    (kept_pushTrace p s)
@[simp] theorem kept_raiseAlarm (typ : Nat) (x : Alarm) (s : State) : kept (raiseAlarm typ x s) = kept s := by
  unfold raiseAlarm; simp
@[simp] theorem still_raiseAlarm (typ : Nat) (x : Alarm) (s : State) : still (raiseAlarm typ x s) = still s :=
    still_of_kept (kept_raiseAlarm typ x s)
@[simp] theorem kept_alarmBit (a i typ : Nat) (x : Alarm) (s : State) : kept (alarmBit a i typ x s) = kept s := by
  unfold alarmBit; simp
@[simp] theorem still_alarmBit (a i typ : Nat) (x : Alarm) (s : State) : still (alarmBit a i typ x s) = still s :=
    still_of_kept (kept_alarmBit a i typ x s)
@[simp] theorem kept_tileAlarm (code : Nat) (x : Alarm) (s : State) : kept (tileAlarm code x s) = kept s := by
  unfold tileAlarm; simp
@[simp] theorem still_tileAlarm (code : Nat) (x : Alarm) (s : State) : still (tileAlarm code x s) = still s :=
    still_of_kept (kept_tileAlarm code x s)
@[simp] theorem kept_addressError (a : Nat) (s : State) : kept (addressError a s) = kept s := by
  unfold addressError; simp
@[simp] theorem still_addressError (a : Nat) (s : State) : still (addressError a s) = still s := still_of_kept
    (kept_addressError a s)
@[simp] theorem kept_respond (v : Word) (st : Nat) (s : State) : kept (respond v st s) = kept s := by
  unfold respond; simp
@[simp] theorem still_respond (v : Word) (st : Nat) (s : State) : still (respond v st s) = still s := still_of_kept
    (kept_respond v st s)
@[simp] theorem kept_redLost (i : Nat) (s : State) : kept (redLost i s) = kept s := by
  unfold redLost; simp
@[simp] theorem still_redLost (i : Nat) (s : State) : still (redLost i s) = still s := still_of_kept (kept_redLost i
    s)
@[simp] theorem kept_emit (o : Out) (s : State) : kept (emit o s) = kept s := by
  unfold emit; simp
@[simp] theorem still_emit (o : Out) (s : State) : still (emit o s) = still s := still_of_kept (kept_emit o s)

/-! ### Events -/

@[simp] theorem kept_wb64 (aL aH i : Nat) (b : Bool) (s : State) : kept (wb64 aL aH i b s) = kept s := by
  unfold wb64; simp
@[simp] theorem still_wb64 (aL aH i : Nat) (b : Bool) (s : State) : still (wb64 aL aH i b s) = still s :=
    still_of_kept (kept_wb64 aL aH i b s)
@[simp] theorem kept_latchEdge (cl i : Nat) (s : State) : kept (latchEdge cl i s) = kept s := by
  unfold latchEdge; simp
@[simp] theorem still_latchEdge (cl i : Nat) (s : State) : still (latchEdge cl i s) = still s := still_of_kept
    (kept_latchEdge cl i s)
@[simp] theorem kept_putRank (cl j rk : Nat) (s : State) : kept (putRank cl j rk s) = kept s := by
  unfold putRank; simp
@[simp] theorem still_putRank (cl j rk : Nat) (s : State) : still (putRank cl j rk s) = still s := still_of_kept
    (kept_putRank cl j rk s)
@[simp] theorem kept_notePending (cl i : Nat) (s : State) : kept (notePending cl i s) = kept s := by
  unfold notePending; simp
@[simp] theorem still_notePending (cl i : Nat) (s : State) : still (notePending cl i s) = still s := still_of_kept
    (kept_notePending cl i s)
@[simp] theorem kept_setPend (cl i rk : Nat) (s : State) : kept (setPend cl i rk s) = kept s := by
  unfold setPend; simp
@[simp] theorem still_setPend (cl i rk : Nat) (s : State) : still (setPend cl i rk s) = still s := still_of_kept
    (kept_setPend cl i rk s)
@[simp] theorem kept_pendEdge (cl i rk : Nat) (s : State) : kept (pendEdge cl i rk s) = kept s := by
  unfold pendEdge; simp
@[simp] theorem still_pendEdge (cl i rk : Nat) (s : State) : still (pendEdge cl i rk s) = still s := still_of_kept
    (kept_pendEdge cl i rk s)
@[simp] theorem kept_assertSource (cl i : Nat) (s : State) : kept (assertSource cl i s) = kept s := by
  unfold assertSource; simp
@[simp] theorem still_assertSource (cl i : Nat) (s : State) : still (assertSource cl i s) = still s := still_of_kept
    (kept_assertSource cl i s)
@[simp] theorem kept_levelRises (cl i : Nat) (was : Bool) (s : State) : kept (levelRises cl i was s) = kept s := by
  unfold levelRises; simp
@[simp] theorem still_levelRises (cl i : Nat) (was : Bool) (s : State) : still (levelRises cl i was s) = still s :=
    still_of_kept (kept_levelRises cl i was s)
@[simp] theorem kept_assertAll (i : Nat) (s : State) : kept (assertAll i s) = kept s := by
  unfold assertAll; simp
@[simp] theorem still_assertAll (i : Nat) (s : State) : still (assertAll i s) = still s := still_of_kept
    (kept_assertAll i s)
@[simp] theorem kept_releaseLatches (s : State) : kept (releaseLatches s) = kept s := by
  unfold releaseLatches; simp
@[simp] theorem still_releaseLatches (s : State) : still (releaseLatches s) = still s := still_of_kept
    (kept_releaseLatches s)
@[simp] theorem kept_putCell (cl m : Nat) (x : Cell) (s : State) : kept (putCell cl m x s) = kept s := by
  unfold putCell; simp
@[simp] theorem still_putCell (cl m : Nat) (x : Cell) (s : State) : still (putCell cl m x s) = still s :=
    still_of_kept (kept_putCell cl m x s)
@[simp] theorem kept_onCell (cl m : Nat) (f : Cell → Cell) (s : State) : kept (onCell cl m f s) = kept s := by
  unfold onCell; simp
@[simp] theorem still_onCell (cl m : Nat) (f : Cell → Cell) (s : State) : still (onCell cl m f s) = still s :=
    still_of_kept (kept_onCell cl m f s)
@[simp] theorem kept_onCtx (cl m c : Nat) (f : Ctx → Ctx) (s : State) : kept (onCtx cl m c f s) = kept s := by
  unfold onCtx; simp
@[simp] theorem still_onCtx (cl m c : Nat) (f : Ctx → Ctx) (s : State) : still (onCtx cl m c f s) = still s :=
    still_of_kept (kept_onCtx cl m c f s)
@[simp] theorem kept_giveCell (cl m c : Nat) (s : State) : kept (giveCell cl m c s) = kept s := by
  unfold giveCell; simp
@[simp] theorem still_giveCell (cl m c : Nat) (s : State) : still (giveCell cl m c s) = still s := still_of_kept
    (kept_giveCell cl m c s)
@[simp] theorem kept_yieldCell (cl m : Nat) (s : State) : kept (yieldCell cl m s) = kept s := by
  unfold yieldCell; try lift_lets
  repeat' (first | (intro x; first | (have hx : kept x = kept s := (by simp only [x]; repeat' (first | rfl | assumption | (simp [*]; done) | (refine (kept_foldl _ _ _ (fun s x => ?_)).trans ?_) | split)); clear_value x) | clear_value x) | (first | rfl | assumption | (simp [*]; done) | (refine (kept_foldl _ _ _ (fun s x => ?_)).trans ?_) | split) | lift_lets)
@[simp] theorem still_yieldCell (cl m : Nat) (s : State) : still (yieldCell cl m s) = still s := still_of_kept
    (kept_yieldCell cl m s)
@[simp] theorem kept_runBest (cl m : Nat) (s : State) : kept (runBest cl m s) = kept s := by
  unfold runBest; try lift_lets
  repeat' (first | (intro x; first | (have hx : kept x = kept s := (by simp only [x]; repeat' (first | rfl | assumption | (simp [*]; done) | (refine (kept_foldl _ _ _ (fun s x => ?_)).trans ?_) | split)); clear_value x) | clear_value x) | (first | rfl | assumption | (simp [*]; done) | (refine (kept_foldl _ _ _ (fun s x => ?_)).trans ?_) | split) | lift_lets)
@[simp] theorem still_runBest (cl m : Nat) (s : State) : still (runBest cl m s) = still s := still_of_kept
    (kept_runBest cl m s)
@[simp] theorem kept_reschedule (cl m : Nat) (s : State) : kept (reschedule cl m s) = kept s := by
  unfold reschedule; try lift_lets
  repeat' (first | (intro x; first | (have hx : kept x = kept s := (by simp only [x]; repeat' (first | rfl | assumption | (simp [*]; done) | (refine (kept_foldl _ _ _ (fun s x => ?_)).trans ?_) | split)); clear_value x) | clear_value x) | (first | rfl | assumption | (simp [*]; done) | (refine (kept_foldl _ _ _ (fun s x => ?_)).trans ?_) | split) | lift_lets)
@[simp] theorem still_reschedule (cl m : Nat) (s : State) : still (reschedule cl m s) = still s := still_of_kept
    (kept_reschedule cl m s)
@[simp] theorem kept_endService (cl m c : Nat) (s : State) : kept (endService cl m c s) = kept s := by
  unfold endService; try lift_lets
  repeat' (first | (intro x; first | (have hx : kept x = kept s := (by simp only [x]; repeat' (first | rfl | assumption | (simp [*]; done) | (refine (kept_foldl _ _ _ (fun s x => ?_)).trans ?_) | split)); clear_value x) | clear_value x) | (first | rfl | assumption | (simp [*]; done) | (refine (kept_foldl _ _ _ (fun s x => ?_)).trans ?_) | split) | lift_lets)
@[simp] theorem still_endService (cl m c : Nat) (s : State) : still (endService cl m c s) = still s := still_of_kept
    (kept_endService cl m c s)
@[simp] theorem kept_offerAgain (cl : Nat) (k : Ctx) (s : State) : kept (offerAgain cl k s) = kept s := by
  unfold offerAgain; (repeat' split) <;> simp
@[simp] theorem still_offerAgain (cl : Nat) (k : Ctx) (s : State) : still (offerAgain cl k s) = still s :=
    still_of_kept (kept_offerAgain cl k s)
@[simp] theorem kept_stopCtx (cl m c : Nat) (s : State) : kept (stopCtx cl m c s) = kept s := by
  unfold stopCtx; simp
@[simp] theorem still_stopCtx (cl m c : Nat) (s : State) : still (stopCtx cl m c s) = still s := still_of_kept
    (kept_stopCtx cl m c s)
@[simp] theorem kept_startCtx (cl m c : Nat) (s : State) : kept (startCtx cl m c s) = kept s := by
  unfold startCtx; simp
@[simp] theorem still_startCtx (cl m c : Nat) (s : State) : still (startCtx cl m c s) = still s := still_of_kept
    (kept_startCtx cl m c s)
@[simp] theorem kept_startSet (cl m : Nat) (s : State) : kept (startSet cl m s) = kept s := by
  unfold startSet; simp
@[simp] theorem still_startSet (cl m : Nat) (s : State) : still (startSet cl m s) = still s := still_of_kept
    (kept_startSet cl m s)
@[simp] theorem kept_faultIn7 (cl m code : Nat) (s : State) : kept (faultIn7 cl m code s) = kept s := by
  unfold faultIn7; simp
@[simp] theorem still_faultIn7 (cl m code : Nat) (s : State) : still (faultIn7 cl m code s) = still s :=
    still_of_kept (kept_faultIn7 cl m code s)
@[simp] theorem kept_takeTrap (cl m : Nat) (t : TrapRec) (s : State) : kept (takeTrap cl m t s) = kept s := by
  unfold takeTrap; simp
@[simp] theorem still_takeTrap (cl m : Nat) (t : TrapRec) (s : State) : still (takeTrap cl m t s) = still s :=
    still_of_kept (kept_takeTrap cl m t s)
@[simp] theorem kept_raiseTrap (cl m c code pc slot adr : Nat) (s : State) : kept (raiseTrap cl m c code pc slot adr
    s) = kept s := by
  unfold raiseTrap; dsimp only; repeat' (first | (simp; done) | (refine (kept_foldl _ _ _ (fun s x => ?_)).trans ?_) | split | simp)
@[simp] theorem still_raiseTrap (cl m c code pc slot adr : Nat) (s : State) : still (raiseTrap cl m c code pc slot
    adr s) = still s := still_of_kept (kept_raiseTrap cl m c code pc slot adr s)
@[simp] theorem kept_forgetPending (cl i : Nat) (s : State) : kept (forgetPending cl i s) = kept s := by
  unfold forgetPending; simp
@[simp] theorem still_forgetPending (cl i : Nat) (s : State) : still (forgetPending cl i s) = still s :=
    still_of_kept (kept_forgetPending cl i s)
@[simp] theorem kept_claimSource (cl i : Nat) (s : State) : kept (claimSource cl i s) = kept s := by
  unfold claimSource; simp
@[simp] theorem still_claimSource (cl i : Nat) (s : State) : still (claimSource cl i s) = still s := still_of_kept
    (kept_claimSource cl i s)
@[simp] theorem kept_deliver (cl i e : Nat) (s : State) : kept (deliver cl i e s) = kept s := by
  unfold deliver; simp
@[simp] theorem still_deliver (cl i e : Nat) (s : State) : still (deliver cl i e s) = still s := still_of_kept
    (kept_deliver cl i e s)
@[simp] theorem kept_countWithheld (cl i : Nat) (s : State) : kept (countWithheld cl i s) = kept s := by
  unfold countWithheld; simp
@[simp] theorem still_countWithheld (cl i : Nat) (s : State) : still (countWithheld cl i s) = still s :=
    still_of_kept (kept_countWithheld cl i s)
@[simp] theorem kept_tryDeliver (cl : Nat) (l : List Nat) (s : State) : kept (tryDeliver cl l s) = kept s := by
  unfold tryDeliver
  extract_lets skipped t
  have h : kept t = kept s := kept_foldl _ _ _ (fun _ _ => kept_countWithheld ..)
  clear_value t
  generalize l.drop skipped.length = d
  cases d with
  | nil => exact h
  | cons i r =>
    dsimp only
    generalize targetOf cl i s = e
    cases e with
    | none => exact h
    | some e => exact (kept_deliver ..).trans ((kept_countWithheld ..).trans h)
@[simp] theorem still_tryDeliver (cl : Nat) (l : List Nat) (s : State) : still (tryDeliver cl l s) = still s :=
    still_of_kept (kept_tryDeliver cl l s)

/-! ### Composer -/

@[simp] theorem kept_putSlice (cl : Nat) (x : Slice) (s : State) : kept (putSlice cl x s) = kept s := by
  unfold putSlice; simp
@[simp] theorem still_putSlice (cl : Nat) (x : Slice) (s : State) : still (putSlice cl x s) = still s :=
    still_of_kept (kept_putSlice cl x s)
@[simp] theorem kept_onSlice (cl : Nat) (f : Slice → Slice) (s : State) : kept (onSlice cl f s) = kept s := by
  unfold onSlice; simp
@[simp] theorem still_onSlice (cl : Nat) (f : Slice → Slice) (s : State) : still (onSlice cl f s) = still s :=
    still_of_kept (kept_onSlice cl f s)
@[simp] theorem kept_tileUe (s : State) : kept (tileUe s) = kept s := by
  unfold tileUe; simp
@[simp] theorem still_tileUe (s : State) : still (tileUe s) = still s := still_of_kept (kept_tileUe s)
@[simp] theorem kept_tileCe (s : State) : kept (tileCe s) = kept s := by
  unfold tileCe; simp
@[simp] theorem still_tileCe (s : State) : still (tileCe s) = still s := still_of_kept (kept_tileCe s)
@[simp] theorem kept_tileReads (ues ces : Nat) (s : State) : kept (tileReads ues ces s) = kept s := by
  unfold tileReads; simp
@[simp] theorem still_tileReads (ues ces : Nat) (s : State) : still (tileReads ues ces s) = still s := still_of_kept
    (kept_tileReads ues ces s)
@[simp] theorem kept_putSeg (cl n : Nat) (m : Option MapSeg) (s : State) : kept (putSeg cl n m s) = kept s := by
  unfold putSeg; simp
@[simp] theorem still_putSeg (cl n : Nat) (m : Option MapSeg) (s : State) : still (putSeg cl n m s) = still s :=
    still_of_kept (kept_putSeg cl n m s)
@[simp] theorem kept_refreshSeg (cl n : Nat) (i : Int) (s : State) : kept (refreshSeg cl n i s) = kept s := by
  unfold refreshSeg; simp
@[simp] theorem still_refreshSeg (cl n : Nat) (i : Int) (s : State) : still (refreshSeg cl n i s) = still s :=
    still_of_kept (kept_refreshSeg cl n i s)
@[simp] theorem kept_takeStream (cl : Nat) (i : Int) (s : State) : kept (takeStream cl i s) = kept s := by
  unfold takeStream; dsimp only; repeat' (first | (simp; done) | (refine (kept_foldl _ _ _ (fun s x => ?_)).trans ?_) | split | simp)
@[simp] theorem still_takeStream (cl : Nat) (i : Int) (s : State) : still (takeStream cl i s) = still s :=
    still_of_kept (kept_takeStream cl i s)
@[simp] theorem kept_pantryUe (cl w : Nat) (s : State) : kept (pantryUe cl w s) = kept s := by
  unfold pantryUe; simp
@[simp] theorem still_pantryUe (cl w : Nat) (s : State) : still (pantryUe cl w s) = still s := still_of_kept
    (kept_pantryUe cl w s)
@[simp] theorem kept_pantryCe (cl : Nat) (s : State) : kept (pantryCe cl s) = kept s := by
  unfold pantryCe; simp
@[simp] theorem still_pantryCe (cl : Nat) (s : State) : still (pantryCe cl s) = still s := still_of_kept
    (kept_pantryCe cl s)
@[simp] theorem kept_composeNow (cl : Nat) (i : Int) (s : State) : kept (composeNow cl i s) = kept s := by
  unfold composeNow; dsimp only; repeat' (first | (simp; done) | (refine (kept_foldl _ _ _ (fun s x => ?_)).trans ?_) | split | simp)
@[simp] theorem still_composeNow (cl : Nat) (i : Int) (s : State) : still (composeNow cl i s) = still s :=
    still_of_kept (kept_composeNow cl i s)
@[simp] theorem kept_putProof (a : Nat) (v : Word) (s : State) : kept (putProof a v s) = kept s := by
  unfold putProof; simp
@[simp] theorem still_putProof (a : Nat) (v : Word) (s : State) : still (putProof a v s) = still s := still_of_kept
    (kept_putProof a v s)
@[simp] theorem kept_activateProof (cl : Nat) (s : State) : kept (activateProof cl s) = kept s := by
  unfold activateProof; simp
@[simp] theorem still_activateProof (cl : Nat) (s : State) : still (activateProof cl s) = still s := still_of_kept
    (kept_activateProof cl s)
@[simp] theorem kept_reportCommit (nozzle : Bool) (issuer result : Nat) (s : State) : kept (reportCommit nozzle
    issuer result s) = kept s := by
  unfold reportCommit; simp
@[simp] theorem still_reportCommit (nozzle : Bool) (issuer result : Nat) (s : State) : still (reportCommit nozzle
    issuer result s) = still s := still_of_kept (kept_reportCommit nozzle issuer result s)
@[simp] theorem kept_takeCommits (p : PendCommit → Bool) (mask : Nat) (s : State) : kept (takeCommits p mask s) =
    kept s := by
  unfold takeCommits; simp
@[simp] theorem still_takeCommits (p : PendCommit → Bool) (mask : Nat) (s : State) : still (takeCommits p mask s) =
    still s := still_of_kept (kept_takeCommits p mask s)
@[simp] theorem kept_takeProof (cl : Nat) (i : Int) (s : State) : kept (takeProof cl i s) = kept s := by
  unfold takeProof; try lift_lets
  repeat' (first | (intro x; first | (have hx : kept x = kept s := (by simp only [x]; repeat' (first | rfl | assumption | (simp [*]; done) | (refine (kept_foldl _ _ _ (fun s x => ?_)).trans ?_) | split)); clear_value x) | clear_value x) | (first | rfl | assumption | (simp [*]; done) | (refine (kept_foldl _ _ _ (fun s x => ?_)).trans ?_) | split) | lift_lets)
@[simp] theorem still_takeProof (cl : Nat) (i : Int) (s : State) : still (takeProof cl i s) = still s :=
    still_of_kept (kept_takeProof cl i s)
@[simp] theorem kept_startLine (cl : Nat) (i : Int) (s : State) : kept (startLine cl i s) = kept s := by
  unfold startLine; simp
@[simp] theorem still_startLine (cl : Nat) (i : Int) (s : State) : still (startLine cl i s) = still s :=
    still_of_kept (kept_startLine cl i s)
@[simp] theorem kept_beginNext (cl : Nat) (s : State) : kept (beginNext cl s) = kept s := by
  unfold beginNext; try lift_lets
  repeat' (first | (intro x; first | (have hx : kept x = kept s := (by simp only [x]; repeat' (first | rfl | assumption | (simp [*]; done) | (refine (kept_foldl _ _ _ (fun s x => ?_)).trans ?_) | split)); clear_value x) | clear_value x) | (first | rfl | assumption | (simp [*]; done) | (refine (kept_foldl _ _ _ (fun s x => ?_)).trans ?_) | split) | lift_lets)
@[simp] theorem still_beginNext (cl : Nat) (s : State) : still (beginNext cl s) = still s := still_of_kept
    (kept_beginNext cl s)
@[simp] theorem kept_beginAll (s : State) : kept (beginAll s) = kept s := by
  unfold beginAll; simp
@[simp] theorem still_beginAll (s : State) : still (beginAll s) = still s := still_of_kept (kept_beginAll s)

/-! ### PosBase -/

@[simp] theorem kept_putRg (g : Nat) (x : Rg) (s : State) : kept (putRg g x s) = kept s := by
  unfold putRg; simp
@[simp] theorem still_putRg (g : Nat) (x : Rg) (s : State) : still (putRg g x s) = still s := still_of_kept
    (kept_putRg g x s)
@[simp] theorem kept_putEv (e : Nat) (x : EvIn) (s : State) : kept (putEv e x s) = kept s := by
  unfold putEv; simp
@[simp] theorem still_putEv (e : Nat) (x : EvIn) (s : State) : still (putEv e x s) = still s := still_of_kept
    (kept_putEv e x s)
@[simp] theorem kept_putReg (k : Nat) (x : RegCh) (s : State) : kept (putReg k x s) = kept s := by
  unfold putReg; simp
@[simp] theorem still_putReg (k : Nat) (x : RegCh) (s : State) : still (putReg k x s) = still s := still_of_kept
    (kept_putReg k x s)
@[simp] theorem kept_putSsi (n : Nat) (x : Ssi) (s : State) : kept (putSsi n x s) = kept s := by
  unfold putSsi; simp
@[simp] theorem still_putSsi (n : Nat) (x : Ssi) (s : State) : still (putSsi n x s) = still s := still_of_kept
    (kept_putSsi n x s)
@[simp] theorem kept_wr48 (aL aH : Nat) (i : Int) (s : State) : kept (wr48 aL aH i s) = kept s := by
  unfold wr48; simp
@[simp] theorem still_wr48 (aL aH : Nat) (i : Int) (s : State) : still (wr48 aL aH i s) = still s := still_of_kept
    (kept_wr48 aL aH i s)
@[simp] theorem kept_putCmp (j : Nat) (v : Int) (s : State) : kept (putCmp j v s) = kept s := by
  unfold putCmp; simp
@[simp] theorem still_putCmp (j : Nat) (v : Int) (s : State) : still (putCmp j v s) = still s := still_of_kept
    (kept_putCmp j v s)
@[simp] theorem kept_putRegNext (k : Nat) (v : Int) (s : State) : kept (putRegNext k v s) = kept s := by
  unfold putRegNext; simp
@[simp] theorem still_putRegNext (k : Nat) (v : Int) (s : State) : still (putRegNext k v s) = still s :=
    still_of_kept (kept_putRegNext k v s)
@[simp] theorem kept_keepPlacement (g now : Nat) (old : Option (Fire × Nat)) (s : State) : kept (keepPlacement g now
    old s) = kept s := by
  unfold keepPlacement; simp
@[simp] theorem still_keepPlacement (g now : Nat) (old : Option (Fire × Nat)) (s : State) : still (keepPlacement g
    now old s) = still s := still_of_kept (kept_keepPlacement g now old s)
@[simp] theorem kept_trackReversal (s : State) : kept (trackReversal s) = kept s := by
  unfold trackReversal; simp
@[simp] theorem still_trackReversal (s : State) : still (trackReversal s) = still s := still_of_kept
    (kept_trackReversal s)

/-! ### Nozzle -/

@[simp] theorem kept_readWord (w : TabWord) (s : State) : kept (readWord w s) = kept s := by
  unfold readWord; simp
@[simp] theorem still_readWord (w : TabWord) (s : State) : still (readWord w s) = still s := still_of_kept
    (kept_readWord w s)
@[simp] theorem kept_readWords (p : TabWord → Bool) (s : State) : kept (readWords p s) = kept s := by
  unfold readWords; (repeat' split) <;> simp
@[simp] theorem still_readWords (p : TabWord → Bool) (s : State) : still (readWords p s) = still s := still_of_kept
    (kept_readWords p s)
@[simp] theorem kept_readNoz (staged : Bool) (g n : Nat) (s : State) : kept (readNoz staged g n s) = kept s := by
  unfold readNoz; simp
@[simp] theorem still_readNoz (staged : Bool) (g n : Nat) (s : State) : still (readNoz staged g n s) = still s :=
    still_of_kept (kept_readNoz staged g n s)
@[simp] theorem kept_takeMap (i : Int) (s : State) : kept (takeMap i s) = kept s := by
  unfold takeMap; try lift_lets
  repeat' (first | (intro x; first | (have hx : kept x = kept s := (by simp only [x]; repeat' (first | rfl | assumption | (simp [*]; done) | (refine (kept_foldl _ _ _ (fun s x => ?_)).trans ?_) | split)); clear_value x) | clear_value x) | (first | rfl | assumption | (simp [*]; done) | (refine (kept_foldl _ _ _ (fun s x => ?_)).trans ?_) | split) | lift_lets)
@[simp] theorem still_takeMap (i : Int) (s : State) : still (takeMap i s) = still s := still_of_kept (kept_takeMap i
    s)

/-! ### Codec -/

@[simp] theorem kept_logSegment (i : Int) (g j ver mode : Nat) (codes : List Nat) (s : State) : kept (logSegment i g
    j ver mode codes s) = kept s := by
  unfold logSegment; simp
@[simp] theorem still_logSegment (i : Int) (g j ver mode : Nat) (codes : List Nat) (s : State) : still (logSegment i
    g j ver mode codes s) = still s := still_of_kept (kept_logSegment i g j ver mode codes s)
@[simp] theorem kept_writeEntry (i : Int) (v : Nat) (s : State) : kept (writeEntry i v s) = kept s := by
  unfold writeEntry; simp
@[simp] theorem still_writeEntry (i : Int) (v : Nat) (s : State) : still (writeEntry i v s) = still s :=
    still_of_kept (kept_writeEntry i v s)
@[simp] theorem kept_clearValid (i : Int) (s : State) : kept (clearValid i s) = kept s := by
  unfold clearValid; simp
@[simp] theorem still_clearValid (i : Int) (s : State) : still (clearValid i s) = still s := still_of_kept
    (kept_clearValid i s)
@[simp] theorem kept_setOcc (o : Nat) (s : State) : kept (setOcc o s) = kept s := by
  unfold setOcc; simp
@[simp] theorem still_setOcc (o : Nat) (s : State) : still (setOcc o s) = still s := still_of_kept (kept_setOcc o s)
@[simp] theorem kept_setPointers (wp : Nat) (s : State) : kept (setPointers wp s) = kept s := by
  unfold setPointers; simp
@[simp] theorem still_setPointers (wp : Nat) (s : State) : still (setPointers wp s) = still s := still_of_kept
    (kept_setPointers wp s)
@[simp] theorem kept_releaseUpTo (i : Int) (s : State) : kept (releaseUpTo i s) = kept s := by
  unfold releaseUpTo; simp
@[simp] theorem still_releaseUpTo (i : Int) (s : State) : still (releaseUpTo i s) = still s := still_of_kept
    (kept_releaseUpTo i s)
@[simp] theorem kept_rewind (i : Int) (s : State) : kept (rewind i s) = kept s := by
  unfold rewind; simp
@[simp] theorem still_rewind (i : Int) (s : State) : still (rewind i s) = still s := still_of_kept (kept_rewind i s)
@[simp] theorem kept_raiseLate (cls : List Nat) (i : Int) (s : State) : kept (raiseLate cls i s) = kept s := by
  unfold raiseLate; simp
@[simp] theorem still_raiseLate (cls : List Nat) (i : Int) (s : State) : still (raiseLate cls i s) = still s :=
    still_of_kept (kept_raiseLate cls i s)
@[simp] theorem kept_encodeLine (i : Int) (input : List (Nat × List Nat)) (s : State) : kept (encodeLine i input s) =
    kept s := by
  unfold encodeLine; simp
@[simp] theorem still_encodeLine (i : Int) (input : List (Nat × List Nat)) (s : State) : still (encodeLine i input s)
    = still s := still_of_kept (kept_encodeLine i input s)
@[simp] theorem kept_startConditioning (n : Nat) (s : State) : kept (startConditioning n s) = kept s := by
  induction n generalizing s with
  | zero => rfl
  | succ n ih =>
    unfold startConditioning
    repeat' (first | (simp [ih]; done) | split | simp [ih])
@[simp] theorem still_startConditioning (n : Nat) (s : State) : still (startConditioning n s) = still s :=
    still_of_kept (kept_startConditioning n s)
@[simp] theorem kept_conditionNext (s : State) : kept (conditionNext s) = kept s := by
  unfold conditionNext; simp
@[simp] theorem still_conditionNext (s : State) : still (conditionNext s) = still s := still_of_kept
    (kept_conditionNext s)
@[simp] theorem kept_writeRing (b : Nat) (l : List Byte) (s : State) : kept (writeRing b l s) = kept s := by
  unfold writeRing; simp
@[simp] theorem still_writeRing (b : Nat) (l : List Byte) (s : State) : still (writeRing b l s) = still s :=
    still_of_kept (kept_writeRing b l s)
@[simp] theorem kept_codecReport (c : Coded) (blocks : Nat) (s : State) : kept (codecReport c blocks s) = kept s := by
  unfold codecReport; simp
@[simp] theorem still_codecReport (c : Coded) (blocks : Nat) (s : State) : still (codecReport c blocks s) = still s
    := still_of_kept (kept_codecReport c blocks s)
@[simp] theorem kept_storeLine (c : Coded) (s : State) : kept (storeLine c s) = kept s := by
  unfold storeLine; dsimp only; repeat' (first | (simp; done) | (refine (kept_foldl _ _ _ (fun s x => ?_)).trans ?_) | split | simp)
@[simp] theorem still_storeLine (c : Coded) (s : State) : still (storeLine c s) = still s := still_of_kept
    (kept_storeLine c s)
@[simp] theorem kept_lineDone (c : Coded) (s : State) : kept (lineDone c s) = kept s := by
  unfold lineDone; simp
@[simp] theorem still_lineDone (c : Coded) (s : State) : still (lineDone c s) = still s := still_of_kept
    (kept_lineDone c s)

/-! ### Wave -/

@[simp] theorem kept_putVoice (v : Nat) (x : Voice) (s : State) : kept (putVoice v x s) = kept s := by
  unfold putVoice; simp
@[simp] theorem still_putVoice (v : Nat) (x : Voice) (s : State) : still (putVoice v x s) = still s := still_of_kept
    (kept_putVoice v x s)
@[simp] theorem kept_putOut (c : Nat) (x : WOut) (s : State) : kept (putOut c x s) = kept s := by
  unfold putOut; simp
@[simp] theorem still_putOut (c : Nat) (x : WOut) (s : State) : still (putOut c x s) = still s := still_of_kept
    (kept_putOut c x s)
@[simp] theorem kept_trigger (v t : Nat) (s : State) : kept (trigger v t s) = kept s := by
  unfold trigger; simp
@[simp] theorem still_trigger (v t : Nat) (s : State) : still (trigger v t s) = still s := still_of_kept
    (kept_trigger v t s)
@[simp] theorem kept_rowTrigger (g t : Nat) (fired : Bool) (s : State) : kept (rowTrigger g t fired s) = kept s := by
  unfold rowTrigger; simp
@[simp] theorem still_rowTrigger (g t : Nat) (fired : Bool) (s : State) : still (rowTrigger g t fired s) = still s :=
    still_of_kept (kept_rowTrigger g t fired s)
@[simp] theorem kept_timerTrigger (cl t c : Nat) (s : State) : kept (timerTrigger cl t c s) = kept s := by
  unfold timerTrigger; simp
@[simp] theorem still_timerTrigger (cl t c : Nat) (s : State) : still (timerTrigger cl t c s) = still s :=
    still_of_kept (kept_timerTrigger cl t c s)
@[simp] theorem kept_reading (x : Nat) (t : Int) (s : State) : kept (reading x t s) = kept s := by
  unfold reading; simp
@[simp] theorem still_reading (x : Nat) (t : Int) (s : State) : still (reading x t s) = still s := still_of_kept
    (kept_reading x t s)
@[simp] theorem kept_pwmEdge (e : Nat) (rising : Bool) (t : Nat) (s : State) : kept (pwmEdge e rising t s) = kept s
    := by
  unfold pwmEdge; dsimp only; repeat' (first | (simp; done) | (refine (kept_foldl _ _ _ (fun s x => ?_)).trans ?_) | split | simp)
@[simp] theorem still_pwmEdge (e : Nat) (rising : Bool) (t : Nat) (s : State) : still (pwmEdge e rising t s) = still
    s := still_of_kept (kept_pwmEdge e rising t s)
@[simp] theorem kept_jesdStart (s : State) : kept (jesdStart s) = kept s := by
  unfold jesdStart; simp
@[simp] theorem still_jesdStart (s : State) : still (jesdStart s) = still s := still_of_kept (kept_jesdStart s)
@[simp] theorem kept_jesdIdle (s : State) : kept (jesdIdle s) = kept s := by
  unfold jesdIdle; simp
@[simp] theorem still_jesdIdle (s : State) : still (jesdIdle s) = still s := still_of_kept (kept_jesdIdle s)
@[simp] theorem kept_waveSafe (s : State) : kept (waveSafe s) = kept s := by
  unfold waveSafe; simp
@[simp] theorem still_waveSafe (s : State) : still (waveSafe s) = still s := still_of_kept (kept_waveSafe s)

/-! ### Links -/

@[simp] theorem kept_putG3 (k : Nat) (x : G3) (s : State) : kept (putG3 k x s) = kept s := by
  unfold putG3; simp
@[simp] theorem still_putG3 (k : Nat) (x : G3) (s : State) : still (putG3 k x s) = still s := still_of_kept
    (kept_putG3 k x s)
@[simp] theorem kept_emitFrame (k : Nat) (f : Frame3) (s : State) : kept (emitFrame k f s) = kept s := by
  unfold emitFrame; simp
@[simp] theorem still_emitFrame (k : Nat) (f : Frame3) (s : State) : still (emitFrame k f s) = still s :=
    still_of_kept (kept_emitFrame k f s)
@[simp] theorem kept_sendFrame (k : Nat) (f : Frame3) (s : State) : kept (sendFrame k f s) = kept s := by
  unfold sendFrame; simp
@[simp] theorem still_sendFrame (k : Nat) (f : Frame3) (s : State) : still (sendFrame k f s) = still s :=
    still_of_kept (kept_sendFrame k f s)
@[simp] theorem kept_abandonFrame (k : Nat) (f : Frame3) (s : State) : kept (abandonFrame k f s) = kept s := by
  unfold abandonFrame; simp
@[simp] theorem still_abandonFrame (k : Nat) (f : Frame3) (s : State) : still (abandonFrame k f s) = still s :=
    still_of_kept (kept_abandonFrame k f s)
@[simp] theorem kept_retransmit (k : Nat) (f : Frame3) (s : State) : kept (retransmit k f s) = kept s := by
  unfold retransmit; simp
@[simp] theorem still_retransmit (k : Nat) (f : Frame3) (s : State) : still (retransmit k f s) = still s :=
    still_of_kept (kept_retransmit k f s)
@[simp] theorem kept_portTurn (k : Nat) (n : Nat) (s : State) : kept (portTurn k n s) = kept s := by
  induction n generalizing s with
  | zero => rfl
  | succ n ih =>
    unfold portTurn; repeat' (first | (simp [ih]; done) | split | simp [ih])
@[simp] theorem still_portTurn (k : Nat) (n : Nat) (s : State) : still (portTurn k n s) = still s := still_of_kept
    (kept_portTurn k n s)
@[simp] theorem kept_portServe (k : Nat) (s : State) : kept (portServe k s) = kept s := by
  unfold portServe; simp
@[simp] theorem still_portServe (k : Nat) (s : State) : still (portServe k s) = still s := still_of_kept
    (kept_portServe k s)
@[simp] theorem kept_sendAgain (k q : Nat) (s : State) : kept (sendAgain k q s) = kept s := by
  unfold sendAgain; simp
@[simp] theorem still_sendAgain (k q : Nat) (s : State) : still (sendAgain k q s) = still s := still_of_kept
    (kept_sendAgain k q s)
@[simp] theorem kept_servePorts (s : State) : kept (servePorts s) = kept s := by
  unfold servePorts; simp
@[simp] theorem still_servePorts (s : State) : still (servePorts s) = still s := still_of_kept (kept_servePorts s)
@[simp] theorem kept_sendFireOn (ps : List Nat) (g : Nat) (q : Int) (t : Nat) (hold : Bool) (s : State) : kept
    (sendFireOn ps g q t hold s) = kept s := by
  unfold sendFireOn; simp
@[simp] theorem still_sendFireOn (ps : List Nat) (g : Nat) (q : Int) (t : Nat) (hold : Bool) (s : State) : still
    (sendFireOn ps g q t hold s) = still s := still_of_kept (kept_sendFireOn ps g q t hold s)
@[simp] theorem kept_sendFire (g : Nat) (q : Int) (t : Nat) (hold : Bool) (s : State) : kept (sendFire g q t hold s)
    = kept s := by
  unfold sendFire; simp
@[simp] theorem still_sendFire (g : Nat) (q : Int) (t : Nat) (hold : Bool) (s : State) : still (sendFire g q t hold
    s) = still s := still_of_kept (kept_sendFire g q t hold s)
@[simp] theorem kept_holdFrame (g : Nat) (q : Int) (s : State) : kept (holdFrame g q s) = kept s := by
  unfold holdFrame; try lift_lets
  repeat' (first | (intro x; first | (have hx : kept x = kept s := (by simp only [x]; repeat' (first | rfl | assumption | (simp [*]; done) | (refine (kept_foldl _ _ _ (fun s x => ?_)).trans ?_) | split)); clear_value x) | clear_value x) | (first | rfl | assumption | (simp [*]; done) | (refine (kept_foldl _ _ _ (fun s x => ?_)).trans ?_) | split) | lift_lets)
@[simp] theorem still_holdFrame (g : Nat) (q : Int) (s : State) : still (holdFrame g q s) = still s := still_of_kept
    (kept_holdFrame g q s)
@[simp] theorem kept_withdrawFires (s : State) : kept (withdrawFires s) = kept s := by
  unfold withdrawFires; try lift_lets
  repeat' (first | (intro x; first | (have hx : kept x = kept s := (by simp only [x]; repeat' (first | rfl | assumption | (simp [*]; done) | (refine (kept_foldl _ _ _ (fun s x => ?_)).trans ?_) | split)); clear_value x) | clear_value x) | (first | rfl | assumption | (simp [*]; done) | (refine (kept_foldl _ _ _ (fun s x => ?_)).trans ?_) | split) | lift_lets)
@[simp] theorem still_withdrawFires (s : State) : still (withdrawFires s) = still s := still_of_kept
    (kept_withdrawFires s)
@[simp] theorem kept_fireUpdates (s : State) : kept (fireUpdates s) = kept s := by
  unfold fireUpdates
  refine (kept_foldl _ _ _ (fun s x => ?_)).trans (kept_withdrawFires s)
  repeat' (first | rfl | (simp; done) | split)
@[simp] theorem still_fireUpdates (s : State) : still (fireUpdates s) = still s := still_of_kept (kept_fireUpdates s)
@[simp] theorem kept_emitPin (o : Out) (s : State) : kept (emitPin o s) = kept s := by
  unfold emitPin; simp
@[simp] theorem still_emitPin (o : Out) (s : State) : still (emitPin o s) = still s := still_of_kept (kept_emitPin o
    s)
@[simp] theorem kept_strobeFall (o t : Nat) (s : State) : kept (strobeFall o t s) = kept s := by
  unfold strobeFall; simp
@[simp] theorem still_strobeFall (o t : Nat) (s : State) : still (strobeFall o t s) = still s := still_of_kept
    (kept_strobeFall o t s)
@[simp] theorem kept_cutPulse (o t : Nat) (q : Int) (g : Nat) (s : State) : kept (cutPulse o t q g s) = kept s := by
  unfold cutPulse; simp
@[simp] theorem still_cutPulse (o t : Nat) (q : Int) (g : Nat) (s : State) : still (cutPulse o t q g s) = still s :=
    still_of_kept (kept_cutPulse o t q g s)
@[simp] theorem kept_strobeRise (o t : Nat) (q : Int) (g : Nat) (s : State) : kept (strobeRise o t q g s) = kept s :=
    by
  unfold strobeRise; dsimp only; repeat' (first | (simp; done) | (refine (kept_foldl _ _ _ (fun s x => ?_)).trans ?_) | split | simp)
@[simp] theorem still_strobeRise (o t : Nat) (q : Int) (g : Nat) (s : State) : still (strobeRise o t q g s) = still s
    := still_of_kept (kept_strobeRise o t q g s)
@[simp] theorem kept_pulse (g t : Nat) (q : Int) (late : List (Nat × Nat)) (sup : List Nat) (s : State) : kept (pulse
    g t q late sup s) = kept s := by
  unfold pulse; simp
@[simp] theorem still_pulse (g t : Nat) (q : Int) (late : List (Nat × Nat)) (sup : List Nat) (s : State) : still
    (pulse g t q late sup s) = still s := still_of_kept (kept_pulse g t q late sup s)
@[simp] theorem kept_emitGen2 (k : Nat) (body : List Byte) (abort : Bool) (s : State) : kept (emitGen2 k body abort
    s) = kept s := by
  unfold emitGen2; simp
@[simp] theorem still_emitGen2 (k : Nat) (body : List Byte) (abort : Bool) (s : State) : still (emitGen2 k body abort
    s) = still s := still_of_kept (kept_emitGen2 k body abort s)
@[simp] theorem kept_abortGen2 (k : Nat) (q : Int) (s : State) : kept (abortGen2 k q s) = kept s := by
  unfold abortGen2; dsimp only; repeat' (first | (simp; done) | (refine (kept_foldl _ _ _ (fun s x => ?_)).trans ?_) | split | simp)
@[simp] theorem still_abortGen2 (k : Nat) (q : Int) (s : State) : still (abortGen2 k q s) = still s := still_of_kept
    (kept_abortGen2 k q s)
@[simp] theorem kept_cutGen2 (k : Nat) (s : State) : kept (cutGen2 k s) = kept s := by
  unfold cutGen2; (repeat' split) <;> simp
@[simp] theorem still_cutGen2 (k : Nat) (s : State) : still (cutGen2 k s) = still s := still_of_kept (kept_cutGen2 k
    s)
@[simp] theorem kept_dropUnsent (g : Nat) (q : Int) (fires : Bool) (s : State) : kept (dropUnsent g q fires s).1 =
    kept s := by
  unfold dropUnsent; simp
@[simp] theorem still_dropUnsent (g : Nat) (q : Int) (fires : Bool) (s : State) : still (dropUnsent g q fires s).1 =
    still s := still_of_kept (kept_dropUnsent g q fires s)
@[simp] theorem kept_fireNow (g : Nat) (f : Fire) (t : Nat) (s : State) : kept (fireNow g f t s) = kept s := by
  unfold fireNow; dsimp only; repeat' (first | (simp; done) | (refine (kept_foldl _ _ _ (fun s x => ?_)).trans ?_) | split | simp)
@[simp] theorem still_fireNow (g : Nat) (f : Fire) (t : Nat) (s : State) : still (fireNow g f t s) = still s :=
    still_of_kept (kept_fireNow g f t s)
@[simp] theorem kept_lineStoreUe (a : Nat) (s : State) : kept (lineStoreUe a s) = kept s := by
  unfold lineStoreUe; simp
@[simp] theorem still_lineStoreUe (a : Nat) (s : State) : still (lineStoreUe a s) = still s := still_of_kept
    (kept_lineStoreUe a s)
@[simp] theorem kept_putCopy (g : Nat) (c : Option CopyBuf) (s : State) : kept (putCopy g c s) = kept s := by
  unfold putCopy; simp
@[simp] theorem still_putCopy (g : Nat) (c : Option CopyBuf) (s : State) : still (putCopy g c s) = still s :=
    still_of_kept (kept_putCopy g c s)
@[simp] theorem kept_peelDo (g : Nat) (q i : Int) (quiet : Bool) (s : State) : kept (peelDo g q i quiet s).1 = kept s
    := by
  unfold peelDo; dsimp only; repeat' (first | (simp; done) | (refine (kept_foldl _ _ _ (fun s x => ?_)).trans ?_) | split | simp)
@[simp] theorem still_peelDo (g : Nat) (q i : Int) (quiet : Bool) (s : State) : still (peelDo g q i quiet s).1 =
    still s := still_of_kept (kept_peelDo g q i quiet s)
@[simp] theorem kept_queueXfers (g : Nat) (q tq : Int) (codes : List Nat) (poison : List Bool) (red noFire spit zero
    : Bool) (s : State) : kept (queueXfers g q tq codes poison red noFire spit zero s) = kept s := by
  unfold queueXfers; simp
@[simp] theorem still_queueXfers (g : Nat) (q tq : Int) (codes : List Nat) (poison : List Bool) (red noFire spit zero
    : Bool) (s : State) : still (queueXfers g q tq codes poison red noFire spit zero s) = still s := still_of_kept
    (kept_queueXfers g q tq codes poison red noFire spit zero s)
@[simp] theorem kept_peelTake (g : Nat) (q i n : Int) (s : State) : kept (peelTake g q i n s).1 = kept s := by
  unfold peelTake; try lift_lets
  repeat' (first | (intro x; first | (have hx : kept x = kept s := (by simp only [x]; repeat' (first | rfl | assumption | (simp [*]; done) | (refine (kept_foldl _ _ _ (fun s x => ?_)).trans ?_) | split)); clear_value x) | clear_value x) | (first | rfl | assumption | (simp [*]; done) | (refine (kept_foldl _ _ _ (fun s x => ?_)).trans ?_) | split) | lift_lets)
@[simp] theorem still_peelTake (g : Nat) (q i n : Int) (s : State) : still (peelTake g q i n s).1 = still s :=
    still_of_kept (kept_peelTake g q i n s)
@[simp] theorem kept_peelRead (b : Int) (g : Nat) (s : State) : kept (peelRead b g s) = kept s := by
  unfold peelRead; dsimp only; repeat' (first | (simp; done) | (refine (kept_foldl _ _ _ (fun s x => ?_)).trans ?_) | split | simp)
@[simp] theorem still_peelRead (b : Int) (g : Nat) (s : State) : still (peelRead b g s) = still s := still_of_kept
    (kept_peelRead b g s)

/-! ### Modes -/

@[simp] theorem kept_mapSlices (f : Slice → Slice) (s : State) : kept (mapSlices f s) = kept s := by
  unfold mapSlices; simp
@[simp] theorem still_mapSlices (f : Slice → Slice) (s : State) : still (mapSlices f s) = still s := still_of_kept
    (kept_mapSlices f s)
@[simp] theorem kept_enterComposing (s : State) : kept (enterComposing s) = kept s := by
  unfold enterComposing; simp
@[simp] theorem still_enterComposing (s : State) : still (enterComposing s) = still s := still_of_kept
    (kept_enterComposing s)
@[simp] theorem kept_settle (s : State) : kept (settle s) = kept s := by
  unfold settle; simp
@[simp] theorem still_settle (s : State) : still (settle s) = still s := still_of_kept (kept_settle s)
@[simp] theorem kept_withdrawSent (g : Nat) (s : State) : kept (withdrawSent g s) = kept s := by
  unfold withdrawSent; try lift_lets
  repeat' (first | (intro x; first | (have hx : kept x = kept s := (by simp only [x]; repeat' (first | rfl | assumption | (simp [*]; done) | (refine (kept_foldl _ _ _ (fun s x => ?_)).trans ?_) | split)); clear_value x) | clear_value x) | (first | rfl | assumption | (simp [*]; done) | (refine (kept_foldl _ _ _ (fun s x => ?_)).trans ?_) | split) | lift_lets)
@[simp] theorem still_withdrawSent (g : Nat) (s : State) : still (withdrawSent g s) = still s := still_of_kept
    (kept_withdrawSent g s)
@[simp] theorem kept_safeEntry (s : State) : kept (safeEntry s) = kept s := by
  unfold safeEntry; dsimp only; repeat' (first | (simp; done) | (refine (kept_foldl _ _ _ (fun s x => ?_)).trans ?_) | split | simp)
@[simp] theorem still_safeEntry (s : State) : still (safeEntry s) = still s := still_of_kept (kept_safeEntry s)
@[simp] theorem still_noteMode (m : Mode) (cause : Nat) (forced : Bool) (s : State) : still (noteMode m cause forced
    s) = still s := by
  unfold noteMode; simp
@[simp] theorem kept_lowerOutputs (m : Mode) (s : State) : kept (lowerOutputs m s) = kept s := by
  unfold lowerOutputs; simp
@[simp] theorem still_lowerOutputs (m : Mode) (s : State) : still (lowerOutputs m s) = still s := still_of_kept
    (kept_lowerOutputs m s)
@[simp] theorem kept_leaveSpit (from_ : Mode) (s : State) : kept (leaveSpit from_ s) = kept s := by
  unfold leaveSpit; simp
@[simp] theorem still_leaveSpit (from_ : Mode) (s : State) : still (leaveSpit from_ s) = still s := still_of_kept
    (kept_leaveSpit from_ s)
@[simp] theorem kept_intoSafe (m : Mode) (s : State) : kept (intoSafe m s) = kept s := by
  unfold intoSafe; simp
@[simp] theorem still_intoSafe (m : Mode) (s : State) : still (intoSafe m s) = still s := still_of_kept
    (kept_intoSafe m s)
@[simp] theorem kept_intoComposing (m from_ : Mode) (s : State) : kept (intoComposing m from_ s) = kept s := by
  unfold intoComposing; simp
@[simp] theorem still_intoComposing (m from_ : Mode) (s : State) : still (intoComposing m from_ s) = still s :=
    still_of_kept (kept_intoComposing m from_ s)
@[simp] theorem still_setMode (m : Mode) (cause : Nat) (forced : Bool) (s : State) : still (setMode m cause forced s)
    = still s := by
  unfold setMode; (repeat' split) <;> simp
@[simp] theorem still_forceSafe (cause : Nat) (s : State) : still (forceSafe cause s) = still s := by
  unfold forceSafe; simp
@[simp] theorem still_forceBlank (cause : Nat) (s : State) : still (forceBlank cause s) = still s := by
  unfold forceBlank; simp
@[simp] theorem still_boundaryStartBlank (s : State) : still (boundaryStartBlank s) = still s := by
  unfold boundaryStartBlank; try lift_lets
  repeat' (first | (intro x; first | (have hx : still x = still s := (by simp only [x]; repeat' (first | rfl | assumption | (simp [*]; done) | (refine (still_foldl _ _ _ (fun s x => ?_)).trans ?_) | split)); clear_value x) | clear_value x) | (first | rfl | assumption | (simp [*]; done) | (refine (still_foldl _ _ _ (fun s x => ?_)).trans ?_) | split) | lift_lets)
@[simp] theorem still_boundaryEndForce (s : State) : still (boundaryEndForce s) = still s := by
  unfold boundaryEndForce; simp
@[simp] theorem kept_answerRequest (result n : Nat) (s : State) : kept (answerRequest result n s) = kept s := by
  unfold answerRequest; simp
@[simp] theorem still_answerRequest (result n : Nat) (s : State) : still (answerRequest result n s) = still s :=
    still_of_kept (kept_answerRequest result n s)
@[simp] theorem kept_turnedAway (w : Writer) (s : State) : kept (turnedAway w s) = kept s := by
  unfold turnedAway; try lift_lets
  repeat' (first | (intro x; first | (have hx : kept x = kept s := (by simp only [x]; repeat' (first | rfl | assumption | (simp [*]; done) | (refine (kept_foldl _ _ _ (fun s x => ?_)).trans ?_) | split)); clear_value x) | clear_value x) | (first | rfl | assumption | (simp [*]; done) | (refine (kept_foldl _ _ _ (fun s x => ?_)).trans ?_) | split) | lift_lets)
@[simp] theorem still_turnedAway (w : Writer) (s : State) : still (turnedAway w s) = still s := still_of_kept
    (kept_turnedAway w s)
@[simp] theorem still_plainRequest (t : Mode) (s : State) : still (plainRequest t s) = still s := by
  unfold plainRequest; simp
@[simp] theorem kept_renumber (s : State) : kept (renumber s) = kept s := by
  unfold renumber
  rw [kept_mk, kept_mapSlices, kept_foldl]
  intro s x
  dsimp only
  rw [kept_putRg, kept_withdrawSent]
@[simp] theorem still_renumber (s : State) : still (renumber s) = still s := still_of_kept (kept_renumber s)
@[simp] theorem kept_wake (s : State) : kept (wake s) = kept s := by
  unfold wake; simp
@[simp] theorem still_wake (s : State) : still (wake s) = still s := still_of_kept (kept_wake s)
@[simp] theorem kept_motionWake (s : State) : kept (motionWake s) = kept s := by
  unfold motionWake; simp
@[simp] theorem still_motionWake (s : State) : still (motionWake s) = still s := still_of_kept (kept_motionWake s)
@[simp] theorem kept_emptyLineStore (s : State) : kept (emptyLineStore s) = kept s := by
  unfold emptyLineStore; simp
@[simp] theorem still_emptyLineStore (s : State) : still (emptyLineStore s) = still s := still_of_kept
    (kept_emptyLineStore s)
@[simp] theorem still_requestIdle (s : State) : still (requestIdle s) = still s := by
  unfold requestIdle; simp
@[simp] theorem kept_requestSleep (s : State) : kept (requestSleep s) = kept s := by
  unfold requestSleep; simp
@[simp] theorem still_requestSleep (s : State) : still (requestSleep s) = still s := still_of_kept (kept_requestSleep
    s)
@[simp] theorem kept_requestIllegal (n : Nat) (s : State) : kept (requestIllegal n s) = kept s := by
  unfold requestIllegal; simp
@[simp] theorem still_requestIllegal (n : Nat) (s : State) : still (requestIllegal n s) = still s := still_of_kept
    (kept_requestIllegal n s)
@[simp] theorem still_requestMode (n : Nat) (s : State) : still (requestMode n s) = still s := by
  unfold requestMode; try lift_lets
  repeat' (first | (intro x; first | (have hx : still x = still s := (by simp only [x]; repeat' (first | rfl | assumption | (simp [*]; done) | (refine (still_foldl _ _ _ (fun s x => ?_)).trans ?_) | split)); clear_value x) | clear_value x) | (first | rfl | assumption | (simp [*]; done) | (refine (still_foldl _ _ _ (fun s x => ?_)).trans ?_) | split) | lift_lets)

/-! ### Pairs -/

@[simp] theorem kept_stagePut (w : Writer) (h v : Nat) (s : State) : kept (stagePut w h v s) = kept s := by
  unfold stagePut; simp
@[simp] theorem still_stagePut (w : Writer) (h v : Nat) (s : State) : still (stagePut w h v s) = still s :=
    still_of_kept (kept_stagePut w h v s)
@[simp] theorem kept_stageTake (w : Writer) (h : Nat) (s : State) : kept (stageTake w h s).2 = kept s := by
  unfold stageTake; try lift_lets
  repeat' (first | (intro x; first | (have hx : kept x = kept s := (by simp only [x]; repeat' (first | rfl | assumption | (simp [*]; done) | (refine (kept_foldl _ _ _ (fun s x => ?_)).trans ?_) | split)); clear_value x) | clear_value x) | (first | rfl | assumption | (simp [*]; done) | (refine (kept_foldl _ _ _ (fun s x => ?_)).trans ?_) | split) | lift_lets)
@[simp] theorem still_stageTake (w : Writer) (h : Nat) (s : State) : still (stageTake w h s).2 = still s :=
    still_of_kept (kept_stageTake w h s)
@[simp] theorem kept_latchPut (w : Writer) (l : List (Nat × Nat)) (s : State) : kept (latchPut w l s) = kept s := by
  unfold latchPut; simp
@[simp] theorem still_latchPut (w : Writer) (l : List (Nat × Nat)) (s : State) : still (latchPut w l s) = still s :=
    still_of_kept (kept_latchPut w l s)
@[simp] theorem kept_latchTake (w : Writer) (h : Nat) (s : State) : kept (latchTake w h s).2 = kept s := by
  unfold latchTake; try lift_lets
  repeat' (first | (intro x; first | (have hx : kept x = kept s := (by simp only [x]; repeat' (first | rfl | assumption | (simp [*]; done) | (refine (kept_foldl _ _ _ (fun s x => ?_)).trans ?_) | split)); clear_value x) | clear_value x) | (first | rfl | assumption | (simp [*]; done) | (refine (kept_foldl _ _ _ (fun s x => ?_)).trans ?_) | split) | lift_lets)
@[simp] theorem still_latchTake (w : Writer) (h : Nat) (s : State) : still (latchTake w h s).2 = still s :=
    still_of_kept (kept_latchTake w h s)

/-! ### Timers -/

@[simp] theorem kept_putTmr (cl n : Nat) (x : Tmr) (s : State) : kept (putTmr cl n x s) = kept s := by
  unfold putTmr; simp
@[simp] theorem still_putTmr (cl n : Nat) (x : Tmr) (s : State) : still (putTmr cl n x s) = still s := still_of_kept
    (kept_putTmr cl n x s)
@[simp] theorem kept_setCnt (cl n v : Nat) (s : State) : kept (setCnt cl n v s) = kept s := by
  unfold setCnt; simp
@[simp] theorem still_setCnt (cl n v : Nat) (s : State) : still (setCnt cl n v s) = still s := still_of_kept
    (kept_setCnt cl n v s)
@[simp] theorem kept_onNow (cl n : Nat) (f : TmrNow → TmrNow) (s : State) : kept (onNow cl n f s) = kept s := by
  unfold onNow; simp
@[simp] theorem still_onNow (cl n : Nat) (f : TmrNow → TmrNow) (s : State) : still (onNow cl n f s) = still s :=
    still_of_kept (kept_onNow cl n f s)
@[simp] theorem kept_spitStart (s : State) : kept (spitStart s) = kept s := by
  unfold spitStart; simp
@[simp] theorem still_spitStart (s : State) : still (spitStart s) = still s := still_of_kept (kept_spitStart s)
@[simp] theorem kept_dmaRequest (cl n : Nat) (s : State) : kept (dmaRequest cl n s) = kept s := by
  unfold dmaRequest; simp
@[simp] theorem still_dmaRequest (cl n : Nat) (s : State) : still (dmaRequest cl n s) = still s := still_of_kept
    (kept_dmaRequest cl n s)
@[simp] theorem kept_timerOutputs (cl n c : Nat) (ovf mat : Bool) (s : State) : kept (timerOutputs cl n c ovf mat s)
    = kept s := by
  unfold timerOutputs; simp
@[simp] theorem still_timerOutputs (cl n c : Nat) (ovf mat : Bool) (s : State) : still (timerOutputs cl n c ovf mat
    s) = still s := still_of_kept (kept_timerOutputs cl n c ovf mat s)
@[simp] theorem kept_capture (cl n : Nat) (s : State) : kept (capture cl n s) = kept s := by
  unfold capture; dsimp only; repeat' (first | (simp; done) | (refine (kept_foldl _ _ _ (fun s x => ?_)).trans ?_) | split | simp)
@[simp] theorem still_capture (cl n : Nat) (s : State) : still (capture cl n s) = still s := still_of_kept
    (kept_capture cl n s)
@[simp] theorem kept_timerEvent (cl n : Nat) (ovf mat : Bool) (s : State) : kept (timerEvent cl n ovf mat s) = kept s
    := by
  unfold timerEvent; simp
@[simp] theorem still_timerEvent (cl n : Nat) (ovf mat : Bool) (s : State) : still (timerEvent cl n ovf mat s) =
    still s := still_of_kept (kept_timerEvent cl n ovf mat s)
@[simp] theorem kept_tickCnt (cl n : Nat) (s : State) : kept (tickCnt cl n s).1 = kept s := by
  unfold tickCnt; try lift_lets
  repeat' (first | (intro x; first | (have hx : kept x = kept s := (by simp only [x]; repeat' (first | rfl | assumption | (simp [*]; done) | (refine (kept_foldl _ _ _ (fun s x => ?_)).trans ?_) | split)); clear_value x) | clear_value x) | (first | rfl | assumption | (simp [*]; done) | (refine (kept_foldl _ _ _ (fun s x => ?_)).trans ?_) | split) | lift_lets)
@[simp] theorem still_tickCnt (cl n : Nat) (s : State) : still (tickCnt cl n s).1 = still s := still_of_kept
    (kept_tickCnt cl n s)
@[simp] theorem kept_tickTimer (cl n : Nat) (s : State) : kept (tickTimer cl n s) = kept s := by
  unfold tickTimer; simp
@[simp] theorem still_tickTimer (cl n : Nat) (s : State) : still (tickTimer cl n s) = still s := still_of_kept
    (kept_tickTimer cl n s)
@[simp] theorem kept_reload (cl n : Nat) (s : State) : kept (reload cl n s) = kept s := by
  unfold reload; simp
@[simp] theorem still_reload (cl n : Nat) (s : State) : still (reload cl n s) = still s := still_of_kept (kept_reload
    cl n s)
@[simp] theorem kept_timerEnd (cl n : Nat) (gate : Bool) (s : State) : kept (timerEnd cl n gate s) = kept s := by
  unfold timerEnd; dsimp only; repeat' (first | (simp; done) | (refine (kept_foldl _ _ _ (fun s x => ?_)).trans ?_) | split | simp)
@[simp] theorem still_timerEnd (cl n : Nat) (gate : Bool) (s : State) : still (timerEnd cl n gate s) = still s :=
    still_of_kept (kept_timerEnd cl n gate s)
@[simp] theorem kept_timerAfter (cl m c : Nat) (y : TmrNow) (s : State) : kept (timerAfter cl m c y s) = kept s := by
  unfold timerAfter; simp
@[simp] theorem still_timerAfter (cl m c : Nat) (y : TmrNow) (s : State) : still (timerAfter cl m c y s) = still s :=
    still_of_kept (kept_timerAfter cl m c y s)
@[simp] theorem kept_timersCore (s : State) : kept (timersCore s) = kept s := by
  unfold timersCore; simp
@[simp] theorem still_timersCore (s : State) : still (timersCore s) = still s := still_of_kept (kept_timersCore s)
@[simp] theorem kept_gatesCore (s : State) : kept (gatesCore s) = kept s := by
  unfold gatesCore; simp
@[simp] theorem still_gatesCore (s : State) : still (gatesCore s) = still s := still_of_kept (kept_gatesCore s)
@[simp] theorem kept_timersLine (s : State) : kept (timersLine s) = kept s := by
  unfold timersLine; simp
@[simp] theorem still_timersLine (s : State) : still (timersLine s) = still s := still_of_kept (kept_timersLine s)
@[simp] theorem kept_timerEvIn (e : Nat) (s : State) : kept (timerEvIn e s) = kept s := by
  unfold timerEvIn; simp
@[simp] theorem still_timerEvIn (e : Nat) (s : State) : still (timerEvIn e s) = still s := still_of_kept
    (kept_timerEvIn e s)
@[simp] theorem kept_writeCnt (cl n : Nat) (v : Word) (s : State) : kept (writeCnt cl n v s) = kept s := by
  unfold writeCnt; simp
@[simp] theorem still_writeCnt (cl n : Nat) (v : Word) (s : State) : still (writeCnt cl n v s) = still s :=
    still_of_kept (kept_writeCnt cl n v s)
@[simp] theorem kept_writePer (cl n : Nat) (v : Word) (s : State) : kept (writePer cl n v s) = kept s := by
  unfold writePer; simp
@[simp] theorem still_writePer (cl n : Nat) (v : Word) (s : State) : still (writePer cl n v s) = still s :=
    still_of_kept (kept_writePer cl n v s)
@[simp] theorem kept_openCap (cl n : Nat) (s : State) : kept (openCap cl n s) = kept s := by
  unfold openCap; simp
@[simp] theorem still_openCap (cl n : Nat) (s : State) : still (openCap cl n s) = still s := still_of_kept
    (kept_openCap cl n s)
@[simp] theorem kept_closeCap (cl n : Nat) (s : State) : kept (closeCap cl n s) = kept s := by
  unfold closeCap; try lift_lets
  repeat' (first | (intro x; first | (have hx : kept x = kept s := (by simp only [x]; repeat' (first | rfl | assumption | (simp [*]; done) | (refine (kept_foldl _ _ _ (fun s x => ?_)).trans ?_) | split)); clear_value x) | clear_value x) | (first | rfl | assumption | (simp [*]; done) | (refine (kept_foldl _ _ _ (fun s x => ?_)).trans ?_) | split) | lift_lets)
@[simp] theorem still_closeCap (cl n : Nat) (s : State) : still (closeCap cl n s) = still s := still_of_kept
    (kept_closeCap cl n s)
@[simp] theorem kept_applyMakeUp (cl n : Nat) (m : MakeUp) (s : State) : kept (applyMakeUp cl n m s) = kept s := by
  unfold applyMakeUp; dsimp only; repeat' (first | (simp; done) | (refine (kept_foldl _ _ _ (fun s x => ?_)).trans ?_) | split | simp)
@[simp] theorem still_applyMakeUp (cl n : Nat) (m : MakeUp) (s : State) : still (applyMakeUp cl n m s) = still s :=
    still_of_kept (kept_applyMakeUp cl n m s)
@[simp] theorem kept_makeUpCluster (cl e : Nat) (s : State) : kept (makeUpCluster cl e s) = kept s := by
  unfold makeUpCluster; simp
@[simp] theorem still_makeUpCluster (cl e : Nat) (s : State) : still (makeUpCluster cl e s) = still s :=
    still_of_kept (kept_makeUpCluster cl e s)
@[simp] theorem kept_stopTimers (s : State) : kept (stopTimers s) = kept s := by
  unfold stopTimers; simp
@[simp] theorem still_stopTimers (s : State) : still (stopTimers s) = still s := still_of_kept (kept_stopTimers s)

/-! ### Chain -/

@[simp] theorem kept_refreshCons (s : State) : kept (refreshCons s) = kept s := by
  unfold refreshCons; simp
@[simp] theorem still_refreshCons (s : State) : still (refreshCons s) = still s := still_of_kept (kept_refreshCons s)
@[simp] theorem kept_mismatchPolicy (s : State) : kept (mismatchPolicy s) = kept s := by
  unfold mismatchPolicy; simp
@[simp] theorem still_mismatchPolicy (s : State) : still (mismatchPolicy s) = still s := still_of_kept
    (kept_mismatchPolicy s)
@[simp] theorem kept_raiseCond (i : Nat) (p : Int) (s : State) : kept (raiseCond i p s) = kept s := by
  unfold raiseCond; simp
@[simp] theorem still_raiseCond (i : Nat) (p : Int) (s : State) : still (raiseCond i p s) = still s := still_of_kept
    (kept_raiseCond i p s)
@[simp] theorem kept_checkCond (i : Nat) (bad : Bool) (p : Int) (s : State) : kept (checkCond i bad p s) = kept s :=
    by
  unfold checkCond; simp
@[simp] theorem still_checkCond (i : Nat) (bad : Bool) (p : Int) (s : State) : still (checkCond i bad p s) = still s
    := still_of_kept (kept_checkCond i bad p s)
@[simp] theorem kept_sendForward (rep : Bool) (s : State) : kept (sendForward rep s) = kept s := by
  unfold sendForward; simp
@[simp] theorem still_sendForward (rep : Bool) (s : State) : still (sendForward rep s) = still s := still_of_kept
    (kept_sendForward rep s)
@[simp] theorem kept_headBoundary (s : State) : kept (headBoundary s) = kept s := by
  unfold headBoundary; simp
@[simp] theorem still_headBoundary (s : State) : still (headBoundary s) = still s := still_of_kept (kept_headBoundary
    s)
@[simp] theorem kept_headFree (s : State) : kept (headFree s) = kept s := by
  unfold headFree; simp
@[simp] theorem still_headFree (s : State) : still (headFree s) = still s := still_of_kept (kept_headFree s)
@[simp] theorem kept_indexFlags (s : State) : kept (indexFlags s) = kept s := by
  unfold indexFlags; simp
@[simp] theorem still_indexFlags (s : State) : still (indexFlags s) = still s := still_of_kept (kept_indexFlags s)
@[simp] theorem kept_alignTo (x : Fwd) (s : State) : kept (alignTo x s) = kept s := by
  unfold alignTo; simp
@[simp] theorem still_alignTo (x : Fwd) (s : State) : still (alignTo x s) = still s := still_of_kept (kept_alignTo x
    s)
@[simp] theorem kept_checkDigest (x : Fwd) (s : State) : kept (checkDigest x s) = kept s := by
  unfold checkDigest; simp
@[simp] theorem still_checkDigest (x : Fwd) (s : State) : still (checkDigest x s) = still s := still_of_kept
    (kept_checkDigest x s)
@[simp] theorem kept_checkSlip (x : Fwd) (s : State) : kept (checkSlip x s) = kept s := by
  unfold checkSlip
  generalize slipAbove x s = b
  generalize slipOf x s = d
  dsimp only
  split
  · rw [kept_raiseCond, kept_mk, kept_drawn, kept_wr]
  · split
    · rw [kept_wb, kept_mk, kept_drawn, kept_wr]
    · rw [kept_mk, kept_drawn, kept_wr]
@[simp] theorem still_checkSlip (x : Fwd) (s : State) : still (checkSlip x s) = still s := still_of_kept
    (kept_checkSlip x s)
@[simp] theorem kept_checkCount (k : Nat) (p : Int) (s : State) : kept (checkCount k p s) = kept s := by
  unfold checkCount; simp
@[simp] theorem still_checkCount (k : Nat) (p : Int) (s : State) : still (checkCount k p s) = still s :=
    still_of_kept (kept_checkCount k p s)
@[simp] theorem kept_chainChecks (x : Fwd) (aligned : Bool) (s : State) : kept (chainChecks x aligned s) = kept s :=
    by
  unfold chainChecks; simp
@[simp] theorem still_chainChecks (x : Fwd) (aligned : Bool) (s : State) : still (chainChecks x aligned s) = still s
    := still_of_kept (kept_chainChecks x aligned s)
@[simp] theorem kept_frameDiscarded (ret : Bool) (s : State) : kept (frameDiscarded ret s) = kept s := by
  unfold frameDiscarded; simp
@[simp] theorem still_frameDiscarded (ret : Bool) (s : State) : still (frameDiscarded ret s) = still s :=
    still_of_kept (kept_frameDiscarded ret s)
@[simp] theorem kept_requestAlign (s : State) : kept (requestAlign s) = kept s := by
  unfold requestAlign; simp
@[simp] theorem still_requestAlign (s : State) : still (requestAlign s) = still s := still_of_kept (kept_requestAlign
    s)
@[simp] theorem kept_newEpoch (s : State) : kept (newEpoch s) = kept s := by
  unfold newEpoch; simp
@[simp] theorem still_newEpoch (s : State) : still (newEpoch s) = still s := still_of_kept (kept_newEpoch s)
@[simp] theorem kept_rebaseNow (s : State) : kept (rebaseNow s) = kept s := by
  unfold rebaseNow; simp
@[simp] theorem still_rebaseNow (s : State) : still (rebaseNow s) = still s := still_of_kept (kept_rebaseNow s)

/-! ### Boundary -/

@[simp] theorem kept_measurePeriod (s : State) : kept (measurePeriod s) = kept s := by
  unfold measurePeriod; try lift_lets
  repeat' (first | (intro x; first | (have hx : kept x = kept s := (by simp only [x]; repeat' (first | rfl | assumption | (simp [*]; done) | (refine (kept_foldl _ _ _ (fun s x => ?_)).trans ?_) | split)); clear_value x) | clear_value x) | (first | rfl | assumption | (simp [*]; done) | (refine (kept_foldl _ _ _ (fun s x => ?_)).trans ?_) | split) | lift_lets)
@[simp] theorem still_measurePeriod (s : State) : still (measurePeriod s) = still s := still_of_kept
    (kept_measurePeriod s)
@[simp] theorem kept_indexLimit (s : State) : kept (indexLimit s) = kept s := by
  unfold indexLimit; simp
@[simp] theorem still_indexLimit (s : State) : still (indexLimit s) = still s := still_of_kept (kept_indexLimit s)
@[simp] theorem kept_overdueFire (g : Nat) (s : State) : kept (overdueFire g s) = kept s := by
  unfold overdueFire; try lift_lets
  repeat' (first | (intro x; first | (have hx : kept x = kept s := (by simp only [x]; repeat' (first | rfl | assumption | (simp [*]; done) | (refine (kept_foldl _ _ _ (fun s x => ?_)).trans ?_) | split)); clear_value x) | clear_value x) | (first | rfl | assumption | (simp [*]; done) | (refine (kept_foldl _ _ _ (fun s x => ?_)).trans ?_) | split) | lift_lets)
@[simp] theorem still_overdueFire (g : Nat) (s : State) : still (overdueFire g s) = still s := still_of_kept
    (kept_overdueFire g s)
@[simp] theorem kept_pendFire (g : Nat) (s : State) : kept (pendFire g s) = kept s := by
  unfold pendFire; simp
@[simp] theorem still_pendFire (g : Nat) (s : State) : still (pendFire g s) = still s := still_of_kept (kept_pendFire
    g s)
@[simp] theorem kept_updateReg (k : Nat) (s : State) : kept (updateReg k s) = kept s := by
  unfold updateReg; simp
@[simp] theorem still_updateReg (k : Nat) (s : State) : still (updateReg k s) = still s := still_of_kept
    (kept_updateReg k s)
@[simp] theorem kept_startSsi (n : Nat) (s : State) : kept (startSsi n s) = kept s := by
  unfold startSsi; simp
@[simp] theorem still_startSsi (n : Nat) (s : State) : still (startSsi n s) = still s := still_of_kept (kept_startSsi
    n s)
@[simp] theorem kept_fallDue (s : State) : kept (fallDue s) = kept s := by
  unfold fallDue; simp
@[simp] theorem still_fallDue (s : State) : still (fallDue s) = still s := still_of_kept (kept_fallDue s)
@[simp] theorem kept_autoApply (s : State) : kept (autoApply s) = kept s := by
  unfold autoApply; simp
@[simp] theorem still_autoApply (s : State) : still (autoApply s) = still s := still_of_kept (kept_autoApply s)
@[simp] theorem kept_autoCommit (s : State) : kept (autoCommit s) = kept s := by
  unfold autoCommit; simp
@[simp] theorem still_autoCommit (s : State) : still (autoCommit s) = still s := still_of_kept (kept_autoCommit s)
@[simp] theorem kept_takeSwitch (s : State) : kept (takeSwitch s) = kept s := by
  unfold takeSwitch; try lift_lets
  repeat' (first | (intro x; first | (have hx : kept x = kept s := (by simp only [x]; repeat' (first | rfl | assumption | (simp [*]; done) | (refine (kept_foldl _ _ _ (fun s x => ?_)).trans ?_) | split)); clear_value x) | clear_value x) | (first | rfl | assumption | (simp [*]; done) | (refine (kept_foldl _ _ _ (fun s x => ?_)).trans ?_) | split) | lift_lets)
@[simp] theorem still_takeSwitch (s : State) : still (takeSwitch s) = still s := still_of_kept (kept_takeSwitch s)
@[simp] theorem kept_beacon (s : State) : kept (beacon s) = kept s := by
  unfold beacon; simp
@[simp] theorem still_beacon (s : State) : still (beacon s) = still s := still_of_kept (kept_beacon s)
@[simp] theorem still_drainComplete (s : State) : still (drainComplete s) = still s := by
  unfold drainComplete; try lift_lets
  repeat' (first | (intro x; first | (have hx : still x = still s := (by simp only [x]; repeat' (first | rfl | assumption | (simp [*]; done) | (refine (still_foldl _ _ _ (fun s x => ?_)).trans ?_) | split)); clear_value x) | clear_value x) | (first | rfl | assumption | (simp [*]; done) | (refine (still_foldl _ _ _ (fun s x => ?_)).trans ?_) | split) | lift_lets)
@[simp] theorem still_boundary (s : State) : still (boundary s) = still s := by
  unfold boundary; simp

/-! ### Position -/

@[simp] theorem kept_recordRaw (i : RawIn) (s : State) : kept (recordRaw i s) = kept s := by
  unfold recordRaw; simp
@[simp] theorem still_recordRaw (i : RawIn) (s : State) : still (recordRaw i s) = still s := still_of_kept
    (kept_recordRaw i s)
@[simp] theorem kept_compareMove (p0 p1 h : Int) (j : Nat) (s : State) : kept (compareMove p0 p1 h j s) = kept s := by
  unfold compareMove; simp
@[simp] theorem still_compareMove (p0 p1 h : Int) (j : Nat) (s : State) : still (compareMove p0 p1 h j s) = still s
    := still_of_kept (kept_compareMove p0 p1 h j s)
@[simp] theorem kept_compareAll (p0 p1 h : Int) (s : State) : kept (compareAll p0 p1 h s) = kept s := by
  unfold compareAll; simp
@[simp] theorem still_compareAll (p0 p1 h : Int) (s : State) : still (compareAll p0 p1 h s) = still s :=
    still_of_kept (kept_compareAll p0 p1 h s)
@[simp] theorem kept_crossThresholds (p1 : Int) (s : State) : kept (crossThresholds p1 s) = kept s := by
  unfold crossThresholds; try lift_lets
  repeat' (first | (intro x; first | (have hx : kept x = kept s := (by simp only [x]; repeat' (first | rfl | assumption | (simp [*]; done) | (refine (kept_foldl _ _ _ (fun s x => ?_)).trans ?_) | split)); clear_value x) | clear_value x) | (first | rfl | assumption | (simp [*]; done) | (refine (kept_foldl _ _ _ (fun s x => ?_)).trans ?_) | split) | lift_lets)
@[simp] theorem still_crossThresholds (p1 : Int) (s : State) : still (crossThresholds p1 s) = still s :=
    still_of_kept (kept_crossThresholds p1 s)
@[simp] theorem still_runBoundaries (n : Nat) (s : State) : still (runBoundaries n s) = still s := by
  induction n generalizing s with
  | zero => rfl
  | succ n ih =>
    unfold runBoundaries
    split
    · rw [ih]; split
      · rw [still_mk]
      · rw [still_boundary]
    · rfl
@[simp] theorem still_moved (s : State) : still (moved s) = still s := by
  unfold moved; simp
@[simp] theorem kept_issueHeld (s : State) : kept (issueHeld s) = kept s := by
  unfold issueHeld; simp
@[simp] theorem still_issueHeld (s : State) : still (issueHeld s) = still s := still_of_kept (kept_issueHeld s)
@[simp] theorem kept_countVelocity (s : State) : kept (countVelocity s) = kept s := by
  unfold countVelocity; try lift_lets
  repeat' (first | (intro x; first | (have hx : kept x = kept s := (by simp only [x]; repeat' (first | rfl | assumption | (simp [*]; done) | (refine (kept_foldl _ _ _ (fun s x => ?_)).trans ?_) | split)); clear_value x) | clear_value x) | (first | rfl | assumption | (simp [*]; done) | (refine (kept_foldl _ _ _ (fun s x => ?_)).trans ?_) | split) | lift_lets)
@[simp] theorem still_countVelocity (s : State) : still (countVelocity s) = still s := still_of_kept
    (kept_countVelocity s)
@[simp] theorem kept_countSeen (s : State) : kept (countSeen s) = kept s := by
  unfold countSeen; simp
@[simp] theorem still_countSeen (s : State) : still (countSeen s) = still s := still_of_kept (kept_countSeen s)
@[simp] theorem kept_putEnc (n : Nat) (x : Enc) (s : State) : kept (putEnc n x s) = kept s := by
  unfold putEnc; simp
@[simp] theorem still_putEnc (n : Nat) (x : Enc) (s : State) : still (putEnc n x s) = still s := still_of_kept
    (kept_putEnc n x s)
@[simp] theorem still_failover (s : State) : still (failover s) = still s := by
  unfold failover; simp
@[simp] theorem still_encoderLoss (s : State) : still (encoderLoss s) = still s := by
  unfold encoderLoss; simp
@[simp] theorem kept_countInput (n : Nat) (d : Int) (s : State) : kept (countInput n d s) = kept s := by
  unfold countInput; simp
@[simp] theorem still_countInput (n : Nat) (d : Int) (s : State) : still (countInput n d s) = still s :=
    still_of_kept (kept_countInput n d s)
@[simp] theorem still_decode (i : RawIn) (s : State) : still (decode i s) = still s := by
  unfold decode; simp
@[simp] theorem still_illegalTransition (n : Nat) (s : State) : still (illegalTransition n s) = still s := by
  unfold illegalTransition; simp
@[simp] theorem kept_deviate (k : Nat) (dev : Int) (s : State) : kept (deviate k dev s) = kept s := by
  unfold deviate; simp
@[simp] theorem still_deviate (k : Nat) (dev : Int) (s : State) : still (deviate k dev s) = still s := still_of_kept
    (kept_deviate k dev s)
@[simp] theorem kept_keepDecoder (k : Nat) (s : State) : kept (keepDecoder k s) = kept s := by
  unfold keepDecoder; simp
@[simp] theorem still_keepDecoder (k : Nat) (s : State) : still (keepDecoder k s) = still s := still_of_kept
    (kept_keepDecoder k s)
@[simp] theorem kept_landCapture (e t : Nat) (p : Int) (s : State) : kept (landCapture e t p s) = kept s := by
  unfold landCapture; simp
@[simp] theorem still_landCapture (e t : Nat) (p : Int) (s : State) : still (landCapture e t p s) = still s :=
    still_of_kept (kept_landCapture e t p s)
@[simp] theorem kept_markCapture (k : Nat) (p : Int) (s : State) : kept (markCapture k p s) = kept s := by
  unfold markCapture; simp
@[simp] theorem still_markCapture (k : Nat) (p : Int) (s : State) : still (markCapture k p s) = still s :=
    still_of_kept (kept_markCapture k p s)

/-! ### PosRegs -/

@[simp] theorem kept_codedWrite (a : Nat) (v : Word) (s : State) : kept (codedWrite a v s) = kept s := by
  unfold codedWrite; try lift_lets
  repeat' (first | (intro x; first | (have hx : kept x = kept s := (by simp only [x]; repeat' (first | rfl | assumption | (simp [*]; done) | (refine (kept_foldl _ _ _ (fun s x => ?_)).trans ?_) | split)); clear_value x) | clear_value x) | (first | rfl | assumption | (simp [*]; done) | (refine (kept_foldl _ _ _ (fun s x => ?_)).trans ?_) | split) | lift_lets)
@[simp] theorem still_codedWrite (a : Nat) (v : Word) (s : State) : still (codedWrite a v s) = still s :=
    still_of_kept (kept_codedWrite a v s)
@[simp] theorem kept_sealEvent (hit : Bool) (a : Nat) (s : State) : kept (sealEvent hit a s) = kept s := by
  unfold sealEvent; simp
@[simp] theorem still_sealEvent (hit : Bool) (a : Nat) (s : State) : still (sealEvent hit a s) = still s :=
    still_of_kept (kept_sealEvent hit a s)
@[simp] theorem kept_writeGf (n : Nat) (v : Word) (s : State) : kept (writeGf n v s) = kept s := by
  unfold writeGf; simp
@[simp] theorem still_writeGf (n : Nat) (v : Word) (s : State) : still (writeGf n v s) = still s := still_of_kept
    (kept_writeGf n v s)
@[simp] theorem kept_clearRead (a : Nat) (s : State) : kept (clearRead a s) = kept s := by
  unfold clearRead; simp
@[simp] theorem still_clearRead (a : Nat) (s : State) : still (clearRead a s) = still s := still_of_kept
    (kept_clearRead a s)
@[simp] theorem still_requestFailover (s : State) : still (requestFailover s) = still s := by
  unfold requestFailover; simp
@[simp] theorem kept_returnDecoder (s : State) : kept (returnDecoder s) = kept s := by
  unfold returnDecoder; simp
@[simp] theorem still_returnDecoder (s : State) : still (returnDecoder s) = still s := still_of_kept
    (kept_returnDecoder s)
@[simp] theorem kept_commitCompare (j : Nat) (v : Int) (s : State) : kept (commitCompare j v s) = kept s := by
  unfold commitCompare; simp
@[simp] theorem still_commitCompare (j : Nat) (v : Int) (s : State) : still (commitCompare j v s) = still s :=
    still_of_kept (kept_commitCompare j v s)
@[simp] theorem kept_openCapture (w : Writer) (e : Nat) (s : State) : kept (openCapture w e s) = kept s := by
  unfold openCapture; simp
@[simp] theorem still_openCapture (w : Writer) (e : Nat) (s : State) : still (openCapture w e s) = still s :=
    still_of_kept (kept_openCapture w e s)
@[simp] theorem kept_closeCapture (e : Nat) (s : State) : kept (closeCapture e s) = kept s := by
  unfold closeCapture; dsimp only; repeat' (first | (simp; done) | (refine (kept_foldl _ _ _ (fun s x => ?_)).trans ?_) | split | simp)
@[simp] theorem still_closeCapture (e : Nat) (s : State) : still (closeCapture e s) = still s := still_of_kept
    (kept_closeCapture e s)
@[simp] theorem kept_writeRegCtl (k : Nat) (v : Word) (s : State) : kept (writeRegCtl k v s) = kept s := by
  unfold writeRegCtl; simp
@[simp] theorem still_writeRegCtl (k : Nat) (v : Word) (s : State) : still (writeRegCtl k v s) = still s :=
    still_of_kept (kept_writeRegCtl k v s)
@[simp] theorem kept_latchModes (w : Writer) (s : State) : kept (latchModes w s) = kept s := by
  unfold latchModes; simp
@[simp] theorem still_latchModes (w : Writer) (s : State) : still (latchModes w s) = still s := still_of_kept
    (kept_latchModes w s)

/-! ### LineCmds -/

@[simp] theorem kept_finishLine (cl : Nat) (i : Int) (s : State) : kept (finishLine cl i s) = kept s := by
  unfold finishLine; simp
@[simp] theorem still_finishLine (cl : Nat) (i : Int) (s : State) : still (finishLine cl i s) = still s :=
    still_of_kept (kept_finishLine cl i s)
@[simp] theorem kept_noLane (cl : Nat) (i : Int) (s : State) : kept (noLane cl i s) = kept s := by
  unfold noLane; simp
@[simp] theorem still_noLane (cl : Nat) (i : Int) (s : State) : still (noLane cl i s) = still s := still_of_kept
    (kept_noLane cl i s)
@[simp] theorem kept_writeProof (cl a : Nat) (v : Word) (s : State) : kept (writeProof cl a v s) = kept s := by
  unfold writeProof; simp
@[simp] theorem still_writeProof (cl a : Nat) (v : Word) (s : State) : still (writeProof cl a v s) = still s :=
    still_of_kept (kept_writeProof cl a v s)
@[simp] theorem kept_proofAccess (w : Writer) (cl a : Nat) (v : Word) (s : State) : kept (proofAccess w cl a v s) =
    kept s := by
  unfold proofAccess; dsimp only; repeat' (first | (simp; done) | (refine (kept_foldl _ _ _ (fun s x => ?_)).trans ?_) | split | simp)
@[simp] theorem still_proofAccess (w : Writer) (cl a : Nat) (v : Word) (s : State) : still (proofAccess w cl a v s) =
    still s := still_of_kept (kept_proofAccess w cl a v s)
@[simp] theorem kept_issueCommit (nozzle : Bool) (issuer mask : Nat) (s : State) : kept (issueCommit nozzle issuer
    mask s) = kept s := by
  unfold issueCommit; simp
@[simp] theorem still_issueCommit (nozzle : Bool) (issuer mask : Nat) (s : State) : still (issueCommit nozzle issuer
    mask s) = still s := still_of_kept (kept_issueCommit nozzle issuer mask s)
@[simp] theorem kept_autoDecided (ok : Bool) (s : State) : kept (autoDecided ok s) = kept s := by
  unfold autoDecided; simp
@[simp] theorem still_autoDecided (ok : Bool) (s : State) : still (autoDecided ok s) = still s := still_of_kept
    (kept_autoDecided ok s)
@[simp] theorem kept_decideCommit (c : Commit) (s : State) : kept (decideCommit c s) = kept s := by
  unfold decideCommit; simp
@[simp] theorem still_decideCommit (c : Commit) (s : State) : still (decideCommit c s) = still s := still_of_kept
    (kept_decideCommit c s)
@[simp] theorem kept_retakeStream (cl : Nat) (i : Int) (s : State) : kept (retakeStream cl i s) = kept s := by
  unfold retakeStream; simp
@[simp] theorem still_retakeStream (cl : Nat) (i : Int) (s : State) : still (retakeStream cl i s) = still s :=
    still_of_kept (kept_retakeStream cl i s)
@[simp] theorem kept_takeAtStart (cl : Nat) (l : Int) (s : State) : kept (takeAtStart cl l s) = kept s := by
  unfold takeAtStart; simp
@[simp] theorem still_takeAtStart (cl : Nat) (l : Int) (s : State) : still (takeAtStart cl l s) = still s :=
    still_of_kept (kept_takeAtStart cl l s)
@[simp] theorem kept_recompose (mask : Nat) (l : Int) (s : State) : kept (recompose mask l s) = kept s := by
  unfold recompose; simp
@[simp] theorem still_recompose (mask : Nat) (l : Int) (s : State) : still (recompose mask l s) = still s :=
    still_of_kept (kept_recompose mask l s)
@[simp] theorem kept_setStreamWp (o : Nat) (s : State) : kept (setStreamWp o s) = kept s := by
  unfold setStreamWp; simp
@[simp] theorem still_setStreamWp (o : Nat) (s : State) : still (setStreamWp o s) = still s := still_of_kept
    (kept_setStreamWp o s)
@[simp] theorem kept_resetStream (s : State) : kept (resetStream s) = kept s := by
  unfold resetStream; simp
@[simp] theorem still_resetStream (s : State) : still (resetStream s) = still s := still_of_kept (kept_resetStream s)

/-! ### CondCmds -/

@[simp] theorem kept_onBusy (f : Coded → Coded) (s : State) : kept (onBusy f s) = kept s := by
  unfold onBusy; simp
@[simp] theorem still_onBusy (f : Coded → Coded) (s : State) : still (onBusy f s) = still s := still_of_kept
    (kept_onBusy f s)
@[simp] theorem kept_noPipe (c : Coded) (s : State) : kept (noPipe c s) = kept s := by
  unfold noPipe; simp
@[simp] theorem still_noPipe (c : Coded) (s : State) : still (noPipe c s) = still s := still_of_kept (kept_noPipe c s)
@[simp] theorem kept_noCodec (c : Coded) (s : State) : kept (noCodec c s) = kept s := by
  unfold noCodec; simp
@[simp] theorem still_noCodec (c : Coded) (s : State) : still (noCodec c s) = still s := still_of_kept (kept_noCodec
    c s)
@[simp] theorem kept_applyUpd (v : Word) (s : State) : kept (applyUpd v s) = kept s := by
  unfold applyUpd; simp
@[simp] theorem still_applyUpd (v : Word) (s : State) : still (applyUpd v s) = still s := still_of_kept
    (kept_applyUpd v s)
@[simp] theorem kept_ringRecord (v : Nat) (s : State) : kept (ringRecord v s) = kept s := by
  unfold ringRecord; simp
@[simp] theorem still_ringRecord (v : Nat) (s : State) : still (ringRecord v s) = still s := still_of_kept
    (kept_ringRecord v s)
@[simp] theorem kept_nozzleOut (g n : Nat) (s : State) : kept (nozzleOut g n s) = kept s := by
  unfold nozzleOut; simp
@[simp] theorem still_nozzleOut (g n : Nat) (s : State) : still (nozzleOut g n s) = still s := still_of_kept
    (kept_nozzleOut g n s)
@[simp] theorem kept_writeNzlCfg (v : Word) (s : State) : kept (writeNzlCfg v s) = kept s := by
  unfold writeNzlCfg; simp
@[simp] theorem still_writeNzlCfg (v : Word) (s : State) : still (writeNzlCfg v s) = still s := still_of_kept
    (kept_writeNzlCfg v s)

/-! ### Store -/

@[simp] theorem kept_setJob (j : SliceJob) (s : State) : kept (setJob j s) = kept s := by
  unfold setJob; simp
@[simp] theorem still_setJob (j : SliceJob) (s : State) : still (setJob j s) = still s := still_of_kept (kept_setJob
    j s)
@[simp] theorem kept_noSpare (s : State) : kept (noSpare s) = kept s := by
  unfold noSpare; simp
@[simp] theorem still_noSpare (s : State) : still (noSpare s) = still s := still_of_kept (kept_noSpare s)
@[simp] theorem kept_standIn (k p : Nat) (s : State) : kept (standIn k p s) = kept s := by
  unfold standIn; simp
@[simp] theorem still_standIn (k p : Nat) (s : State) : still (standIn k p s) = still s := still_of_kept
    (kept_standIn k p s)
@[simp] theorem kept_repairsGoOn (s : State) : kept (repairsGoOn s) = kept s := by
  unfold repairsGoOn; dsimp only; repeat' (first | (simp; done) | (refine (kept_foldl _ _ _ (fun s x => ?_)).trans ?_) | split | simp)
@[simp] theorem still_repairsGoOn (s : State) : still (repairsGoOn s) = still s := still_of_kept (kept_repairsGoOn s)
@[simp] theorem kept_needRepair (k : Nat) (s : State) : kept (needRepair k s) = kept s := by
  unfold needRepair; dsimp only; repeat' (first | (simp; done) | (refine (kept_foldl _ _ _ (fun s x => ?_)).trans ?_) | split | simp)
@[simp] theorem still_needRepair (k : Nat) (s : State) : still (needRepair k s) = still s := still_of_kept
    (kept_needRepair k s)
@[simp] theorem kept_blockUes (a : Nat) (s : State) : kept (blockUes a s) = kept s := by
  unfold blockUes; simp
@[simp] theorem still_blockUes (a : Nat) (s : State) : still (blockUes a s) = still s := still_of_kept (kept_blockUes
    a s)
@[simp] theorem kept_markUe (w : Nat) (s : State) : kept (markUe w s) = kept s := by
  unfold markUe; simp
@[simp] theorem still_markUe (w : Nat) (s : State) : still (markUe w s) = still s := still_of_kept (kept_markUe w s)
@[simp] theorem kept_countSlice (k : Nat) (s : State) : kept (countSlice k s) = kept s := by
  unfold countSlice; simp
@[simp] theorem still_countSlice (k : Nat) (s : State) : still (countSlice k s) = still s := still_of_kept
    (kept_countSlice k s)

/-! ### HeadLink -/

@[simp] theorem kept_sentXfers (p : Xfer → Bool) (s : State) : kept (sentXfers p s) = kept s := by
  unfold sentXfers; simp
@[simp] theorem still_sentXfers (p : Xfer → Bool) (s : State) : still (sentXfers p s) = still s := still_of_kept
    (kept_sentXfers p s)
@[simp] theorem kept_acceptSwitch (l : Int) (t : Bool) (s : State) : kept (acceptSwitch l t s) = kept s := by
  unfold acceptSwitch; simp
@[simp] theorem still_acceptSwitch (l : Int) (t : Bool) (s : State) : still (acceptSwitch l t s) = still s :=
    still_of_kept (kept_acceptSwitch l t s)
@[simp] theorem kept_portFails (k : Nat) (s : State) : kept (portFails k s) = kept s := by
  unfold portFails; simp
@[simp] theorem still_portFails (k : Nat) (s : State) : still (portFails k s) = still s := still_of_kept
    (kept_portFails k s)
@[simp] theorem kept_txLaneFails (k l : Nat) (s : State) : kept (txLaneFails k l s) = kept s := by
  unfold txLaneFails; simp
@[simp] theorem still_txLaneFails (k l : Nat) (s : State) : still (txLaneFails k l s) = still s := still_of_kept
    (kept_txLaneFails k l s)
@[simp] theorem kept_tempEntry (k q e : Nat) (s : State) : kept (tempEntry k q e s) = kept s := by
  unfold tempEntry; simp
@[simp] theorem still_tempEntry (k q e : Nat) (s : State) : still (tempEntry k q e s) = still s := still_of_kept
    (kept_tempEntry k q e s)
@[simp] theorem kept_retrainPort (k : Nat) (s : State) : kept (retrainPort k s) = kept s := by
  unfold retrainPort; simp
@[simp] theorem still_retrainPort (k : Nat) (s : State) : still (retrainPort k s) = still s := still_of_kept
    (kept_retrainPort k s)
@[simp] theorem kept_requestSwitch (t : Bool) (s : State) : kept (requestSwitch t s) = kept s := by
  unfold requestSwitch; simp
@[simp] theorem still_requestSwitch (t : Bool) (s : State) : still (requestSwitch t s) = still s := still_of_kept
    (kept_requestSwitch t s)
@[simp] theorem still_noPeel (s : State) : still (noPeel s) = still s := by
  unfold noPeel; simp

/-! ### Fetch -/

@[simp] theorem kept_onFetch (cl m : Nat) (f : Fetch → Fetch) (s : State) : kept (onFetch cl m f s) = kept s := by
  unfold onFetch; simp
@[simp] theorem still_onFetch (cl m : Nat) (f : Fetch → Fetch) (s : State) : still (onFetch cl m f s) = still s :=
    still_of_kept (kept_onFetch cl m f s)
@[simp] theorem kept_localUe (cl m a : Nat) (s : State) : kept (localUe cl m a s) = kept s := by
  unfold localUe; simp
@[simp] theorem still_localUe (cl m a : Nat) (s : State) : still (localUe cl m a s) = still s := still_of_kept
    (kept_localUe cl m a s)
@[simp] theorem kept_localCe (cl : Nat) (s : State) : kept (localCe cl s) = kept s := by
  unfold localCe; simp
@[simp] theorem still_localCe (cl : Nat) (s : State) : still (localCe cl s) = still s := still_of_kept (kept_localCe
    cl s)
@[simp] theorem kept_countFetch (cl m a n : Nat) (s : State) : kept (countFetch cl m a n s) = kept s := by
  unfold countFetch; simp
@[simp] theorem still_countFetch (cl m a n : Nat) (s : State) : still (countFetch cl m a n s) = still s :=
    still_of_kept (kept_countFetch cl m a n s)
@[simp] theorem kept_refill (cl m pc : Nat) (s : State) : kept (refill cl m pc s) = kept s := by
  unfold refill; simp
@[simp] theorem still_refill (cl m pc : Nat) (s : State) : still (refill cl m pc s) = still s := still_of_kept
    (kept_refill cl m pc s)
@[simp] theorem kept_cacheAsk (cl m a : Nat) (s : State) : kept (cacheAsk cl m a s) = kept s := by
  unfold cacheAsk; dsimp only; repeat' (first | (simp; done) | (refine (kept_foldl _ _ _ (fun s x => ?_)).trans ?_) | split | simp)
@[simp] theorem still_cacheAsk (cl m a : Nat) (s : State) : still (cacheAsk cl m a s) = still s := still_of_kept
    (kept_cacheAsk cl m a s)
@[simp] theorem kept_cacheStore (cl m a : Nat) (v : Half) (s : State) : kept (cacheStore cl m a v s) = kept s := by
  unfold cacheStore; simp
@[simp] theorem still_cacheStore (cl m a : Nat) (v : Half) (s : State) : still (cacheStore cl m a v s) = still s :=
    still_of_kept (kept_cacheStore cl m a v s)
@[simp] theorem kept_keepOld (cl m a : Nat) (s : State) : kept (keepOld cl m a s) = kept s := by
  unfold keepOld; simp
@[simp] theorem still_keepOld (cl m a : Nat) (s : State) : still (keepOld cl m a s) = still s := still_of_kept
    (kept_keepOld cl m a s)
@[simp] theorem kept_fetched (cl m pc n : Nat) (s : State) : kept (fetched cl m pc n s) = kept s := by
  unfold fetched; simp
@[simp] theorem still_fetched (cl m pc n : Nat) (s : State) : still (fetched cl m pc n s) = still s := still_of_kept
    (kept_fetched cl m pc n s)
@[simp] theorem kept_begun (cl m : Nat) (again : Bool) (short : Option Short) (s : State) : kept (begun cl m again
    short s) = kept s := by
  unfold begun; simp
@[simp] theorem still_begun (cl m : Nat) (again : Bool) (short : Option Short) (s : State) : still (begun cl m again
    short s) = still s := still_of_kept (kept_begun cl m again short s)
@[simp] theorem kept_hold (cl m : Nat) (s : State) : kept (hold cl m s) = kept s := by
  unfold hold; simp
@[simp] theorem still_hold (cl m : Nat) (s : State) : still (hold cl m s) = still s := still_of_kept (kept_hold cl m
    s)
@[simp] theorem kept_teach (cl m : Nat) (f : Fetch → Fetch) (s : State) : kept (teach cl m f s) = kept s := by
  unfold teach; simp
@[simp] theorem still_teach (cl m : Nat) (f : Fetch → Fetch) (s : State) : still (teach cl m f s) = still s :=
    still_of_kept (kept_teach cl m f s)
@[simp] theorem kept_redirect (cl m : Nat) (s : State) : kept (redirect cl m s) = kept s := by
  unfold redirect; simp
@[simp] theorem still_redirect (cl m : Nat) (s : State) : still (redirect cl m s) = still s := still_of_kept
    (kept_redirect cl m s)
@[simp] theorem kept_refetch (cl m : Nat) (s : State) : kept (refetch cl m s) = kept s := by
  unfold refetch; simp
@[simp] theorem still_refetch (cl m : Nat) (s : State) : still (refetch cl m s) = still s := still_of_kept
    (kept_refetch cl m s)
@[simp] theorem kept_mulIssued (cl m : Nat) (s : State) : kept (mulIssued cl m s) = kept s := by
  unfold mulIssued; simp
@[simp] theorem still_mulIssued (cl m : Nat) (s : State) : still (mulIssued cl m s) = still s := still_of_kept
    (kept_mulIssued cl m s)
@[simp] theorem kept_mulWait (cl m : Nat) (s : State) : kept (mulWait cl m s) = kept s := by
  unfold mulWait; simp
@[simp] theorem still_mulWait (cl m : Nat) (s : State) : still (mulWait cl m s) = still s := still_of_kept
    (kept_mulWait cl m s)
@[simp] theorem kept_stallCycle (cl m : Nat) (s : State) : kept (stallCycle cl m s) = kept s := by
  unfold stallCycle; simp
@[simp] theorem still_stallCycle (cl m : Nat) (s : State) : still (stallCycle cl m s) = still s := still_of_kept
    (kept_stallCycle cl m s)
@[simp] theorem kept_windowWait (cl m b : Nat) (s : State) : kept (windowWait cl m b s) = kept s := by
  unfold windowWait; simp
@[simp] theorem still_windowWait (cl m b : Nat) (s : State) : still (windowWait cl m b s) = still s := still_of_kept
    (kept_windowWait cl m b s)

/-! ### Operands -/

@[simp] theorem kept_trapHere (cl m c code adr : Nat) (s : State) : kept (trapHere cl m c code adr s) = kept s := by
  unfold trapHere; simp
@[simp] theorem still_trapHere (cl m c code adr : Nat) (s : State) : still (trapHere cl m c code adr s) = still s :=
    still_of_kept (kept_trapHere cl m c code adr s)
@[simp] theorem kept_transfer (g : Guess) (cl m c : Nat) (t : Int) (ret : Option Nat) (f : Ctx → Ctx) (s : State) :
    kept (transfer g cl m c t ret f s) = kept s := by
  unfold transfer; dsimp only; repeat' (first | (simp; done) | (refine (kept_foldl _ _ _ (fun s x => ?_)).trans ?_) | split | simp)
@[simp] theorem still_transfer (g : Guess) (cl m c : Nat) (t : Int) (ret : Option Nat) (f : Ctx → Ctx) (s : State) :
    still (transfer g cl m c t ret f s) = still s := still_of_kept (kept_transfer g cl m c t ret f s)
@[simp] theorem kept_claimMr (cl m c : Nat) (s : State) : kept (claimMr cl m c s) = kept s := by
  unfold claimMr; simp
@[simp] theorem still_claimMr (cl m c : Nat) (s : State) : still (claimMr cl m c s) = still s := still_of_kept
    (kept_claimMr cl m c s)
@[simp] theorem kept_markDirty (cl m c : Nat) (which : List Nat) (s : State) : kept (markDirty cl m c which s) = kept
    s := by
  unfold markDirty; simp
@[simp] theorem still_markDirty (cl m c : Nat) (which : List Nat) (s : State) : still (markDirty cl m c which s) =
    still s := still_of_kept (kept_markDirty cl m c which s)

/-! ### Ctl -/

@[simp] theorem kept_startReq (cl m mask : Nat) (s : State) : kept (startReq cl m mask s) = kept s := by
  unfold startReq; simp
@[simp] theorem still_startReq (cl m mask : Nat) (s : State) : still (startReq cl m mask s) = still s :=
    still_of_kept (kept_startReq cl m mask s)
@[simp] theorem kept_stopReq (cl m mask : Nat) (s : State) : kept (stopReq cl m mask s) = kept s := by
  unfold stopReq; simp
@[simp] theorem still_stopReq (cl m mask : Nat) (s : State) : still (stopReq cl m mask s) = still s := still_of_kept
    (kept_stopReq cl m mask s)
@[simp] theorem kept_cellRestart (cl m : Nat) (s : State) : kept (cellRestart cl m s) = kept s := by
  unfold cellRestart; simp
@[simp] theorem still_cellRestart (cl m : Nat) (s : State) : still (cellRestart cl m s) = still s := still_of_kept
    (kept_cellRestart cl m s)
@[simp] theorem kept_writeEvcCell (cl m : Nat) (v : Word) (s : State) : kept (writeEvcCell cl m v s) = kept s := by
  unfold writeEvcCell; simp
@[simp] theorem still_writeEvcCell (cl m : Nat) (v : Word) (s : State) : still (writeEvcCell cl m v s) = still s :=
    still_of_kept (kept_writeEvcCell cl m v s)
@[simp] theorem kept_pendSet (rk cl : Nat) (hi : Bool) (v : Word) (s : State) : kept (pendSet rk cl hi v s) = kept s
    := by
  unfold pendSet; simp
@[simp] theorem still_pendSet (rk cl : Nat) (hi : Bool) (v : Word) (s : State) : still (pendSet rk cl hi v s) = still
    s := still_of_kept (kept_pendSet rk cl hi v s)
@[simp] theorem kept_pendClr (rk cl : Nat) (hi : Bool) (v : Word) (s : State) : kept (pendClr rk cl hi v s) = kept s
    := by
  unfold pendClr; simp
@[simp] theorem still_pendClr (rk cl : Nat) (hi : Bool) (v : Word) (s : State) : still (pendClr rk cl hi v s) = still
    s := still_of_kept (kept_pendClr rk cl hi v s)
@[simp] theorem kept_maskPut (rk cl : Nat) (hi : Bool) (l : List Nat) (v : Word) (s : State) : kept (maskPut rk cl hi
    l v s) = kept s := by
  unfold maskPut; simp
@[simp] theorem still_maskPut (rk cl : Nat) (hi : Bool) (l : List Nat) (v : Word) (s : State) : still (maskPut rk cl
    hi l v s) = still s := still_of_kept (kept_maskPut rk cl hi l v s)
@[simp] theorem kept_maskSet (rk cl : Nat) (hi : Bool) (v : Word) (s : State) : kept (maskSet rk cl hi v s) = kept s
    := by
  unfold maskSet; simp
@[simp] theorem still_maskSet (rk cl : Nat) (hi : Bool) (v : Word) (s : State) : still (maskSet rk cl hi v s) = still
    s := still_of_kept (kept_maskSet rk cl hi v s)
@[simp] theorem kept_maskClr (rk cl : Nat) (hi : Bool) (v : Word) (s : State) : kept (maskClr rk cl hi v s) = kept s
    := by
  unfold maskClr; simp
@[simp] theorem still_maskClr (rk cl : Nat) (hi : Bool) (v : Word) (s : State) : still (maskClr rk cl hi v s) = still
    s := still_of_kept (kept_maskClr rk cl hi v s)
@[simp] theorem kept_incoming (cl m : Nat) (s : State) : kept (incoming cl m s) = kept s := by
  unfold incoming
  generalize (cellOf cl m s).running = o
  cases o with
  | none => rfl
  | some r =>
    dsimp only
    split
    · rfl
    · exact (kept_onFetch ..).trans (kept_countFetch ..)
@[simp] theorem still_incoming (cl m : Nat) (s : State) : still (incoming cl m s) = still s := still_of_kept
    (kept_incoming cl m s)
@[simp] theorem kept_timedOut (cl m c : Nat) (o : Option Nat) (s : State) : kept (timedOut cl m c o s) = kept s := by
  unfold timedOut; dsimp only; repeat' (first | (simp; done) | (refine (kept_foldl _ _ _ (fun s x => ?_)).trans ?_) | split | simp)
@[simp] theorem still_timedOut (cl m c : Nat) (o : Option Nat) (s : State) : still (timedOut cl m c o s) = still s :=
    still_of_kept (kept_timedOut cl m c o s)
@[simp] theorem kept_timeOut (cl m c : Nat) (s : State) : kept (timeOut cl m c s) = kept s := by
  unfold timeOut; simp
@[simp] theorem still_timeOut (cl m c : Nat) (s : State) : still (timeOut cl m c s) = still s := still_of_kept
    (kept_timeOut cl m c s)
@[simp] theorem kept_waitCycle (cl m c : Nat) (s : State) : kept (waitCycle cl m c s) = kept s := by
  unfold waitCycle; simp
@[simp] theorem still_waitCycle (cl m c : Nat) (s : State) : still (waitCycle cl m c s) = still s := still_of_kept
    (kept_waitCycle cl m c s)
@[simp] theorem kept_waitsCore (s : State) : kept (waitsCore s) = kept s := by
  unfold waitsCore; simp
@[simp] theorem still_waitsCore (s : State) : still (waitsCore s) = still s := still_of_kept (kept_waitsCore s)
@[simp] theorem kept_stallsCore (s : State) : kept (stallsCore s) = kept s := by
  unfold stallsCore; simp
@[simp] theorem still_stallsCore (s : State) : still (stallsCore s) = still s := still_of_kept (kept_stallsCore s)
@[simp] theorem kept_suspend (cl m c e : Nat) (tmo : Bool) (s : State) : kept (suspend cl m c e tmo s) = kept s := by
  unfold suspend; simp
@[simp] theorem still_suspend (cl m c e : Nat) (tmo : Bool) (s : State) : still (suspend cl m c e tmo s) = still s :=
    still_of_kept (kept_suspend cl m c e tmo s)
@[simp] theorem kept_waitServed (cl m c e : Nat) (tmo : Bool) (src : Option Nat) (s : State) : kept (waitServed cl m
    c e tmo src s) = kept s := by
  unfold waitServed; try lift_lets
  repeat' (first | (intro x; first | (have hx : kept x = kept s := (by simp only [x]; repeat' (first | rfl | assumption | (simp [*]; done) | (refine (kept_foldl _ _ _ (fun s x => ?_)).trans ?_) | split)); clear_value x) | clear_value x) | (first | rfl | assumption | (simp [*]; done) | (refine (kept_foldl _ _ _ (fun s x => ?_)).trans ?_) | split) | lift_lets)
@[simp] theorem still_waitServed (cl m c e : Nat) (tmo : Bool) (src : Option Nat) (s : State) : still (waitServed cl
    m c e tmo src s) = still s := still_of_kept (kept_waitServed cl m c e tmo src s)
@[simp] theorem kept_waitOn (cl m c e : Nat) (tmo : Bool) (s : State) : kept (waitOn cl m c e tmo s) = kept s := by
  unfold waitOn; rw [kept_waitServed, kept_endService, kept_onCtx]
@[simp] theorem still_waitOn (cl m c e : Nat) (tmo : Bool) (s : State) : still (waitOn cl m c e tmo s) = still s :=
    still_of_kept (kept_waitOn cl m c e tmo s)
@[simp] theorem kept_trapAction (cl m h : Nat) (s : State) : kept (trapAction cl m h s) = kept s := by
  unfold trapAction
  dsimp only
  split
  · exact kept_onCtx ..
  · exact kept_startCtx ..
  · exact kept_stopCtx ..
@[simp] theorem still_trapAction (cl m h : Nat) (s : State) : still (trapAction cl m h s) = still s := still_of_kept
    (kept_trapAction cl m h s)

/-! ### Ports -/

@[simp] theorem kept_putPair (cl k : Nat) (x : PairCh) (s : State) : kept (putPair cl k x s) = kept s := by
  unfold putPair; simp
@[simp] theorem still_putPair (cl k : Nat) (x : PairCh) (s : State) : still (putPair cl k x s) = still s :=
    still_of_kept (kept_putPair cl k x s)
@[simp] theorem kept_pairToward (cl k : Nat) (v : Word) (p : Nat) (s : State) : kept (pairToward cl k v p s) = kept s
    := by
  unfold pairToward; simp
@[simp] theorem still_pairToward (cl k : Nat) (v : Word) (p : Nat) (s : State) : still (pairToward cl k v p s) =
    still s := still_of_kept (kept_pairToward cl k v p s)
@[simp] theorem kept_pairSendValue (cl k : Nat) (v : Word) (s : State) : kept (pairSendValue cl k v s) = kept s := by
  unfold pairSendValue; simp
@[simp] theorem still_pairSendValue (cl k : Nat) (v : Word) (s : State) : still (pairSendValue cl k v s) = still s :=
    still_of_kept (kept_pairSendValue cl k v s)
@[simp] theorem kept_pairOutHigh (w : Writer) (cl k : Nat) (v : Half) (s : State) : kept (pairOutHigh w cl k v s) =
    kept s := by
  unfold pairOutHigh; simp
@[simp] theorem still_pairOutHigh (w : Writer) (cl k : Nat) (v : Half) (s : State) : still (pairOutHigh w cl k v s) =
    still s := still_of_kept (kept_pairOutHigh w cl k v s)
@[simp] theorem kept_pairLand (cl k : Nat) (from1 : Bool) (v : Word) (s : State) : kept (pairLand cl k from1 v s) =
    kept s := by
  unfold pairLand; simp
@[simp] theorem still_pairLand (cl k : Nat) (from1 : Bool) (v : Word) (s : State) : still (pairLand cl k from1 v s) =
    still s := still_of_kept (kept_pairLand cl k from1 v s)
@[simp] theorem kept_pairInLow (w : Writer) (cl k : Nat) (in1 : Bool) (s : State) : kept (pairInLow w cl k in1 s).2 =
    kept s := by
  unfold pairInLow; simp
@[simp] theorem still_pairInLow (w : Writer) (cl k : Nat) (in1 : Bool) (s : State) : still (pairInLow w cl k in1 s).2
    = still s := still_of_kept (kept_pairInLow w cl k in1 s)
@[simp] theorem kept_pairClear (cl k : Nat) (in1 : Bool) (s : State) : kept (pairClear cl k in1 s) = kept s := by
  unfold pairClear; simp
@[simp] theorem still_pairClear (cl k : Nat) (in1 : Bool) (s : State) : still (pairClear cl k in1 s) = still s :=
    still_of_kept (kept_pairClear cl k in1 s)
@[simp] theorem kept_pairInHigh (w : Writer) (cl k : Nat) (in1 : Bool) (s : State) : kept (pairInHigh w cl k in1 s).2
    = kept s := by
  unfold pairInHigh; simp
@[simp] theorem still_pairInHigh (w : Writer) (cl k : Nat) (in1 : Bool) (s : State) : still (pairInHigh w cl k in1
    s).2 = still s := still_of_kept (kept_pairInHigh w cl k in1 s)
@[simp] theorem kept_pairRep (v : Word) (s : State) : kept (pairRep v s) = kept s := by
  unfold pairRep; simp
@[simp] theorem still_pairRep (v : Word) (s : State) : still (pairRep v s) = still s := still_of_kept (kept_pairRep v
    s)
@[simp] theorem kept_pairRepWord (cl k : Nat) (v : Half) (s : State) : kept (pairRepWord cl k v s) = kept s := by
  unfold pairRepWord; simp
@[simp] theorem still_pairRepWord (cl k : Nat) (v : Half) (s : State) : still (pairRepWord cl k v s) = still s :=
    still_of_kept (kept_pairRepWord cl k v s)
@[simp] theorem kept_pairStatWrite (cl k : Nat) (v : Half) (s : State) : kept (pairStatWrite cl k v s) = kept s := by
  unfold pairStatWrite; simp
@[simp] theorem still_pairStatWrite (cl k : Nat) (v : Half) (s : State) : still (pairStatWrite cl k v s) = still s :=
    still_of_kept (kept_pairStatWrite cl k v s)
@[simp] theorem kept_postCell (w : Writer) (cl : Nat) (v : Word) (s : State) : kept (postCell w cl v s) = kept s := by
  unfold postCell; simp
@[simp] theorem still_postCell (w : Writer) (cl : Nat) (v : Word) (s : State) : still (postCell w cl v s) = still s
    := still_of_kept (kept_postCell w cl v s)
@[simp] theorem kept_postTrace (w : Writer) (cl : Nat) (v : Word) (s : State) : kept (postTrace w cl v s) = kept s :=
    by
  unfold postTrace; dsimp only; repeat' (first | (simp; done) | (refine (kept_foldl _ _ _ (fun s x => ?_)).trans ?_) | split | simp)
@[simp] theorem still_postTrace (w : Writer) (cl : Nat) (v : Word) (s : State) : still (postTrace w cl v s) = still s
    := still_of_kept (kept_postTrace w cl v s)
@[simp] theorem kept_wdRestart (s : State) : kept (wdRestart s) = kept s := by
  unfold wdRestart; simp
@[simp] theorem still_wdRestart (s : State) : still (wdRestart s) = still s := still_of_kept (kept_wdRestart s)
@[simp] theorem kept_retrainLink (s : State) : kept (retrainLink s) = kept s := by
  unfold retrainLink; simp
@[simp] theorem still_retrainLink (s : State) : still (retrainLink s) = still s := still_of_kept (kept_retrainLink s)
@[simp] theorem kept_putDma (cl : Nat) (x : DmaEng) (s : State) : kept (putDma cl x s) = kept s := by
  unfold putDma; simp
@[simp] theorem still_putDma (cl : Nat) (x : DmaEng) (s : State) : still (putDma cl x s) = still s := still_of_kept
    (kept_putDma cl x s)
@[simp] theorem kept_dmaRelease (cl k : Nat) (s : State) : kept (dmaRelease cl k s) = kept s := by
  unfold dmaRelease; simp
@[simp] theorem still_dmaRelease (cl k : Nat) (s : State) : still (dmaRelease cl k s) = still s := still_of_kept
    (kept_dmaRelease cl k s)
@[simp] theorem kept_dmaForget (cl k : Nat) (s : State) : kept (dmaForget cl k s) = kept s := by
  unfold dmaForget; simp
@[simp] theorem still_dmaForget (cl k : Nat) (s : State) : still (dmaForget cl k s) = still s := still_of_kept
    (kept_dmaForget cl k s)
@[simp] theorem kept_dmaEnd (cl k i : Nat) (s : State) : kept (dmaEnd cl k i s) = kept s := by
  unfold dmaEnd; simp
@[simp] theorem still_dmaEnd (cl k i : Nat) (s : State) : still (dmaEnd cl k i s) = still s := still_of_kept
    (kept_dmaEnd cl k i s)
@[simp] theorem kept_dmaErr (cl k code : Nat) (s : State) : kept (dmaErr cl k code s) = kept s := by
  unfold dmaErr; simp
@[simp] theorem still_dmaErr (cl k code : Nat) (s : State) : still (dmaErr cl k code s) = still s := still_of_kept
    (kept_dmaErr cl k code s)
@[simp] theorem kept_dmaBegin (cl k : Nat) (s : State) : kept (dmaBegin cl k s) = kept s := by
  unfold dmaBegin; simp
@[simp] theorem still_dmaBegin (cl k : Nat) (s : State) : still (dmaBegin cl k s) = still s := still_of_kept
    (kept_dmaBegin cl k s)
@[simp] theorem kept_dmaHalt (cl k : Nat) (s : State) : kept (dmaHalt cl k s) = kept s := by
  unfold dmaHalt; simp
@[simp] theorem still_dmaHalt (cl k : Nat) (s : State) : still (dmaHalt cl k s) = still s := still_of_kept
    (kept_dmaHalt cl k s)
@[simp] theorem kept_dmaCtlWrite (cl k : Nat) (v : Word) (s : State) : kept (dmaCtlWrite cl k v s) = kept s := by
  unfold dmaCtlWrite; simp
@[simp] theorem still_dmaCtlWrite (cl k : Nat) (v : Word) (s : State) : still (dmaCtlWrite cl k v s) = still s :=
    still_of_kept (kept_dmaCtlWrite cl k v s)
@[simp] theorem kept_dmaParamWrite (cl k a : Nat) (v : Word) (s : State) : kept (dmaParamWrite cl k a v s) = kept s
    := by
  unfold dmaParamWrite; simp
@[simp] theorem still_dmaParamWrite (cl k a : Nat) (v : Word) (s : State) : still (dmaParamWrite cl k a v s) = still
    s := still_of_kept (kept_dmaParamWrite cl k a v s)

/-! ### RegRead -/

@[simp] theorem kept_clearRc (a : Nat) (m : Word) (s : State) : kept (clearRc a m s) = kept s := by
  unfold clearRc; try lift_lets
  repeat' (first | (intro x; first | (have hx : kept x = kept s := (by simp only [x]; repeat' (first | rfl | assumption | (simp [*]; done) | (refine (kept_foldl _ _ _ (fun s x => ?_)).trans ?_) | split)); clear_value x) | clear_value x) | (first | rfl | assumption | (simp [*]; done) | (refine (kept_foldl _ _ _ (fun s x => ?_)).trans ?_) | split) | lift_lets)
@[simp] theorem still_clearRc (a : Nat) (m : Word) (s : State) : still (clearRc a m s) = still s := still_of_kept
    (kept_clearRc a m s)
@[simp] theorem kept_readTable (a : Nat) (s : State) : kept (readTable a s) = kept s := by
  unfold readTable; simp
@[simp] theorem still_readTable (a : Nat) (s : State) : still (readTable a s) = still s := still_of_kept
    (kept_readTable a s)
@[simp] theorem kept_readAt (w : Writer) (k a : Nat) (s : State) : kept (readAt w k a s).2 = kept s := by
  unfold readAt; dsimp only; repeat' (first | (simp; done) | (refine (kept_foldl _ _ _ (fun s x => ?_)).trans ?_) | split | simp)
@[simp] theorem still_readAt (w : Writer) (k a : Nat) (s : State) : still (readAt w k a s).2 = still s :=
    still_of_kept (kept_readAt w k a s)
@[simp] theorem kept_readMany (w : Writer) (l : List Nat) (s : State) : kept (readMany w l s).2 = kept s := by
  induction l generalizing s with
  | nil => rfl
  | cons b r ih => unfold readMany; dsimp only; rw [ih, kept_readAt]
@[simp] theorem still_readMany (w : Writer) (l : List Nat) (s : State) : still (readMany w l s).2 = still s :=
    still_of_kept (kept_readMany w l s)
@[simp] theorem kept_latchMany (w : Writer) (a : Nat) (l : List Nat) (s : State) : kept (latchMany w a l s) = kept s
    := by
  unfold latchMany; simp
@[simp] theorem still_latchMany (w : Writer) (a : Nat) (l : List Nat) (s : State) : still (latchMany w a l s) = still
    s := still_of_kept (kept_latchMany w a l s)
@[simp] theorem kept_readOver (w : Writer) (a : Nat) (l : List Nat) (s : State) : kept (readOver w a l s).2 = kept s
    := by
  unfold readOver; try lift_lets
  repeat' (first | (intro x; first | (have hx : kept x = kept s := (by simp only [x]; repeat' (first | rfl | assumption | (simp [*]; done) | (refine (kept_foldl _ _ _ (fun s x => ?_)).trans ?_) | split)); clear_value x) | clear_value x) | (first | rfl | assumption | (simp [*]; done) | (refine (kept_foldl _ _ _ (fun s x => ?_)).trans ?_) | split) | lift_lets)
@[simp] theorem still_readOver (w : Writer) (a : Nat) (l : List Nat) (s : State) : still (readOver w a l s).2 = still
    s := still_of_kept (kept_readOver w a l s)
@[simp] theorem kept_readReg (w : Writer) (a : Nat) (s : State) : kept (readReg w a s).2 = kept s := by
  unfold readReg; simp
@[simp] theorem still_readReg (w : Writer) (a : Nat) (s : State) : still (readReg w a s).2 = still s := still_of_kept
    (kept_readReg w a s)

/-! ### WaveCmds -/

@[simp] theorem kept_waveWrite (a : Nat) (v : Word) (s : State) : kept (waveWrite a v s) = kept s := by
  unfold waveWrite; simp
@[simp] theorem still_waveWrite (a : Nat) (v : Word) (s : State) : still (waveWrite a v s) = still s := still_of_kept
    (kept_waveWrite a v s)
@[simp] theorem kept_sampleVoices (t : Nat) (s : State) : kept (sampleVoices t s) = kept s := by
  unfold sampleVoices; simp
@[simp] theorem still_sampleVoices (t : Nat) (s : State) : still (sampleVoices t s) = still s := still_of_kept
    (kept_sampleVoices t s)
@[simp] theorem kept_stepGain (c : Nat) (s : State) : kept (stepGain c s) = kept s := by
  unfold stepGain; simp
@[simp] theorem still_stepGain (c : Nat) (s : State) : still (stepGain c s) = still s := still_of_kept (kept_stepGain
    c s)
@[simp] theorem kept_sampleOut (c t : Nat) (s : State) : kept (sampleOut c t s).1 = kept s := by
  unfold sampleOut; simp
@[simp] theorem still_sampleOut (c t : Nat) (s : State) : still (sampleOut c t s).1 = still s := still_of_kept
    (kept_sampleOut c t s)
@[simp] theorem still_vote (c : Nat) (s : State) : still (vote c s) = still s := by
  unfold vote; simp
@[simp] theorem kept_sendSample (ys : List Int) (t : Nat) (s : State) : kept (sendSample ys t s) = kept s := by
  unfold sendSample; simp
@[simp] theorem still_sendSample (ys : List Int) (t : Nat) (s : State) : still (sendSample ys t s) = still s :=
    still_of_kept (kept_sendSample ys t s)
@[simp] theorem kept_ilasStart (s : State) : kept (ilasStart s) = kept s := by
  unfold ilasStart; simp
@[simp] theorem still_ilasStart (s : State) : still (ilasStart s) = still s := still_of_kept (kept_ilasStart s)
@[simp] theorem kept_linkSample (ys : List Int) (t : Nat) (s : State) : kept (linkSample ys t s) = kept s := by
  unfold linkSample; dsimp only; repeat' (first | (simp; done) | (refine (kept_foldl _ _ _ (fun s x => ?_)).trans ?_) | split | simp)
@[simp] theorem still_linkSample (ys : List Int) (t : Nat) (s : State) : still (linkSample ys t s) = still s :=
    still_of_kept (kept_linkSample ys t s)
@[simp] theorem kept_writeGain (c : Nat) (v : Word) (s : State) : kept (writeGain c v s) = kept s := by
  unfold writeGain; simp
@[simp] theorem still_writeGain (c : Nat) (v : Word) (s : State) : still (writeGain c v s) = still s := still_of_kept
    (kept_writeGain c v s)
@[simp] theorem kept_writeFactor (x : Nat) (v : Word) (s : State) : kept (writeFactor x v s) = kept s := by
  unfold writeFactor; simp
@[simp] theorem still_writeFactor (x : Nat) (v : Word) (s : State) : still (writeFactor x v s) = still s :=
    still_of_kept (kept_writeFactor x v s)
@[simp] theorem kept_requestRealign (s : State) : kept (requestRealign s) = kept s := by
  unfold requestRealign; simp
@[simp] theorem still_requestRealign (s : State) : still (requestRealign s) = still s := still_of_kept
    (kept_requestRealign s)

/-! ### RegWrite -/

@[simp] theorem still_writeTil (o a : Nat) (v : Word) (s : State) : still (writeTil o a v s) = still s := by
  unfold writeTil; simp
@[simp] theorem still_writePosCtl (v : Word) (s : State) : still (writePosCtl v s) = still s := by
  unfold writePosCtl; simp
@[simp] theorem still_writePos (o a : Nat) (v : Word) (s : State) : still (writePos o a v s) = still s := by
  unfold writePos; dsimp only; repeat' (first | (simp; done) | (refine (still_foldl _ _ _ (fun s x => ?_)).trans ?_) | split | simp)
@[simp] theorem kept_writeCmp (o a : Nat) (v : Word) (s : State) : kept (writeCmp o a v s) = kept s := by
  unfold writeCmp; simp
@[simp] theorem still_writeCmp (o a : Nat) (v : Word) (s : State) : still (writeCmp o a v s) = still s :=
    still_of_kept (kept_writeCmp o a v s)
@[simp] theorem kept_writeNzl (o a : Nat) (v : Word) (s : State) : kept (writeNzl o a v s) = kept s := by
  unfold writeNzl; simp
@[simp] theorem still_writeNzl (o a : Nat) (v : Word) (s : State) : still (writeNzl o a v s) = still s :=
    still_of_kept (kept_writeNzl o a v s)
@[simp] theorem kept_writeBud (v : Word) (s : State) : kept (writeBud v s) = kept s := by
  unfold writeBud; simp
@[simp] theorem still_writeBud (v : Word) (s : State) : still (writeBud v s) = still s := still_of_kept
    (kept_writeBud v s)
@[simp] theorem kept_writeHlk (o a : Nat) (v : Word) (s : State) : kept (writeHlk o a v s) = kept s := by
  unfold writeHlk; try lift_lets
  repeat' (first | (intro x; first | (have hx : kept x = kept s := (by simp only [x]; repeat' (first | rfl | assumption | (simp [*]; done) | (refine (kept_foldl _ _ _ (fun s x => ?_)).trans ?_) | split)); clear_value x) | clear_value x) | (first | rfl | assumption | (simp [*]; done) | (refine (kept_foldl _ _ _ (fun s x => ?_)).trans ?_) | split) | lift_lets)
@[simp] theorem still_writeHlk (o a : Nat) (v : Word) (s : State) : still (writeHlk o a v s) = still s :=
    still_of_kept (kept_writeHlk o a v s)
@[simp] theorem kept_writeWav (o a : Nat) (v : Word) (s : State) : kept (writeWav o a v s) = kept s := by
  unfold writeWav; try lift_lets
  repeat' (first | (intro x; first | (have hx : kept x = kept s := (by simp only [x]; repeat' (first | rfl | assumption | (simp [*]; done) | (refine (kept_foldl _ _ _ (fun s x => ?_)).trans ?_) | split)); clear_value x) | clear_value x) | (first | rfl | assumption | (simp [*]; done) | (refine (kept_foldl _ _ _ (fun s x => ?_)).trans ?_) | split) | lift_lets)
@[simp] theorem still_writeWav (o a : Nat) (v : Word) (s : State) : still (writeWav o a v s) = still s :=
    still_of_kept (kept_writeWav o a v s)
@[simp] theorem kept_writeSynCtl (v : Word) (s : State) : kept (writeSynCtl v s) = kept s := by
  unfold writeSynCtl; simp
@[simp] theorem still_writeSynCtl (v : Word) (s : State) : still (writeSynCtl v s) = still s := still_of_kept
    (kept_writeSynCtl v s)
@[simp] theorem still_writeTile (o a : Nat) (v : Word) (s : State) : still (writeTile o a v s) = still s := by
  unfold writeTile; try lift_lets
  repeat' (first | (intro x; first | (have hx : still x = still s := (by simp only [x]; repeat' (first | rfl | assumption | (simp [*]; done) | (refine (still_foldl _ _ _ (fun s x => ?_)).trans ?_) | split)); clear_value x) | clear_value x) | (first | rfl | assumption | (simp [*]; done) | (refine (still_foldl _ _ _ (fun s x => ?_)).trans ?_) | split) | lift_lets)
@[simp] theorem kept_writeEvc (rk cl o a : Nat) (v : Word) (s : State) : kept (writeEvc rk cl o a v s) = kept s := by
  unfold writeEvc; simp
@[simp] theorem still_writeEvc (rk cl o a : Nat) (v : Word) (s : State) : still (writeEvc rk cl o a v s) = still s :=
    still_of_kept (kept_writeEvc rk cl o a v s)
@[simp] theorem kept_writeTmr (cl o a : Nat) (v : Word) (s : State) : kept (writeTmr cl o a v s) = kept s := by
  unfold writeTmr; try lift_lets
  repeat' (first | (intro x; first | (have hx : kept x = kept s := (by simp only [x]; repeat' (first | rfl | assumption | (simp [*]; done) | (refine (kept_foldl _ _ _ (fun s x => ?_)).trans ?_) | split)); clear_value x) | clear_value x) | (first | rfl | assumption | (simp [*]; done) | (refine (kept_foldl _ _ _ (fun s x => ?_)).trans ?_) | split) | lift_lets)
@[simp] theorem still_writeTmr (cl o a : Nat) (v : Word) (s : State) : still (writeTmr cl o a v s) = still s :=
    still_of_kept (kept_writeTmr cl o a v s)
@[simp] theorem kept_writeRatio (w : Writer) (cl : Nat) (v : Word) (s : State) : kept (writeRatio w cl v s) = kept s
    := by
  unfold writeRatio; simp
@[simp] theorem still_writeRatio (w : Writer) (cl : Nat) (v : Word) (s : State) : still (writeRatio w cl v s) = still
    s := still_of_kept (kept_writeRatio w cl v s)
@[simp] theorem kept_writeCluster (w : Writer) (cl o a : Nat) (v : Word) (s : State) : kept (writeCluster w cl o a v
    s) = kept s := by
  unfold writeCluster; try lift_lets
  repeat' (first | (intro x; first | (have hx : kept x = kept s := (by simp only [x]; repeat' (first | rfl | assumption | (simp [*]; done) | (refine (kept_foldl _ _ _ (fun s x => ?_)).trans ?_) | split)); clear_value x) | clear_value x) | (first | rfl | assumption | (simp [*]; done) | (refine (kept_foldl _ _ _ (fun s x => ?_)).trans ?_) | split) | lift_lets)
@[simp] theorem still_writeCluster (w : Writer) (cl o a : Nat) (v : Word) (s : State) : still (writeCluster w cl o a
    v s) = still s := still_of_kept (kept_writeCluster w cl o a v s)
@[simp] theorem still_writeOne (w : Writer) (a : Nat) (v : Word) (s : State) : still (writeOne w a v s) = still s :=
    by
  unfold writeOne; simp
@[simp] theorem kept_commitCouple (h : Nat) (l : Option Nat) (v : Word) (s : State) : kept (commitCouple h l v s) =
    kept s := by
  unfold commitCouple; dsimp only; repeat' (first | (simp; done) | (refine (kept_foldl _ _ _ (fun s x => ?_)).trans ?_) | split | simp)
@[simp] theorem still_commitCouple (h : Nat) (l : Option Nat) (v : Word) (s : State) : still (commitCouple h l v s) =
    still s := still_of_kept (kept_commitCouple h l v s)
@[simp] theorem still_writeReg (w : Writer) (a : Nat) (v : Word) (s : State) : still (writeReg w a v s).s = still s
    := by
  unfold writeReg; dsimp only; repeat' (first | (simp; done) | (refine (still_foldl _ _ _ (fun s x => ?_)).trans ?_) | split | simp)
@[simp] theorem kept_writeBoth (a : Nat) (lo hi : Word) (s : State) : kept (writeBoth a lo hi s).s = kept s := by
  unfold writeBoth; try lift_lets
  repeat' (first | (intro x; first | (have hx : kept x = kept s := (by simp only [x]; repeat' (first | rfl | assumption | (simp [*]; done) | (refine (kept_foldl _ _ _ (fun s x => ?_)).trans ?_) | split)); clear_value x) | clear_value x) | (first | rfl | assumption | (simp [*]; done) | (refine (kept_foldl _ _ _ (fun s x => ?_)).trans ?_) | split) | lift_lets)
@[simp] theorem still_writeBoth (a : Nat) (lo hi : Word) (s : State) : still (writeBoth a lo hi s).s = still s :=
    still_of_kept (kept_writeBoth a lo hi s)

/-! ### IoPage -/

@[simp] theorem kept_cxRead (cl m : Fin 16) (c : Fin 8) (w : Nat) (s : State) : kept (cxRead cl m c w s).2 = kept s
    := by
  unfold cxRead; try lift_lets
  repeat' (first | (intro x; first | (have hx : kept x = kept s := (by simp only [x]; repeat' (first | rfl | assumption | (simp [*]; done) | (refine (kept_foldl _ _ _ (fun s x => ?_)).trans ?_) | split)); clear_value x) | clear_value x) | (first | rfl | assumption | (simp [*]; done) | (refine (kept_foldl _ _ _ (fun s x => ?_)).trans ?_) | split) | lift_lets)
@[simp] theorem still_cxRead (cl m : Fin 16) (c : Fin 8) (w : Nat) (s : State) : still (cxRead cl m c w s).2 = still
    s := still_of_kept (kept_cxRead cl m c w s)
@[simp] theorem kept_setWrite (cl m c w : Nat) (v : Half) (s : State) : kept (setWrite cl m c w v s) = kept s := by
  unfold setWrite; simp
@[simp] theorem still_setWrite (cl m c w : Nat) (v : Half) (s : State) : still (setWrite cl m c w v s) = still s :=
    still_of_kept (kept_setWrite cl m c w v s)
@[simp] theorem kept_winWrite (cl m c : Nat) (l : Option Nat) (v : Half) (s : State) : kept (winWrite cl m c l v s) =
    kept s := by
  unfold winWrite; simp
@[simp] theorem still_winWrite (cl m c : Nat) (l : Option Nat) (v : Half) (s : State) : still (winWrite cl m c l v s)
    = still s := still_of_kept (kept_winWrite cl m c l v s)
@[simp] theorem kept_cxWrite (cl m : Fin 16) (c : Fin 8) (w : Nat) (v : Half) (s : State) : kept (cxWrite cl m c w v
    s) = kept s := by
  unfold cxWrite; dsimp only; repeat' (first | (simp; done) | (refine (kept_foldl _ _ _ (fun s x => ?_)).trans ?_) | split | simp)
@[simp] theorem still_cxWrite (cl m : Fin 16) (c : Fin 8) (w : Nat) (v : Half) (s : State) : still (cxWrite cl m c w
    v s) = still s := still_of_kept (kept_cxWrite cl m c w v s)
@[simp] theorem kept_ioReadLow (w : Writer) (cl a : Nat) (s : State) : kept (ioReadLow w cl a s).2 = kept s := by
  unfold ioReadLow; dsimp only; repeat' (first | (simp; done) | (refine (kept_foldl _ _ _ (fun s x => ?_)).trans ?_) | split | simp)
@[simp] theorem still_ioReadLow (w : Writer) (cl a : Nat) (s : State) : still (ioReadLow w cl a s).2 = still s :=
    still_of_kept (kept_ioReadLow w cl a s)
@[simp] theorem kept_ioReadHigh (w : Writer) (cl a : Nat) (s : State) : kept (ioReadHigh w cl a s).2 = kept s := by
  unfold ioReadHigh; dsimp only; repeat' (first | (simp; done) | (refine (kept_foldl _ _ _ (fun s x => ?_)).trans ?_) | split | simp)
@[simp] theorem still_ioReadHigh (w : Writer) (cl a : Nat) (s : State) : still (ioReadHigh w cl a s).2 = still s :=
    still_of_kept (kept_ioReadHigh w cl a s)
@[simp] theorem still_ioWriteHigh (w : Writer) (a : Nat) (v : Half) (s : State) : still (ioWriteHigh w a v s).s =
    still s := by
  unfold ioWriteHigh; simp
@[simp] theorem kept_ioRead (cl m : Fin 16) (c : Fin 8) (w : Nat) (s : State) : kept (ioRead cl m c w s).2 = kept s
    := by
  unfold ioRead; try lift_lets
  repeat' (first | (intro x; first | (have hx : kept x = kept s := (by simp only [x]; repeat' (first | rfl | assumption | (simp [*]; done) | (refine (kept_foldl _ _ _ (fun s x => ?_)).trans ?_) | split)); clear_value x) | clear_value x) | (first | rfl | assumption | (simp [*]; done) | (refine (kept_foldl _ _ _ (fun s x => ?_)).trans ?_) | split) | lift_lets)
@[simp] theorem still_ioRead (cl m : Fin 16) (c : Fin 8) (w : Nat) (s : State) : still (ioRead cl m c w s).2 = still
    s := still_of_kept (kept_ioRead cl m c w s)
@[simp] theorem still_ioWrite (cl m : Fin 16) (c : Fin 8) (w : Nat) (v : Half) (s : State) : still (ioWrite cl m c w
    v s).s = still s := by
  unfold ioWrite; try lift_lets
  repeat' (first | (intro x; first | (have hx : still x = still s := (by simp only [x]; repeat' (first | rfl | assumption | (simp [*]; done) | (refine (still_foldl _ _ _ (fun s x => ?_)).trans ?_) | split)); clear_value x) | clear_value x) | (first | rfl | assumption | (simp [*]; done) | (refine (still_foldl _ _ _ (fun s x => ?_)).trans ?_) | split) | lift_lets)
@[simp] theorem kept_ioRead2 (cl m : Fin 16) (c : Fin 8) (w : Nat) (s : State) : kept (ioRead2 cl m c w s).2 = kept s
    := by
  unfold ioRead2; try lift_lets
  repeat' (first | (intro x; first | (have hx : kept x = kept s := (by simp only [x]; repeat' (first | rfl | assumption | (simp [*]; done) | (refine (kept_foldl _ _ _ (fun s x => ?_)).trans ?_) | split)); clear_value x) | clear_value x) | (first | rfl | assumption | (simp [*]; done) | (refine (kept_foldl _ _ _ (fun s x => ?_)).trans ?_) | split) | lift_lets)
@[simp] theorem still_ioRead2 (cl m : Fin 16) (c : Fin 8) (w : Nat) (s : State) : still (ioRead2 cl m c w s).2 =
    still s := still_of_kept (kept_ioRead2 cl m c w s)
@[simp] theorem still_ioWrite2 (cl m : Fin 16) (c : Fin 8) (w : Nat) (lo hi : Half) (s : State) : still (ioWrite2 cl
    m c w lo hi s).s = still s := by
  unfold ioWrite2; dsimp only; repeat' (first | (simp; done) | (refine (still_foldl _ _ _ (fun s x => ?_)).trans ?_) | split | simp)

/-! ### Access -/

@[simp] theorem kept_ueRead (w : Nat) (s : State) : kept (ueRead w s) = kept s := by
  unfold ueRead; try lift_lets
  repeat' (first | (intro x; first | (have hx : kept x = kept s := (by simp only [x]; repeat' (first | rfl | assumption | (simp [*]; done) | (refine (kept_foldl _ _ _ (fun s x => ?_)).trans ?_) | split)); clear_value x) | clear_value x) | (first | rfl | assumption | (simp [*]; done) | (refine (kept_foldl _ _ _ (fun s x => ?_)).trans ?_) | split) | lift_lets)
@[simp] theorem still_ueRead (w : Nat) (s : State) : still (ueRead w s) = still s := still_of_kept (kept_ueRead w s)
@[simp] theorem kept_ceRead (w : Nat) (s : State) : kept (ceRead w s) = kept s := by
  unfold ceRead; (repeat' split) <;> simp
@[simp] theorem still_ceRead (w : Nat) (s : State) : still (ceRead w s) = still s := still_of_kept (kept_ceRead w s)
@[simp] theorem kept_readWordsAt (a n : Nat) (s : State) : kept (readWordsAt a n s).s = kept s := by
  unfold readWordsAt; simp
@[simp] theorem still_readWordsAt (a n : Nat) (s : State) : still (readWordsAt a n s).s = still s := still_of_kept
    (kept_readWordsAt a n s)
@[simp] theorem kept_readSpan (a n : Nat) (s : State) : kept (readSpan a n s).s = kept s := by
  unfold readSpan; try lift_lets
  repeat' (first | (intro x; first | (have hx : kept x = kept s := (by simp only [x]; repeat' (first | rfl | assumption | (simp [*]; done) | (refine (kept_foldl _ _ _ (fun s x => ?_)).trans ?_) | split)); clear_value x) | clear_value x) | (first | rfl | assumption | (simp [*]; done) | (refine (kept_foldl _ _ _ (fun s x => ?_)).trans ?_) | split) | lift_lets)
@[simp] theorem still_readSpan (a n : Nat) (s : State) : still (readSpan a n s).s = still s := still_of_kept
    (kept_readSpan a n s)
theorem kept_foldGot {α : Type} (f : Got → α → Got) (l : List α) (g : Got) (h : ∀ g x, kept (f g x).s = kept g.s) :
    kept (l.foldl f g).s = kept g.s := by
  induction l generalizing g with
  | nil => rfl
  | cons x r ih => rw [List.foldl_cons, ih, h]
theorem kept_foldFst {α β : Type} (f : State × β → α → State × β) (l : List α) (g : State × β) (h : ∀ g x, kept (f g
    x).1 = kept g.1) :
    kept (l.foldl f g).1 = kept g.1 := by
  induction l generalizing g with
  | nil => rfl
  | cons x r ih => rw [List.foldl_cons, ih, h]
@[simp] theorem kept_memRead (a n : Nat) (s : State) : kept (memRead a n s).s = kept s := by
  unfold memRead
  exact kept_foldGot _ _ _ (fun g p => kept_readSpan _ _ _)
@[simp] theorem still_memRead (a n : Nat) (s : State) : still (memRead a n s).s = still s := still_of_kept
    (kept_memRead a n s)
@[simp] theorem kept_writeSpan (a : Nat) (l : List Byte) (s : State) : kept (writeSpan a l s).1 = kept s := by
  unfold writeSpan; (repeat' split) <;> simp
@[simp] theorem still_writeSpan (a : Nat) (l : List Byte) (s : State) : still (writeSpan a l s).1 = still s :=
    still_of_kept (kept_writeSpan a l s)
@[simp] theorem kept_memWrite (a : Nat) (l : List Byte) (s : State) : kept (memWrite a l s).1 = kept s := by
  unfold memWrite
  exact kept_foldFst _ _ _ (fun g p => kept_writeSpan _ _ _)
@[simp] theorem still_memWrite (a : Nat) (l : List Byte) (s : State) : still (memWrite a l s).1 = still s :=
    still_of_kept (kept_memWrite a l s)
@[simp] theorem kept_fabRead (w : Writer) (a n : Nat) (s : State) : kept (fabRead w a n s).s = kept s := by
  unfold fabRead
  split
  · exact kept_readReg ..
  · exact kept_memRead ..
@[simp] theorem still_fabRead (w : Writer) (a n : Nat) (s : State) : still (fabRead w a n s).s = still s :=
    still_of_kept (kept_fabRead w a n s)
@[simp] theorem still_fabWrite (w : Writer) (a : Nat) (l : List Byte) (s : State) : still (fabWrite w a l s).s =
    still s := by
  unfold fabWrite
  split
  · exact still_writeReg ..
  · exact still_memWrite ..

/-! ### Dma -/

@[simp] theorem kept_unitBegin (cl k : Nat) (s : State) : kept (unitBegin cl k s) = kept s := by
  unfold unitBegin; simp
@[simp] theorem still_unitBegin (cl k : Nat) (s : State) : still (unitBegin cl k s) = still s := still_of_kept
    (kept_unitBegin cl k s)
theorem still_unitAccess (cl : Fin 16) (s : State) : still (unitAccess cl s).s = still s := by
  cases hx : (dmaOf cl s).unit with
  | none => simp [unitAccess, hx]
  | some k =>
    unfold unitAccess
    lift_lets
    intro x
    have hx' : x.unit = some k := hx
    clear_value x
    rw [hx']
    dsimp -zeta only
    lift_lets
    extract_lets ends remain at_ src dst len a d g data olds gs b t e u
    have hends : ∀ m t, still (ends m t) = still t := fun m t => still_putDma ..
    have hg : still g.s = still s := still_fabRead ..
    have hb : still b.s = still s := (still_fabWrite ..).trans hg
    have hu : still u = still s := (still_putDma ..).trans ((still_wr ..).trans hb)
    clear_value ends g b u
    split
    · exact (hends ..).trans hg
    · split
      · rfl
      · split
        · exact (hends ..).trans hb
        · dsimp only
          split
          · rw [hends, hu]
          · exact hu
theorem still_unitRest (cl : Fin 16) (n : Nat) (s : State) : still (unitRest cl n s).s = still s := by
  induction n generalizing s with
  | zero => rfl
  | succ n ih =>
    unfold unitRest
    split
    · dsimp only
      split
      · exact still_unitAccess ..
      · rw [ih, still_unitAccess]
    · rfl
@[simp] theorem still_dmaCycle (cl : Fin 16) (s : State) : still (dmaCycle cl s) = still s := by
  unfold dmaCycle
  split
  · dsimp only
    split
    · exact still_putDma ..
    · split
      · rfl
      · exact still_unitAccess ..
  · rfl
@[simp] theorem still_dmaCore (s : State) : still (dmaCore s) = still s := by
  unfold dmaCore
  split
  · exact still_foldl _ _ _ (fun s e => still_dmaCycle ..)
  · rfl

/-! ### Fabric -/

@[simp] theorem kept_fabricFault (i node port lane code : Nat) (s : State) : kept (fabricFault i node port lane code
    s) = kept s := by
  unfold fabricFault; simp
@[simp] theorem still_fabricFault (i node port lane code : Nat) (s : State) : still (fabricFault i node port lane
    code s) = still s := still_of_kept (kept_fabricFault i node port lane code s)
@[simp] theorem kept_crossbarFault (i node code : Nat) (s : State) : kept (crossbarFault i node code s) = kept s := by
  unfold crossbarFault; simp
@[simp] theorem still_crossbarFault (i node code : Nat) (s : State) : still (crossbarFault i node code s) = still s
    := still_of_kept (kept_crossbarFault i node code s)
@[simp] theorem still_noCrossbar (node : Nat) (s : State) : still (noCrossbar node s) = still s := by
  unfold noCrossbar; simp

/-! ### LevainAlu -/

@[simp] theorem kept_trapAfter (cl m c code : Nat) (s : State) : kept (trapAfter cl m c code s) = kept s := by
  unfold trapAfter; simp
@[simp] theorem still_trapAfter (cl m c code : Nat) (s : State) : still (trapAfter cl m c code s) = still s :=
    still_of_kept (kept_trapAfter cl m c code s)
@[simp] theorem kept_divide (cl m c : Nat) (f : Half → Half → Half → Half → Half × Half × Half) (s : State) : kept
    (divide cl m c f s) = kept s := by
  unfold divide; simp
@[simp] theorem still_divide (cl m c : Nat) (f : Half → Half → Half → Half → Half × Half × Half) (s : State) : still
    (divide cl m c f s) = still s := still_of_kept (kept_divide cl m c f s)
@[simp] theorem kept_branch (g : Guess) (cl m c : Nat) (h : Shape) (taken : Bool) (t : Int) (f : Ctx → Ctx) (s :
    State) : kept (branch g cl m c h taken t f s) = kept s := by
  unfold branch; simp
@[simp] theorem still_branch (g : Guess) (cl m c : Nat) (h : Shape) (taken : Bool) (t : Int) (f : Ctx → Ctx) (s :
    State) : still (branch g cl m c h taken t f s) = still s := still_of_kept (kept_branch g cl m c h taken t f s)

/-! ### LevainMem -/

@[simp] theorem kept_waitAtBank (cl m b : Nat) (s : State) : kept (waitAtBank cl m b s) = kept s := by
  unfold waitAtBank; simp
@[simp] theorem still_waitAtBank (cl m b : Nat) (s : State) : still (waitAtBank cl m b s) = still s := still_of_kept
    (kept_waitAtBank cl m b s)
theorem kept_gotLoad (a : Nat) (g : Got) : kept (gotLoad a g).2 = kept g.s := (rfl)
@[simp] theorem kept_windowLoad (cl m : Fin 16) (c : Fin 8) (a b n : Nat) (s : State) : kept (windowLoad cl m c a b n
    s).2 = kept s := by
  unfold windowLoad
  split
  · rw [kept_gotLoad, kept_fabRead, kept_waitAtBank]
  · rfl
@[simp] theorem still_windowLoad (cl m : Fin 16) (c : Fin 8) (a b n : Nat) (s : State) : still (windowLoad cl m c a b
    n s).2 = still s := still_of_kept (kept_windowLoad cl m c a b n s)
@[simp] theorem kept_loadOne (cl m : Fin 16) (c : Fin 8) (a n : Nat) (s : State) : kept (loadOne cl m c a n s).2 =
    kept s := by
  have h1 := kept_ioRead2 cl m c a s
  have h2 := kept_ioRead cl m c a s
  unfold loadOne
  generalize ioRead2 cl m c a s = r1 at h1 ⊢
  generalize ioRead cl m c a s = r2 at h2 ⊢
  split
  · split
    · exact h1
    · exact h2
  · split
    · exact kept_windowLoad ..
    · exact (kept_gotLoad ..).trans (kept_fabRead ..)
@[simp] theorem still_loadOne (cl m : Fin 16) (c : Fin 8) (a n : Nat) (s : State) : still (loadOne cl m c a n s).2 =
    still s := still_of_kept (kept_loadOne cl m c a n s)
@[simp] theorem kept_loadAll (cl m : Fin 16) (c : Fin 8) (l : List (Nat × Nat)) (hs : List Half) (s : State) :
    kept (loadAll cl m c l hs s).2 = kept s := by
  induction l generalizing hs s with
  | nil => rfl
  | cons x r ih =>
    unfold loadAll
    split
    · rename_i heq
      rw [ih]
      have := congrArg (fun z => kept z.2) heq
      dsimp only at this
      rw [← this, kept_loadOne]
    · rw [kept_loadOne]
@[simp] theorem still_loadAll (cl m : Fin 16) (c : Fin 8) (l : List (Nat × Nat)) (hs : List Half) (s : State) : still
    (loadAll cl m c l hs s).2 = still s := still_of_kept (kept_loadAll cl m c l hs s)
@[simp] theorem kept_load (cl m : Fin 16) (c : Fin 8) (a : Nat) (two : Bool) (s : State) : kept (load cl m c a two
    s).2 = kept s := by
  unfold load; try lift_lets
  repeat' (first | (intro x; first | (have hx : kept x = kept s := (by simp only [x]; repeat' (first | rfl | assumption | (simp [*]; done) | (refine (kept_foldl _ _ _ (fun s x => ?_)).trans ?_) | split)); clear_value x) | clear_value x) | (first | rfl | assumption | (simp [*]; done) | (refine (kept_foldl _ _ _ (fun s x => ?_)).trans ?_) | split) | lift_lets)
@[simp] theorem still_load (cl m : Fin 16) (c : Fin 8) (a : Nat) (two : Bool) (s : State) : still (load cl m c a two
    s).2 = still s := still_of_kept (kept_load cl m c a two s)
@[simp] theorem still_ioStore (cl m : Fin 16) (c : Fin 8) (a : Nat) (l : List Half) (b : Bus) : still (ioStore cl m c
    a l b).s = still b.s := by
  unfold ioStore; dsimp only; repeat' (first | (simp; done) | (refine (still_foldl _ _ _ (fun s x => ?_)).trans ?_) | split | simp)
@[simp] theorem still_storeWords (cl m : Fin 16) (c : Fin 8) (a : Nat) (two : Bool) (l : List Half) (s : State) :
    still (storeWords cl m c a two l s).s = still s := by
  unfold storeWords; try lift_lets
  repeat' (first | (intro x; first | (have hx : still x = still s := (by simp only [x]; repeat' (first | rfl | assumption | (simp [*]; done) | (refine (still_foldl _ _ _ (fun s x => ?_)).trans ?_) | split)); clear_value x) | clear_value x) | (first | rfl | assumption | (simp [*]; done) | (refine (still_foldl _ _ _ (fun s x => ?_)).trans ?_) | split) | lift_lets)
@[simp] theorem kept_elemTrap (cl m : Nat) (c code adr pc slot : Nat) (s : State) : kept (elemTrap cl m c code adr pc
    slot s) = kept s := by
  unfold elemTrap; simp
@[simp] theorem still_elemTrap (cl m : Nat) (c code adr pc slot : Nat) (s : State) : still (elemTrap cl m c code adr
    pc slot s) = still s := still_of_kept (kept_elemTrap cl m c code adr pc slot s)
@[simp] theorem kept_drainError (cl m c adr : Nat) (s : State) : kept (drainError cl m c adr s) = kept s := by
  unfold drainError; try lift_lets
  repeat' (first | (intro x; first | (have hx : kept x = kept s := (by simp only [x]; repeat' (first | rfl | assumption | (simp [*]; done) | (refine (kept_foldl _ _ _ (fun s x => ?_)).trans ?_) | split)); clear_value x) | clear_value x) | (first | rfl | assumption | (simp [*]; done) | (refine (kept_foldl _ _ _ (fun s x => ?_)).trans ?_) | split) | lift_lets)
@[simp] theorem still_drainError (cl m c adr : Nat) (s : State) : still (drainError cl m c adr s) = still s :=
    still_of_kept (kept_drainError cl m c adr s)

/-! ### DieLink -/

@[simp] theorem kept_dlkAlarm (i : Nat) (s : State) : kept (dlkAlarm i s) = kept s := by
  unfold dlkAlarm; simp
@[simp] theorem still_dlkAlarm (i : Nat) (s : State) : still (dlkAlarm i s) = still s := still_of_kept (kept_dlkAlarm
    i s)
@[simp] theorem kept_owe (c n : Nat) (s : State) : kept (owe c n s) = kept s := by
  unfold owe; simp
@[simp] theorem still_owe (c n : Nat) (s : State) : still (owe c n s) = still s := still_of_kept (kept_owe c n s)
@[simp] theorem kept_rejectIn (content : Bool) (s : State) : kept (rejectIn content s) = kept s := by
  unfold rejectIn; simp
@[simp] theorem still_rejectIn (content : Bool) (s : State) : still (rejectIn content s) = still s := still_of_kept
    (kept_rejectIn content s)
@[simp] theorem kept_pushRsp (p : Packet) (s : State) : kept (pushRsp p s) = kept s := by
  unfold pushRsp; simp
@[simp] theorem still_pushRsp (p : Packet) (s : State) : still (pushRsp p s) = still s := still_of_kept (kept_pushRsp
    p s)
@[simp] theorem kept_requestWords (w : Writer) (n a : Nat) (s : State) : kept (requestWords w n a s).s = kept s := by
  induction n generalizing a s with
  | zero => rfl
  | succ n ih =>
    unfold requestWords; simp [ih]
@[simp] theorem still_requestWords (w : Writer) (n a : Nat) (s : State) : still (requestWords w n a s).s = still s :=
    still_of_kept (kept_requestWords w n a s)
@[simp] theorem kept_performRead (rid : Fin 16) (tag w : Nat) (s : State) : kept (performRead rid tag w s) = kept s
    := by
  unfold performRead
  split
  · rw [kept_pushRsp, kept_rejectIn]
  · dsimp only
    split
    · rfl
    · rw [kept_pushRsp]
      refine kept_foldGot _ _ _ (fun g p => ?_)
      split
      · exact kept_requestWords ..
      · exact kept_readSpan ..
@[simp] theorem still_performRead (rid : Fin 16) (tag w : Nat) (s : State) : still (performRead rid tag w s) = still
    s := still_of_kept (kept_performRead rid tag w s)
theorem still_foldBus {α : Type} (f : Bus → α → Bus) (l : List α) (g : Bus) (h : ∀ g x, still (f g x).s = still g.s) :
    still (l.foldl f g).s = still g.s := by
  induction l generalizing g with
  | nil => rfl
  | cons x r ih => rw [List.foldl_cons, ih, h]
theorem still_writeWords (w : Writer) : (a : Nat) → (l : List Word) → (b : Bus) → still (writeWords w a l b).s =
    still b.s
  | _, [], _ => rfl
  | _, [_], _ => still_writeReg ..
  | a, v :: u :: r, b => by
    unfold writeWords
    split
    · exact (still_writeWords w _ r _).trans (still_writeBoth ..)
    · exact (still_writeWords w _ (u :: r) _).trans (still_writeReg ..)
@[simp] theorem still_performWrite (rid : Fin 16) (tag : Nat) (ackreq : Bool) (payload : List Byte) (s : State) :
    still (performWrite rid tag ackreq payload s).s = still s := by
  have hack : ∀ (p : Packet) (t : State), still (if ackreq then pushRsp p t else t) = still t := fun p t => by
    split
    · exact still_pushRsp ..
    · rfl
  unfold performWrite
  dsimp only
  split
  · rw [hack, still_rejectIn]
  · split
    · rw [hack]
    · split
      · rfl
      · rw [hack]
        refine still_foldBus _ _ _ (fun b p => ?_)
        split
        · exact still_writeWords ..
        · exact still_writeSpan ..
@[simp] theorem still_performReq (p : Packet) (s : State) : still (performReq p s).s = still s := by
  unfold performReq
  dsimp only
  rw [still_owe]
  split
  · exact still_performRead ..
  · exact still_performWrite ..
@[simp] theorem still_arriveReq (p : Packet) (s : State) : still (arriveReq p s).s = still s := by
  unfold arriveReq
  split
  · exact still_performReq ..
  · rfl
@[simp] theorem kept_discardContent (p : Packet) (s : State) : kept (discardContent p s) = kept s := by
  unfold discardContent; simp
@[simp] theorem still_discardContent (p : Packet) (s : State) : still (discardContent p s) = still s := still_of_kept
    (kept_discardContent p s)
@[simp] theorem kept_writeVia (a : Nat) (l : List Byte) (s : State) : kept (writeVia a l s) = kept s := by
  unfold writeVia; simp
@[simp] theorem still_writeVia (a : Nat) (l : List Byte) (s : State) : still (writeVia a l s) = still s :=
    still_of_kept (kept_writeVia a l s)
@[simp] theorem kept_writeIngress (p : Packet) (s : State) : kept (writeIngress p s) = kept s := by
  unfold writeIngress; simp
@[simp] theorem still_writeIngress (p : Packet) (s : State) : still (writeIngress p s) = still s := still_of_kept
    (kept_writeIngress p s)
@[simp] theorem kept_performContent (p : Packet) (s : State) : kept (performContent p s) = kept s := by
  unfold performContent; simp
@[simp] theorem still_performContent (p : Packet) (s : State) : still (performContent p s) = still s := still_of_kept
    (kept_performContent p s)
@[simp] theorem kept_pumpContent (n : Nat) (s : State) : kept (pumpContent n s) = kept s := by
  induction n generalizing s with
  | zero => rfl
  | succ n ih =>
    unfold pumpContent
    split
    · rw [ih, kept_performContent, kept_mk]
    · rfl
@[simp] theorem still_pumpContent (n : Nat) (s : State) : still (pumpContent n s) = still s := still_of_kept
    (kept_pumpContent n s)
@[simp] theorem kept_arriveContent (p : Packet) (s : State) : kept (arriveContent p s) = kept s := by
  unfold arriveContent; simp
@[simp] theorem still_arriveContent (p : Packet) (s : State) : still (arriveContent p s) = still s := still_of_kept
    (kept_arriveContent p s)
@[simp] theorem kept_streamWrite (n : Nat) (s : State) : kept (streamWrite n s) = kept s := by
  induction n generalizing s with
  | zero => rfl
  | succ n ih =>
    unfold streamWrite; simp [ih]
@[simp] theorem still_streamWrite (n : Nat) (s : State) : still (streamWrite n s) = still s := still_of_kept
    (kept_streamWrite n s)
@[simp] theorem kept_streamGo (s : State) : kept (streamGo s) = kept s := by
  unfold streamGo; simp
@[simp] theorem still_streamGo (s : State) : still (streamGo s) = still s := still_of_kept (kept_streamGo s)
@[simp] theorem kept_pumpStream (n : Nat) (s : State) : kept (pumpStream n s) = kept s := by
  induction n generalizing s with
  | zero => rfl
  | succ n ih =>
    unfold pumpStream
    split
    · rw [ih, kept_streamGo, kept_mk]
    · rfl
@[simp] theorem still_pumpStream (n : Nat) (s : State) : still (pumpStream n s) = still s := still_of_kept
    (kept_pumpStream n s)
@[simp] theorem kept_arriveStream (p : Packet) (s : State) : kept (arriveStream p s) = kept s := by
  unfold arriveStream; simp
@[simp] theorem still_arriveStream (p : Packet) (s : State) : still (arriveStream p s) = still s := still_of_kept
    (kept_arriveStream p s)
@[simp] theorem kept_releaseIngress (s : State) : kept (releaseIngress s) = kept s := by
  unfold releaseIngress; simp
@[simp] theorem still_releaseIngress (s : State) : still (releaseIngress s) = still s := still_of_kept
    (kept_releaseIngress s)
@[simp] theorem kept_releaseHeld (s : State) : kept (releaseHeld s) = kept s := by
  unfold releaseHeld; simp
@[simp] theorem still_releaseHeld (s : State) : still (releaseHeld s) = still s := still_of_kept (kept_releaseHeld s)
@[simp] theorem still_arrive (p : Packet) (b : Bus) : still (arrive p b).s = still b.s := by
  unfold arrive
  dsimp only
  split
  · rfl
  · split
    · exact still_arriveReq ..
    · split
      · exact still_arriveContent ..
      · split
        · exact still_arriveStream ..
        · exact still_rejectIn ..
theorem still_pumpReq (n : Nat) (b : Bus) : still (pumpReq n b).s = still b.s := by
  induction n generalizing b with
  | zero => rfl
  | succ n ih =>
    unfold pumpReq
    split
    · rfl
    · split
      · rw [ih]; exact (still_performReq ..).trans rfl
      · rfl
@[simp] theorem kept_takeAck (v nak : Bool) (seq : Nat) (s : State) : kept (takeAck v nak seq s) = kept s := by
  unfold takeAck; simp
@[simp] theorem still_takeAck (v nak : Bool) (seq : Nat) (s : State) : still (takeAck v nak seq s) = still s :=
    still_of_kept (kept_takeAck v nak seq s)
@[simp] theorem kept_takeCredits (l : List Byte) (s : State) : kept (takeCredits l s) = kept s := by
  unfold takeCredits; simp
@[simp] theorem still_takeCredits (l : List Byte) (s : State) : still (takeCredits l s) = still s := still_of_kept
    (kept_takeCredits l s)
@[simp] theorem kept_discardFlit (s : State) : kept (discardFlit s) = kept s := by
  unfold discardFlit; simp
@[simp] theorem still_discardFlit (s : State) : still (discardFlit s) = still s := still_of_kept (kept_discardFlit s)
@[simp] theorem kept_discardAhead (s : State) : kept (discardAhead s) = kept s := by
  unfold discardAhead; simp
@[simp] theorem still_discardAhead (s : State) : still (discardAhead s) = still s := still_of_kept (kept_discardAhead
    s)
@[simp] theorem kept_dropEgress (c : Nat) (s : State) : kept (dropEgress c s) = kept s := by
  unfold dropEgress; simp
@[simp] theorem still_dropEgress (c : Nat) (s : State) : still (dropEgress c s) = still s := still_of_kept
    (kept_dropEgress c s)
@[simp] theorem kept_sendFlit (typ seq first : Nat) (payload : List Byte) (s : State) : kept (sendFlit typ seq first
    payload s) = kept s := by
  unfold sendFlit; simp
@[simp] theorem still_sendFlit (typ seq first : Nat) (payload : List Byte) (s : State) : still (sendFlit typ seq
    first payload s) = still s := still_of_kept (kept_sendFlit typ seq first payload s)
@[simp] theorem kept_sendIdle (s : State) : kept (sendIdle s) = kept s := by
  unfold sendIdle; simp
@[simp] theorem still_sendIdle (s : State) : still (sendIdle s) = still s := still_of_kept (kept_sendIdle s)
@[simp] theorem kept_resendFlit (i : Nat) (s : State) : kept (resendFlit i s) = kept s := by
  unfold resendFlit; try lift_lets
  repeat' (first | (intro x; first | (have hx : kept x = kept s := (by simp only [x]; repeat' (first | rfl | assumption | (simp [*]; done) | (refine (kept_foldl _ _ _ (fun s x => ?_)).trans ?_) | split)); clear_value x) | clear_value x) | (first | rfl | assumption | (simp [*]; done) | (refine (kept_foldl _ _ _ (fun s x => ?_)).trans ?_) | split) | lift_lets)
@[simp] theorem still_resendFlit (i : Nat) (s : State) : still (resendFlit i s) = still s := still_of_kept
    (kept_resendFlit i s)
theorem kept_fillFlit (n : Nat) (f : Fill) : kept (fillFlit n f).s = kept f.s := by
  induction n generalizing f with
  | zero => rfl
  | succ n ih =>
    unfold fillFlit
    dsimp only
    split
    · rfl
    · cases nextPacket f.s with
      | none => rfl
      | some x => obtain ⟨c, p⟩ := x; dsimp only; rw [ih, kept_dropEgress, kept_mk]
@[simp] theorem kept_newFlit (s : State) : kept (newFlit s) = kept s := by
  unfold newFlit
  dsimp only
  split
  · exact kept_sendIdle ..
  · rw [kept_sendFlit, kept_mk, kept_fillFlit]
@[simp] theorem still_newFlit (s : State) : still (newFlit s) = still s := still_of_kept (kept_newFlit s)
@[simp] theorem kept_summary (t : Nat) (s : State) : kept (summary t s) = kept s := by
  unfold summary; simp
@[simp] theorem still_summary (t : Nat) (s : State) : still (summary t s) = still s := still_of_kept (kept_summary t
    s)
@[simp] theorem kept_noAsp (s : State) : kept (noAsp s) = kept s := by
  unfold noAsp; simp
@[simp] theorem still_noAsp (s : State) : still (noAsp s) = still s := still_of_kept (kept_noAsp s)

/-! ### Loader -/

@[simp] theorem kept_setPhase (n : Nat) (s : State) : kept (setPhase n s) = kept s := by
  unfold setPhase; simp
@[simp] theorem still_setPhase (n : Nat) (s : State) : still (setPhase n s) = still s := still_of_kept (kept_setPhase
    n s)
@[simp] theorem kept_noteCode (code : Nat) (s : State) : kept (noteCode code s) = kept s := by
  unfold noteCode; simp
@[simp] theorem still_noteCode (code : Nat) (s : State) : still (noteCode code s) = still s := still_of_kept
    (kept_noteCode code s)
@[simp] theorem kept_readFrom (o : Nat) (s : State) : kept (readFrom o s) = kept s := by
  unfold readFrom; simp
@[simp] theorem still_readFrom (o : Nat) (s : State) : still (readFrom o s) = still s := still_of_kept (kept_readFrom
    o s)
@[simp] theorem kept_startRead (s : State) : kept (startRead s) = kept s := by
  unfold startRead; simp
@[simp] theorem still_startRead (s : State) : still (startRead s) = still s := still_of_kept (kept_startRead s)
@[simp] theorem still_enterLoad (s : State) : still (enterLoad s) = still s := by
  unfold enterLoad; simp
@[simp] theorem kept_deadSpare (l : List (Fin 74)) (s : State) : kept (deadSpare l s) = kept s := by
  unfold deadSpare; simp
@[simp] theorem still_deadSpare (l : List (Fin 74)) (s : State) : still (deadSpare l s) = still s := still_of_kept
    (kept_deadSpare l s)
@[simp] theorem kept_showDigest (reg : Nat → Nat) (d : BitVec 256) (s : State) : kept (showDigest reg d s) = kept s
    := by
  unfold showDigest; simp
@[simp] theorem still_showDigest (reg : Nat → Nat) (d : BitVec 256) (s : State) : still (showDigest reg d s) = still
    s := still_of_kept (kept_showDigest reg d s)
@[simp] theorem kept_startProof (s : State) : kept (startProof s) = kept s := by
  unfold startProof; simp
@[simp] theorem still_startProof (s : State) : still (startProof s) = still s := still_of_kept (kept_startProof s)

/-! ### Scrub -/

@[simp] theorem kept_putTester (k : Nat) (x : Tester) (s : State) : kept (putTester k x s) = kept s := by
  unfold putTester; simp
@[simp] theorem still_putTester (k : Nat) (x : Tester) (s : State) : still (putTester k x s) = still s :=
    still_of_kept (kept_putTester k x s)
@[simp] theorem kept_localFail (cl m region : Nat) (s : State) : kept (localFail cl m region s) = kept s := by
  unfold localFail; simp
@[simp] theorem still_localFail (cl m region : Nat) (s : State) : still (localFail cl m region s) = still s :=
    still_of_kept (kept_localFail cl m region s)
@[simp] theorem kept_pantryFail (cl region : Nat) (s : State) : kept (pantryFail cl region s) = kept s := by
  unfold pantryFail; simp
@[simp] theorem still_pantryFail (cl region : Nat) (s : State) : still (pantryFail cl region s) = still s :=
    still_of_kept (kept_pantryFail cl region s)

/-! ### Tick -/

@[simp] theorem kept_beginCycle (s : State) : kept (beginCycle s) = kept s := by
  unfold beginCycle; simp
@[simp] theorem still_beginCycle (s : State) : still (beginCycle s) = still s := still_of_kept (kept_beginCycle s)

/-! ### Step -/

@[simp] theorem kept_State_withFetchWord (s : State) (nbits w : Nat) : kept (State.withFetchWord s nbits w) = kept s
    := by
  unfold State.withFetchWord; try lift_lets
  repeat' (first | (intro x; first | (have hx : kept x = kept s := (by simp only [x]; repeat' (first | rfl | assumption | (simp [*]; done) | (refine (kept_foldl _ _ _ (fun s x => ?_)).trans ?_) | split)); clear_value x) | clear_value x) | (first | rfl | assumption | (simp [*]; done) | (refine (kept_foldl _ _ _ (fun s x => ?_)).trans ?_) | split) | lift_lets)
@[simp] theorem still_State_withFetchWord (s : State) (nbits w : Nat) : still (State.withFetchWord s nbits w) = still
    s := still_of_kept (kept_State_withFetchWord s nbits w)

end Sys2Proof.Machine
end

