-- ==== Sys2Proof/Laws/Line.lean ====
section
/-! SUPPORT. What composing and conditioning lines leaves: everything but the registers, memories and line state of the line
units. One lemma for each of their operations. -/

namespace Sys2Proof.Machine

open Sys2Proof.Claims

set_option linter.unusedSimpArgs false
set_option linter.unusedVariables false

/-- All of the state but what the line units write. -/
def aside (s : State) : State × (Nat → Word) × (Nat → Byte) :=
  ({ s with regs := [], cyc := {}, mem := [], ue := [], ce := [], egress := {}, cmp := {}, lst := {}, blankDue := [], evLatch := [], evBefore := [] },
   fun a => if lineReg a then 0 else rd a s, fun a => if lineMem a then 0 else mb a s)
@[simp] theorem aside_mk (e : State) (egress : Egress) (cmp : Cmp) (lst : Lst) (ue : List Nat) (ce : List Nat) (cyc : Cyc) (blankDue : List Nat) (evLatch : Tab Nat) (evBefore : Tab Nat) :
  aside (State.mk e.pending e.fresh e.time e.gated cyc e.regs e.proof e.mem ue ce e.patch e.wire e.mode e.prev e.cause e.sealed e.stages e.latches e.rdata e.rstat e.cells e.pair e.tmr e.dma e.tester evLatch e.evAhead evBefore e.pos cmp lst e.links e.wav e.fab e.dlk egress e.ingress e.loader e.syn e.jtag e.due e.first e.iLast e.gateBlank blankDue e.forcedAt e.proofAt e.sleepEntry e.waking e.tmrStopped e.sleepRatio e.slowRatio e.slowAt e.wdAt e.img) = aside e := (rfl)
theorem aside_wr (a : Nat) (v : Word) (s : State) (h : lineReg a = true) : aside (wr a v s) = aside s := by
  unfold aside
  refine Prod.ext rfl (Prod.ext ?_ rfl)
  funext b
  by_cases hb : lineReg b = true
  · simp [hb]
  · have : b ≠ a := fun e => hb (e ▸ h)
    simp [hb, rd_wr_other s v this]
@[simp] theorem aside_foldl {α : Type} (f : State → α → State) (l : List α) (s : State) (h : ∀ s x, aside (f s x) = aside s) :
    aside (l.foldl f s) = aside s := by
  induction l generalizing s with
  | nil => rfl
  | cons x r ih => rw [List.foldl_cons, ih, h]
@[simp] theorem aside_ite (c : Prop) [Decidable c] (a b : State) : aside (if c then a else b) = if c then aside a else aside b := by
  split <;> rfl

theorem lineReg_cl (cl o : Nat) (h : o < 0x10000) (ho : lineReg (0x310000000 + o) = true) : lineReg (0x310000000 + cl * 0x10000 + o) = true := by
  have h1 : (0x310000000 + cl * 0x10000 + o) % 0x10000 = (0x310000000 + o) % 0x10000 := by omega
  have h2 : (0x310000000 + o) % 0x10000 = o := by omega
  unfold lineReg at *
  rw [h1]
  have h3 : ∀ x ∈ [R.TIL_ASUML, R.TIL_ASUMH, R.FAB_TSECC, R.ASP_DROP, R.CMP_CMTSTAT, R.NZL_CMTSTAT, R.NZL_STAT, R.LST_STAT,
    R.LST_WP, R.LST_RP, R.LST_OCC, R.LST_OCCMAX, R.LST_DROPCNT, R.LST_REDSEG, R.LST_REDLINE, R.LST_LOG_WP, R.LST_LOG_DROP],
    x < 0x310000000 := by decide
  have h4 : ¬ (0x310000000 + o) ∈ [R.TIL_ASUML, R.TIL_ASUMH, R.FAB_TSECC, R.ASP_DROP, R.CMP_CMTSTAT, R.NZL_CMTSTAT, R.NZL_STAT,
    R.LST_STAT, R.LST_WP, R.LST_RP, R.LST_OCC, R.LST_OCCMAX, R.LST_DROPCNT, R.LST_REDSEG, R.LST_REDLINE, R.LST_LOG_WP,
    R.LST_LOG_DROP] := fun hm => by have := h3 _ hm; omega
  have h5 : ¬ (0x310000000 + o < 0x300050028) := by omega
  simp only [h4, h5, decide_false, Bool.and_false, Bool.false_or, Bool.or_false] at ho
  have h6 : decide (0x310000000 ≤ 0x310000000 + cl * 0x10000 + o) = true := by simp; omega
  have h7 : decide (0x310000000 ≤ 0x310000000 + o) = true := by simp
  rw [h7] at ho
  rw [h6]
  simp only [Bool.true_and] at ho ⊢
  rw [ho]; simp
theorem aside_wf (a lo w x : Nat) (s : State) (h : lineReg a = true) : aside (wf a lo w x s) = aside s := aside_wr _ _ _ h
theorem aside_wb (a i : Nat) (b : Bool) (s : State) (h : lineReg a = true) : aside (wb a i b s) = aside s := by
  obtain ⟨_, e⟩ := wb_eq s a i b; rw [e, aside_mk]; exact aside_wr _ _ _ h
@[simp] theorem aside_noteEvent (a lo w : Nat) (join : Option Nat → Nat) (s : State) :
    aside (noteEvent a lo w join s) = aside s := by
  obtain ⟨_, e⟩ := noteEvent_eq s a lo w join; rw [e, aside_mk]
theorem aside_addSat (a lo w x : Nat) (s : State) (h : lineReg a = true) : aside (addSat a lo w x s) = aside s := by
  unfold addSat; split
  · rfl
  · rw [aside_wf _ _ _ _ _ h, aside_noteEvent]
theorem aside_keepMin (a lo w x : Nat) (s : State) (h : lineReg a = true) : aside (keepMin a lo w x s) = aside s := by
  unfold keepMin; dsimp only; split
  · rw [aside_wf _ _ _ _ _ h, aside_noteEvent]
  · rw [aside_noteEvent]
theorem aside_keepMax (a lo w x : Nat) (s : State) (h : lineReg a = true) : aside (keepMax a lo w x s) = aside s := by
  unfold keepMax; dsimp only; split
  · rw [aside_wf _ _ _ _ _ h, aside_noteEvent]
  · rw [aside_noteEvent]
theorem aside_wrLine (a b : Nat) (i : Int) (s : State) (h : lineReg a = true) (h2 : lineReg b = true) : aside (wrLine a b i s) = aside s :=
  (aside_wf _ _ _ _ _ h2).trans (aside_wr _ _ _ h)
theorem aside_wb64 (a b i : Nat) (x : Bool) (s : State) (h : lineReg a = true) (h2 : lineReg b = true) : aside (wb64 a b i x s) = aside s := by
  unfold wb64; split <;> exact aside_wb _ _ _ _ ‹_›
@[simp] theorem aside_raiseAlarm (typ : Nat) (x : Alarm) (s : State) : aside (raiseAlarm typ x s) = aside s := by
  have h : aside (wb (if typ < 32 then R.TIL_ASUML else R.TIL_ASUMH) (typ % 32) true s) = aside s := by
    apply aside_wb; split <;> decide
  obtain ⟨_, _, e⟩ := raiseAlarm_eq s typ x
  rw [e, aside_mk, h]
theorem aside_alarmBit (a i typ : Nat) (x : Alarm) (s : State) (h : lineReg a = true) : aside (alarmBit a i typ x s) = aside s := by
  unfold alarmBit; rw [aside_raiseAlarm, aside_wb _ _ _ _ h]
@[simp] theorem aside_tileAlarm (c : Nat) (x : Alarm) (s : State) : aside (tileAlarm c x s) = aside s := aside_raiseAlarm ..
@[simp] theorem aside_pushEvent (p : Packet) (s : State) : aside (pushEvent p s) = aside s := by
  unfold pushEvent; exact (aside_addSat _ _ _ _ _ (by decide)).trans rfl
@[simp] theorem aside_postEvent (k a b c d : Nat) (s : State) : aside (postEvent k a b c d s) = aside s := aside_pushEvent ..
@[simp] theorem aside_putRank (cl j rk : Nat) (s : State) : aside (putRank cl j rk s) = aside s := (rfl)
@[simp] theorem aside_notePending (cl i : Nat) (s : State) : aside (notePending cl i s) = aside s := by
  obtain ⟨_, h⟩ := notePending_eq cl i s
  rw [h, aside_mk]
@[simp] theorem aside_setPend (cl i rk : Nat) (s : State) : aside (setPend cl i rk s) = aside s := by
  unfold setPend
  rw [aside_putRank, aside_wb64 _ _ _ _ _ (lineReg_cl _ 0xC08 (by decide) (by decide)) (lineReg_cl _ 0xC0C (by decide) (by decide))]
  split
  · rfl
  · exact aside_notePending ..
@[simp] theorem aside_pendEdge (cl i rk : Nat) (s : State) : aside (pendEdge cl i rk s) = aside s := by
  unfold pendEdge
  split
  · rw [aside_putRank, aside_addSat _ _ _ _ _ (lineReg_cl _ 0xC3C (by decide) (by decide))]
  · exact aside_setPend ..
@[simp] theorem aside_assertSource (cl i : Nat) (s : State) : aside (assertSource cl i s) = aside s := by
  unfold assertSource
  split
  · rfl
  · split
    · split <;> rfl
    · exact aside_pendEdge ..
@[simp] theorem aside_assertAll (i : Nat) (s : State) : aside (assertAll i s) = aside s := by
  unfold assertAll; simp
theorem mb_storeBytes_out (a b : Nat) (l : List Byte) (m : List Host.Cell) (h : b < a ∨ a + l.length ≤ b) :
    Sparse.get 0 (storeBytes a l m) b = Sparse.get 0 m b := by
  induction l generalizing a m with
  | nil => rfl
  | cons x r ih =>
    rw [storeBytes, ih]
    · rw [Sparse.get_set_other]; simp at h; omega
    · simp at h; omega
theorem aside_writeBytes (a : Nat) (l : List Byte) (s : State) (h : ∀ k < l.length, lineMem (a + k) = true) :
    aside (writeBytes a l s) = aside s := by
  unfold aside
  refine Prod.ext rfl (Prod.ext rfl ?_)
  funext b
  dsimp only
  by_cases hb : lineMem b = true
  · simp [hb]
  · rw [if_neg hb, if_neg hb]
    apply mb_storeBytes_out
    by_cases h1 : b < a
    · exact .inl h1
    · by_cases h2 : a + l.length ≤ b
      · exact .inr h2
      · exact absurd (by have := h (b - a) (by omega); rwa [show a + (b - a) = b by omega] at this) hb
@[simp] theorem aside_onSlice (cl : Nat) (f : Slice → Slice) (s : State) : aside (onSlice cl f s) = aside s := (rfl)
@[simp] theorem aside_putSlice (cl : Nat) (x : Slice) (s : State) : aside (putSlice cl x s) = aside s := (rfl)
@[simp] theorem aside_pantryUe (cl w : Nat) (s : State) : aside (pantryUe cl w s) = aside s := by
  unfold pantryUe
  rw [aside_alarmBit _ _ _ _ _ (lineReg_cl _ 0x1804 (by decide) (by decide)), aside_addSat _ _ _ _ _ (lineReg_cl _ 0x1808 (by decide) (by decide)),
    aside_wr _ _ _ (lineReg_cl _ 0x180C (by decide) (by decide))]
@[simp] theorem aside_pantryCe (cl : Nat) (s : State) : aside (pantryCe cl s) = aside s := by
  unfold pantryCe
  rw [aside_wb _ _ _ _ (lineReg_cl _ 0x1804 (by decide) (by decide)), aside_addSat _ _ _ _ _ (lineReg_cl _ 0x1808 (by decide) (by decide))]
@[simp] theorem aside_tileUe (s : State) : aside (tileUe s) = aside s := by
  unfold tileUe
  rw [aside_tileAlarm, aside_addSat _ _ _ _ _ (by decide)]
@[simp] theorem aside_tileCe (s : State) : aside (tileCe s) = aside s := aside_addSat _ _ _ _ _ (by decide)
@[simp] theorem aside_tileReads (u c : Nat) (s : State) : aside (tileReads u c s) = aside s := by
  unfold tileReads
  rw [aside_foldl _ _ _ (fun _ _ => aside_tileCe _), aside_foldl _ _ _ (fun _ _ => aside_tileUe _)]
@[simp] theorem aside_takeStream (cl : Nat) (i : Int) (s : State) : aside (takeStream cl i s) = aside s := by
  have h1 : ∀ n s, aside (addSat (R.CLC_STRCNT cl) 0 16 n s) = aside s := fun n s => aside_addSat _ _ _ _ _ (lineReg_cl _ 0x1020 (by decide) (by decide))
  have h2 : ∀ n s, aside (addSat (R.CLC_STRCNT cl) 16 16 n s) = aside s := fun n s => aside_addSat _ _ _ _ _ (lineReg_cl _ 0x1020 (by decide) (by decide))
  have h3 : ∀ i t x s, aside (alarmBit (R.CLC_ASTAT cl) i t x s) = aside s := fun i t x s => aside_alarmBit _ _ _ _ _ (lineReg_cl _ 0x1004 (by decide) (by decide))
  unfold takeStream
  dsimp only
  split
  · rw [aside_putSlice]
  · generalize streamWalk _ _ _ _ _ _ _ = k
    obtain ⟨t, rp, n, u, c⟩ := k
    dsimp only
    cases t with
    | record c => exact (aside_putSlice ..).trans ((aside_tileReads ..).trans (h1 ..))
    | error => exact (h3 ..).trans ((aside_putSlice ..).trans ((aside_tileReads ..).trans (h1 ..)))
    | miss =>
      refine (aside_ite _ _ _).trans ?_
      split
      · exact (h3 ..).trans ((h2 ..).trans ((aside_putSlice ..).trans ((aside_tileReads ..).trans (h1 ..))))
      · exact (aside_putSlice ..).trans ((aside_tileReads ..).trans (h1 ..))
@[simp] theorem aside_putSeg (cl n : Nat) (m : Option MapSeg) (s : State) : aside (putSeg cl n m s) = aside s := (rfl)
@[simp] theorem aside_refreshSeg (cl n : Nat) (i : Int) (s : State) : aside (refreshSeg cl n i s) = aside s := by
  unfold refreshSeg
  extract_lets my held met
  split
  · split
    · rfl
    · rw [aside_putSeg, aside_tileReads]
  · rfl
@[simp] theorem aside_composeNow (cl : Nat) (i : Int) (s : State) : aside (composeNow cl i s) = aside s := by
  have h0 : aside ([0, 1, 2, 3].foldl (fun s n => refreshSeg cl n i s) s) = aside s :=
    aside_foldl _ _ _ (fun _ _ => aside_refreshSeg ..)
  have h1 : ∀ v s, aside (wr (R.CLC_SPRSTAT cl) v s) = aside s := fun v s => aside_wr _ _ _ (lineReg_cl _ 0x1018 (by decide) (by decide))
  have h2 : ∀ n s, aside (addSat (R.CLC_OMIT cl) 0 16 n s) = aside s := fun n s => aside_addSat _ _ _ _ _ (lineReg_cl _ 0x101C (by decide) (by decide))
  have h3 : ∀ i t x s, aside (alarmBit (R.CLC_ASTAT cl) i t x s) = aside s := fun i t x s => aside_alarmBit _ _ _ _ _ (lineReg_cl _ 0x1004 (by decide) (by decide))
  unfold composeNow
  generalize [0, 1, 2, 3].foldl (fun s n => refreshSeg cl n i s) s = s0 at h0 ⊢
  extract_lets s' act drawn om pan met l s1 s2
  have e1 : aside s1 = aside s := (h1 _ s0).trans h0
  have e2 : aside s2 = aside s := by
    simp only [s2]
    split
    · exact e1
    · rw [h3, h2, e1]
  refine Eq.trans (aside_mk _ _ _ _ _ _ _ _ _ _) ((aside_tileReads ..).trans ((aside_foldl _ _ _ (fun _ _ => aside_pantryCe ..)).trans
    ((aside_foldl _ _ _ (fun _ _ => aside_pantryUe ..)).trans e2)))

theorem psRows_offset : ∀ r ∈ rowsCL, r.ps = true → ∀ k < max 1 r.c1, 0x1100 ≤ r.off + r.s1 * k ∧ r.off + r.s1 * k < 0x1200 := by decide
theorem lineReg_ps (cl a : Nat) (h : a ∈ psAddrs cl) : lineReg a = true := by
  simp only [psAddrs, List.mem_flatMap, List.mem_filter, List.mem_map, List.mem_range] at h
  obtain ⟨r, ⟨hr, hp⟩, k, hk, rfl⟩ := h
  obtain ⟨h1, h2⟩ := psRows_offset r hr hp k hk
  have : R.cluster cl + r.off + r.s1 * k = 0x310000000 + cl * 0x10000 + (r.off + r.s1 * k) := by simp only [R.cluster]; omega
  rw [this]
  apply lineReg_cl
  · omega
  · have h3 : (0x310000000 + (r.off + r.s1 * k)) % 0x10000 = r.off + r.s1 * k := by omega
    unfold lineReg
    rw [h3]
    have e1 : decide (0x310000000 ≤ 0x310000000 + (r.off + r.s1 * k)) = true := by simp
    have e2 : decide (0x1100 ≤ r.off + r.s1 * k) = true := by simpa using h1
    have e3 : decide (r.off + r.s1 * k < 0x1200) = true := by simpa using h2
    rw [e1, e2, e3]; simp
theorem aside_foldl_mem {α : Type} (f : State → α → State) (l : List α) (s : State) (h : ∀ s, ∀ x ∈ l, aside (f s x) = aside s) :
    aside (l.foldl f s) = aside s := by
  induction l generalizing s with
  | nil => rfl
  | cons x r ih =>
    rw [List.foldl_cons, ih _ (fun s y hy => h s y (List.mem_cons_of_mem _ hy)), h _ _ List.mem_cons_self]
@[simp] theorem aside_activateProof (cl : Nat) (s : State) : aside (activateProof cl s) = aside s :=
  (aside_onSlice ..).trans (aside_foldl_mem _ _ _ (fun _ x hx => aside_wr _ _ _ (lineReg_ps cl x hx)))
theorem lineReg_commitStat (n : Bool) (i : Nat) : lineReg (commitStat n i) = true := by
  unfold commitStat
  cases n <;> by_cases h : i < 16 <;> simp only [h, if_true, if_false]
  · exact lineReg_cl _ 0x1030 (by decide) (by decide)
  · decide
  · exact lineReg_cl _ 0x1418 (by decide) (by decide)
  · decide
@[simp] theorem aside_takeCommits (p : PendCommit → Bool) (m : Nat) (s : State) : aside (takeCommits p m s) = aside s := by
  unfold takeCommits
  extract_lets upd done
  refine (aside_foldl _ _ _ (fun s c => ?_)).trans rfl
  split
  · exact aside_wf _ _ _ _ _ (lineReg_commitStat _ _)
  · rfl
@[simp] theorem aside_takeProof (cl : Nat) (i : Int) (s : State) : aside (takeProof cl i s) = aside s := by
  unfold takeProof
  split
  · split <;> simp
  · rfl
@[simp] theorem aside_startLine (cl : Nat) (i : Int) (s : State) : aside (startLine cl i s) = aside s := by
  unfold startLine
  extract_lets x fresh s1
  have e1 : aside s1 = aside s := by
    simp only [s1]
    split
    · exact aside_takeStream ..
    · rfl
  rw [aside_onSlice, e1]
@[simp] theorem aside_beginNext (cl : Nat) (s : State) : aside (beginNext cl s) = aside s := by
  unfold beginNext
  extract_lets x
  split
  · split
    · rfl
    · rw [aside_startLine, aside_takeProof]
  · rfl
@[simp] theorem aside_beginAll (s : State) : aside (beginAll s) = aside s := by unfold beginAll; simp
@[simp] theorem aside_readWord (w : TabWord) (s : State) : aside (readWord w s) = aside s := by
  unfold readWord
  split
  · rw [aside_alarmBit _ _ _ _ _ (by decide)]; rfl
  · rfl
@[simp] theorem aside_readWords (p : TabWord → Bool) (s : State) : aside (readWords p s) = aside s :=
  aside_foldl _ _ _ (fun _ _ => aside_readWord ..)
@[simp] theorem aside_takeMap (i : Int) (s : State) : aside (takeMap i s) = aside s := by
  unfold takeMap
  split
  · split
    · extract_lets s1 x1 x2 x3 s3
      have e1 : aside s1 = aside s := aside_readWords ..
      have e3 : aside s3 = aside s := (aside_takeCommits ..).trans e1
      split
      · rw [aside_wb _ _ _ _ (by decide), e3]
      · exact e3
    · rfl
  · rfl
theorem lineMem_pantry (cl k o i : Nat) (h1 : cl < 16) (h3 : k * 0x40000 + 2 * o + i < 0x100000) : lineMem (bankWord cl k o + i) = true := by
  unfold lineMem bankWord pantryBase
  simp only [Bool.or_eq_true, Bool.and_eq_true, decide_eq_true_eq]
  omega
theorem bitsN_lt (v lo w : Nat) : bitsN v lo w < 2 ^ w := Nat.mod_lt _ (Nat.two_pow_pos w)
theorem rf_lt (a lo w : Nat) (s : State) : rf a lo w s < 2 ^ w := bitsN_lt ..
theorem leBytes_length (n v : Nat) : (leBytes n v).length = n := by
  induction n generalizing v with
  | zero => rfl
  | succ n ih => simp [leBytes, ih]
@[simp] theorem aside_logSegment (i : Int) (g j ver mode : Nat) (codes : List Nat) (s : State) :
    aside (logSegment i g j ver mode codes s) = aside s := by
  unfold logSegment
  extract_lets s1 size wp n v s2
  have h1 : aside s1 = aside s := aside_addSat _ _ _ _ _ (by decide)
  split
  · rw [aside_alarmBit _ _ _ _ _ (by decide), aside_addSat _ _ _ _ _ (by decide), h1]
  · have h2 : aside s2 = aside s := by
      refine (aside_writeBytes _ _ _ (fun k hk => ?_)).trans h1
      rw [leBytes_length] at hk
      have a1 := rf_lt R.LST_CFG 8 4 s1
      have a2 := rf_lt R.LST_LOG_BASE 0 14 s1
      have a3 : wp < 2 ^ 13 := rf_lt ..
      exact lineMem_pantry _ _ _ _ (by omega) (by omega)
    rw [aside_wf _ _ _ _ _ (by decide), h2]
theorem entryIx_lt (i : Int) (s : State) : entryIx i s < 16384 := by
  unfold entryIx imod
  have h (m : Int) (hm : 0 < m) : 0 ≤ i.fmod m ∧ i.fmod m < m := ⟨Int.fmod_nonneg_of_pos _ hm, Int.fmod_lt_of_pos _ hm⟩
  split
  · have := h 16384 (by omega); omega
  · have := h 2048 (by omega); omega
@[simp] theorem aside_writeEntry (i : Int) (v : Nat) (s : State) : aside (writeEntry i v s) = aside s := by
  unfold writeEntry
  split
  · apply aside_writeBytes
    intro k hk
    rw [leBytes_length] at hk
    have := entryIx_lt i s
    unfold lineMem lineStoreBase
    simp only [Bool.or_eq_true, Bool.and_eq_true, decide_eq_true_eq]
    omega
  · rfl
@[simp] theorem aside_clearValid (i : Int) (s : State) : aside (clearValid i s) = aside s := aside_writeEntry ..
@[simp] theorem aside_setOcc (o : Nat) (s : State) : aside (setOcc o s) = aside s := by
  unfold setOcc
  extract_lets old note s1 s2
  have h1 : aside s1 = aside s := aside_wf _ _ _ _ _ (by decide)
  have h2 : aside s2 = aside s := (aside_keepMax _ _ _ _ _ (by decide)).trans h1
  split
  · rw [aside_postEvent, aside_assertAll, aside_wb _ _ _ _ (by decide), h2]
  · exact h2
@[simp] theorem aside_setPointers (wp : Nat) (s : State) : aside (setPointers wp s) = aside s := by
  unfold setPointers
  extract_lets s1 rp
  rw [aside_wf _ _ _ _ _ (by decide)]
  exact aside_wf _ _ _ _ _ (by decide)
@[simp] theorem aside_releaseUpTo (i : Int) (s : State) : aside (releaseUpTo i s) = aside s := by
  unfold releaseUpTo
  extract_lets out s1 s2 wp
  split
  · rfl
  · rw [aside_setPointers, aside_setOcc]
    exact aside_foldl _ _ _ (fun s x => aside_clearValid ..)
@[simp] theorem aside_rewind (i : Int) (s : State) : aside (rewind i s) = aside s := by
  unfold rewind
  extract_lets out s1 wp s2
  split
  · rfl
  · rw [aside_setPointers, aside_setOcc]
    exact aside_foldl _ _ _ (fun s x => aside_clearValid ..)
@[simp] theorem aside_raiseLate (cls : List Nat) (i : Int) (s : State) : aside (raiseLate cls i s) = aside s :=
  aside_foldl _ _ _ (fun _ _ => aside_alarmBit _ _ _ _ _ (lineReg_cl _ 0x1004 (by decide) (by decide)))
@[simp] theorem aside_encodeLine (i : Int) (input : List (Nat × List Nat)) (s : State) : aside (encodeLine i input s) = aside s := by
  unfold encodeLine
  have h1 : aside (rewind i s) = aside s := aside_rewind ..
  generalize rewind i s = s1 at h1 ⊢
  dsimp only
  split
  · have h2 : aside (wf R.COD_BUD 16 4 (budget s1) s1) = aside s := (aside_wf _ _ _ _ _ (by decide)).trans h1
    generalize wf R.COD_BUD 16 4 (budget s1) s1 = s2 at h2 ⊢
    split
    · refine Eq.trans ?_ h2
      refine Eq.trans ?_ ((aside_alarmBit R.LST_STAT 2 23 { line := i } (addSat R.LST_DROPCNT 0 16 1 s2) (by decide)).trans
        (aside_addSat _ _ _ _ _ (by decide)))
      rfl
    · have h3 : aside (if pipesWork s2 then readWords TabWord.conditions s2 else s2) = aside s := by
        split
        · rw [aside_readWords, h2]
        · exact h2
      generalize (if pipesWork s2 then readWords TabWord.conditions s2 else s2) = s3 at h3 ⊢
      split
      · generalize encodeRecord _ _ _ _ = e
        obtain ⟨c, red⟩ := e
        refine Eq.trans ?_ h3
        exact Eq.trans rfl (aside_foldl _ red s3 (fun s x => aside_logSegment ..))
      · exact h3
  · exact h1
theorem aside_startConditioning (n : Nat) (s : State) : aside (startConditioning n s) = aside s := by
  induction n generalizing s with
  | zero => rfl
  | succ n ih =>
    unfold startConditioning
    split
    · split
      · rename_i i _ _ _
        have h2 : ∀ x : Lst, aside (takeMap i { s with lst := x }) = aside s := fun x => (aside_takeMap ..).trans rfl
        extract_lets
        split
        · rw [ih, aside_raiseLate]; exact h2 _
        · rw [aside_encodeLine]; exact h2 _
      · rfl
    · rfl
@[simp] theorem aside_conditionNext (s : State) : aside (conditionNext s) = aside s := aside_startConditioning _ _
@[simp] theorem aside_settle (s : State) : aside (settle s) = aside s := (aside_conditionNext ..).trans (aside_beginAll ..)

end Sys2Proof.Machine
end

