-- ==== Sys2Proof/Laws/Memory.lean ====
section
/-! SUPPORT. Memory keeps its canonical form through each of its operations, and reads back what was stored. -/

namespace Sys2Proof.Machine

theorem memory_wf_set (m : List Host.Cell) (a : Nat) (b : Byte) (h : Memory.wf m = true) :
    Memory.wf (Sparse.set 0 m a b) = true := Sparse.wf_set (fun _ => 0) m a b h

theorem memory_wf_storeBytes (a : Nat) (l : List Byte) (m : List Host.Cell) (h : Memory.wf m = true) :
    Memory.wf (storeBytes a l m) = true := by
  induction l generalizing a m with
  | nil => exact h
  | cons b r ih => exact ih _ _ (memory_wf_set m a b h)

theorem memory_wf_writeBytes (a : Nat) (l : List Byte) (s : State) (h : Memory.wf s.mem = true) :
    Memory.wf (writeBytes a l s).mem = true := memory_wf_storeBytes a l s.mem h

theorem wfAbove_filter {α : Type} [DecidableEq α] (d : Nat → α) (p : Nat × α → Bool) (t : Tab α) (lo : Option Nat)
    (h : Sparse.wfAbove d lo t = true) : Sparse.wfAbove d lo (t.filter p) = true := by
  induction t generalizing lo with
  | nil => rfl
  | cons e r ih =>
    obtain ⟨k, v⟩ := e
    rw [List.filter_cons]
    split
    · simp only [Sparse.wfAbove, Bool.and_eq_true] at h ⊢
      exact ⟨h.1, ih _ h.2⟩
    · refine ih _ ?_
      simp only [Sparse.wfAbove, Bool.and_eq_true] at h
      obtain ⟨⟨h1, -⟩, h2⟩ := h
      cases lo with
      | none =>
        cases r with
        | nil => rfl
        | cons e' r' =>
          obtain ⟨k', v'⟩ := e'
          simp only [Sparse.wfAbove, Bool.and_eq_true] at h2 ⊢
          exact ⟨⟨trivial, h2.1.2⟩, h2.2⟩
      | some b =>
        have hb : b < k := by simpa using h1
        cases r with
        | nil => rfl
        | cons e' r' =>
          obtain ⟨k', v'⟩ := e'
          simp only [Sparse.wfAbove, Bool.and_eq_true, decide_eq_true_eq] at h2 ⊢
          exact ⟨⟨Nat.lt_trans hb h2.1.1, h2.1.2⟩, h2.2⟩

theorem memory_wf_emptyLineStore (s : State) (h : Memory.wf s.mem = true) : Memory.wf (emptyLineStore s).mem = true :=
  wfAbove_filter _ _ _ _ h

theorem memory_wf_reset : Memory.wf State.reset.mem = true := rfl

end Sys2Proof.Machine
end

