-- ==== Sys2Proof/Laws/Modes.lean ====
section
/-! SUPPORT. What frames on the links and a change of mode leave: the mode, its registers, and what they do not touch. -/

namespace Sys2Proof.Machine

theorem kept_mode {s t : State} (h : kept t = kept s) : t.mode = s.mode ∧ t.prev = s.prev ∧ t.cause = s.cause := by
  simp only [kept, Prod.mk.injEq] at h
  exact ⟨h.2.2.2.2.2.2.2.1, h.2.2.2.2.2.2.2.2.1, h.2.2.2.2.2.2.2.2.2⟩

/-- The parts of `still` one by one. -/
theorem still_parts {s t : State} (h : still t = still s) : t.pending = s.pending ∧ t.time = s.time ∧ t.patch = s.patch ∧
    t.sealed = s.sealed ∧ t.loader = s.loader ∧ t.jtag = s.jtag ∧ t.img = s.img := by
  simpa only [still, Prod.mk.injEq] using h

theorem bytes_parts {s t : State} (h : bytes t = bytes s) : t.mem = s.mem ∧ t.ue = s.ue ∧ t.ce = s.ce := by
  simpa only [bytes, Prod.mk.injEq] using h

/-! ### Frames and outputs -/

/-- Registers that frames leaving the Gen-3 ports and cut pulses write. -/
def LinkReg (a : Nat) : Prop :=
  a = R.PEEL_STAT ∨ a = R.TIL_ASUMH ∨ ∃ k, a = R.HLK_G3P_REPLAY k ∨ a = R.HLK_G3P_RETX k

/-- Only those registers, alarms, what left the tile, links and row groups differ. -/
def LinksOnly (s t : State) : Prop :=
  t = { s with regs := t.regs, cyc := t.cyc, egress := t.egress, wire := t.wire, links := t.links, pos := t.pos } ∧
  ∀ a, ¬ LinkReg a → rd a t = rd a s

theorem LinksOnly.refl (s : State) : LinksOnly s s := ⟨rfl, fun _ _ => rfl⟩

theorem LinksOnly.trans {s t u : State} (h : LinksOnly s t) (h' : LinksOnly t u) : LinksOnly s u := by
  refine ⟨?_, fun a ha => (h'.2 a ha).trans (h.2 a ha)⟩
  rw [h'.1, h.1]

theorem LinksOnly.foldl {α : Type} (f : State → α → State) (l : List α) (s : State) (h : ∀ s x, LinksOnly s (f s x)) :
    LinksOnly s (l.foldl f s) := by
  induction l generalizing s with
  | nil => exact .refl s
  | cons x r ih => exact (h s x).trans (ih _)

theorem LinksOnly.ite {s t u : State} (c : Prop) [Decidable c] (h : LinksOnly s t) (h' : LinksOnly s u) :
    LinksOnly s (if c then t else u) := by
  split
  · exact h
  · exact h'

theorem linksOnly_putG3 (k : Nat) (x : G3) (s : State) : LinksOnly s (putG3 k x s) :=
  ⟨(rfl), fun _ h => rd_wf_other _ _ _ _ (fun e => h (.inr (.inr ⟨k, .inl e⟩)))⟩

theorem linksOnly_emit (o : Out) (s : State) : LinksOnly s (emit o s) := ⟨(rfl), fun _ _ => (rfl)⟩

theorem linksOnly_putRg (g : Nat) (x : Rg) (s : State) : LinksOnly s (putRg g x s) := ⟨(rfl), fun _ _ => (rfl)⟩

/-- A PEEL_STAT bit with an alarm of a type above 31. -/
theorem linksOnly_alarm (i t : Nat) (x : Alarm) (s : State) (h : ¬ t < 32) : LinksOnly s (alarmBit R.PEEL_STAT i t x s) := by
  unfold alarmBit
  obtain ⟨y, e, h1⟩ := raiseAlarm_eq (wb R.PEEL_STAT i true s) t x
  obtain ⟨y', h2⟩ := wb_eq (wb R.PEEL_STAT i true s) (if t < 32 then R.TIL_ASUML else R.TIL_ASUMH) (t % 32) true
  obtain ⟨y'', h3⟩ := wb_eq s R.PEEL_STAT i true
  refine ⟨?_, fun a ha => ?_⟩
  · rw [h1, h2, h3]; rfl
  · rw [rd_raiseAlarm_ne, rd_wb_other _ _ _ (fun e => ha (.inl e))]
    rw [if_neg h]
    exact fun e => ha (.inr (.inl e))

theorem linksOnly_sendFrame (k : Nat) (f : Frame3) (s : State) : LinksOnly s (sendFrame k f s) :=
  (linksOnly_emit _ _).trans (linksOnly_putG3 _ _ _)

theorem linksOnly_abandonFrame (k : Nat) (f : Frame3) (s : State) : LinksOnly s (abandonFrame k f s) :=
  (linksOnly_putG3 _ _ _).trans (linksOnly_alarm _ _ _ _ (by decide))

theorem linksOnly_addSat (a lo w n : Nat) (s : State) (h : LinkReg a) : LinksOnly s (addSat a lo w n s) := by
  refine ⟨?_, fun b hb => rd_addSat_other _ _ _ _ (fun e => hb (e ▸ h))⟩
  obtain ⟨r, y, e⟩ := addSat_eq s a lo w n
  rw [e]

theorem linksOnly_retransmit (k : Nat) (f : Frame3) (s : State) : LinksOnly s (retransmit k f s) := by
  unfold retransmit
  dsimp only
  refine .ite _ (linksOnly_abandonFrame ..) ?_
  exact (linksOnly_addSat _ _ _ _ _ (.inr (.inr ⟨k, .inr rfl⟩))).trans
    ((linksOnly_putG3 _ _ _).trans (linksOnly_emit _ _))

theorem linksOnly_portTurn (k n : Nat) (s : State) : LinksOnly s (portTurn k n s) := by
  induction n generalizing s with
  | zero => exact .refl s
  | succ n ih =>
    unfold portTurn
    dsimp only
    refine .ite _ ?_ (.refl s)
    split
    · exact (linksOnly_putG3 _ _ _).trans ((linksOnly_sendFrame _ _ _).trans (ih _))
    · refine .ite _ (.refl s) (.ite _ (.refl s) ?_)
      split
      · exact (linksOnly_putG3 _ _ _).trans ((linksOnly_retransmit _ _ _).trans (ih _))
      · exact linksOnly_putG3 _ _ _

theorem linksOnly_portServe (k : Nat) (s : State) : LinksOnly s (portServe k s) := linksOnly_portTurn _ _ _

theorem linksOnly_servePorts (s : State) : LinksOnly s (servePorts s) := .foldl _ _ _ (fun _ _ => linksOnly_portServe _ _)

theorem linksOnly_sendAgain (k q : Nat) (s : State) : LinksOnly s (sendAgain k q s) :=
  (linksOnly_putG3 _ _ _).trans (linksOnly_portServe _ _)

theorem linksOnly_sendFireOn (ps : List Nat) (g : Nat) (q : Int) (t : Nat) (hold : Bool) (s : State) :
    LinksOnly s (sendFireOn ps g q t hold s) := by
  unfold sendFireOn
  dsimp only
  refine .ite _ ((linksOnly_putRg _ _ _).trans (.foldl _ _ _ (fun s k => ?_))) (.refl s)
  exact .ite _ ((linksOnly_putG3 _ _ _).trans (linksOnly_portServe _ _)) (.refl s)

theorem linksOnly_holdFrame (g : Nat) (q : Int) (s : State) : LinksOnly s (holdFrame g q s) := by
  unfold holdFrame
  split
  · exact .ite _ (linksOnly_sendFireOn ..) (.refl s)
  · exact .refl s

/-- Predictions withdrawn (R201, R204). -/
theorem linksOnly_withdrawFires (s : State) : LinksOnly s (withdrawFires s) := by
  unfold withdrawFires
  refine .foldl _ _ _ (fun s g => ?_)
  split
  · exact .ite _ (linksOnly_holdFrame ..) (.refl s)
  · exact .refl s

theorem linksOnly_strobeFall (o t : Nat) (s : State) : LinksOnly s (strobeFall o t s) := by
  unfold strobeFall emitPin
  exact .ite _ ⟨(rfl), fun _ _ => (rfl)⟩ ⟨(rfl), fun _ _ => (rfl)⟩

theorem linksOnly_lowerOutputs (m : Mode) (s : State) : LinksOnly s (lowerOutputs m s) := by
  unfold lowerOutputs
  exact .ite _ (.refl s) (.foldl _ _ _ (fun _ _ => linksOnly_strobeFall ..))

theorem linksOnly_leaveSpit (m : Mode) (s : State) : LinksOnly s (leaveSpit m s) := by
  unfold leaveSpit
  exact .ite _ ⟨(rfl), fun _ _ => (rfl)⟩ (.refl s)

/-! ### A change of mode (R453, R472) -/

/-- The fields that `noteMode` sets. -/
theorem noteMode_mode (m : Mode) (c : Nat) (f : Bool) (s : State) :
    (noteMode m c f s).mode = m ∧ (noteMode m c f s).prev = s.mode ∧ (noteMode m c f s).cause = c := by
  unfold noteMode
  refine ⟨rfl, ?_, rfl⟩
  dsimp only

/-- Registers that `noteMode` may write. -/
def ModeReg (a : Nat) : Prop := a ∈ [R.TIL_MCHGL, R.TIL_MCHGH, R.TIL_MCHGCNT, R.TIL_ASUMH]

/-- Only those and the links' registers, alarms, what left the tile, links, row groups and the mode differ. -/
def ModeOnly (s t : State) : Prop :=
  t = { s with regs := t.regs, cyc := t.cyc, egress := t.egress, wire := t.wire, links := t.links, pos := t.pos
               mode := t.mode, prev := t.prev, cause := t.cause, gateBlank := t.gateBlank, forcedAt := t.forcedAt
               iLast := t.iLast } ∧
  ∀ a, ¬ ModeReg a → ¬ LinkReg a → rd a t = rd a s

theorem ModeOnly.trans {s t u : State} (h : ModeOnly s t) (h' : ModeOnly t u) : ModeOnly s u := by
  refine ⟨?_, fun a h1 h2 => (h'.2 a h1 h2).trans (h.2 a h1 h2)⟩
  rw [h'.1, h.1]

theorem LinksOnly.modeOnly {s t : State} (h : LinksOnly s t) : ModeOnly s t := by
  refine ⟨?_, fun a _ h2 => h.2 a h2⟩
  rw [h.1]

theorem modeOnly_noteMode (m : Mode) (c : Nat) (f : Bool) (s : State) : ModeOnly s (noteMode m c f s) := by
  have h0 : ModeOnly s (addSat R.TIL_MCHGCNT 0 16 1 (wrLine R.TIL_MCHGL R.TIL_MCHGH s.pos.hwm s)) := by
    refine ⟨?_, fun a h1 _ => ?_⟩
    · obtain ⟨r, y, e⟩ := addSat_eq (wrLine R.TIL_MCHGL R.TIL_MCHGH s.pos.hwm s) R.TIL_MCHGCNT 0 16 1
      rw [e]; rfl
    · simp only [ModeReg, List.mem_cons, List.not_mem_nil, or_false, not_or] at h1
      rw [rd_addSat_other _ _ _ _ h1.2.2.1, wrLine, rd_wf_other _ _ _ _ h1.2.1, rd_wr_other _ _ h1.1]
  have h1 : ∀ s, ModeOnly s (tileAlarm 0x30 { idx := c } (addSat R.TIL_MCHGCNT 16 16 1 s)) := fun s => by
    refine ⟨?_, fun a h1 _ => ?_⟩
    · unfold tileAlarm
      obtain ⟨y, e, h⟩ := raiseAlarm_eq (addSat R.TIL_MCHGCNT 16 16 1 s) 63 { ({ idx := c } : Alarm) with code := 0x30 }
      obtain ⟨y', h'⟩ := wb_eq (addSat R.TIL_MCHGCNT 16 16 1 s) (if 63 < 32 then R.TIL_ASUML else R.TIL_ASUMH) (63 % 32) true
      obtain ⟨r, y'', h''⟩ := addSat_eq s R.TIL_MCHGCNT 16 16 1
      rw [h, h', h'']; rfl
    · simp only [ModeReg, List.mem_cons, List.not_mem_nil, or_false, not_or] at h1
      unfold tileAlarm
      rw [rd_raiseAlarm_ne, rd_addSat_other _ _ _ _ h1.2.2.1]
      rw [if_neg (by decide)]; exact h1.2.2.2
  unfold noteMode
  dsimp only
  cases f with
  | false => exact h0.trans ⟨(rfl), fun _ _ _ => (rfl)⟩
  | true => exact h0.trans ((h1 _).trans ⟨(rfl), fun _ _ _ => (rfl)⟩)

/-- All that a change of mode can do where it starts no composing and is no entry to SAFE. -/
theorem modeOnly_setMode (m : Mode) (c : Nat) (f : Bool) (s : State) (hm : composes m = false ∨ composes s.mode = true)
    (hs : m ≠ .safe) : ModeOnly s (setMode m c f s) := by
  unfold setMode intoComposing intoSafe
  rw [if_neg (by rcases hm with h | h <;> simp [h]), if_neg hs]
  exact (modeOnly_noteMode m c f s).trans ((linksOnly_leaveSpit ..).modeOnly.trans
    ((linksOnly_lowerOutputs ..).modeOnly.trans (linksOnly_withdrawFires _).modeOnly))

/-- A change of mode: the mode in force, the one before, the cause (R453, R472). -/
theorem setMode_mode (m : Mode) (c : Nat) (f : Bool) (s : State) :
    (setMode m c f s).mode = m ∧ (setMode m c f s).prev = s.mode ∧ (setMode m c f s).cause = c := by
  have h : kept (setMode m c f s) = kept (noteMode m c f s) := by
    unfold setMode
    simp
  have := kept_mode h
  rw [this.1, this.2.1, this.2.2]; exact noteMode_mode m c f s

/-- A change of mode that starts no composing leaves the memories. -/
theorem bytes_setMode (m : Mode) (c : Nat) (f : Bool) (s : State) (hm : composes m = false ∨ composes s.mode = true) :
    bytes (setMode m c f s) = bytes s := by
  unfold setMode intoComposing
  rw [if_neg (by rcases hm with h | h <;> simp [h])]
  simp

end Sys2Proof.Machine
end

