-- ==== Sys2Proof/Laws/Placed.lean ====
section
/-! SUPPORT. The position: both decoders, the one in use, arbitration, the high-water mark, the driving input. One lemma
for every operation that leaves them. -/

namespace Sys2Proof.Machine

set_option linter.unusedTactic false
set_option linter.unreachableTactic false
set_option linter.unusedSimpArgs false
set_option linter.unusedVariables false
set_option linter.tactic.unusedName false

/-- What only counts, arbitration, failover, boundaries and renumberings change of the position unit. -/
def placed (s : State) := (s.pos.d0, s.pos.d1, s.pos.use, s.pos.arb, s.pos.issued, s.pos.hwm, s.pos.onSec)
@[simp] theorem placed_mk (e : State) (pending : List Instr) (fresh : Nat) (time : Nat) (gated : Nat) (cyc : Cyc)
    (regs : Tab Word) (proof : Tab Word) (mem : List Host.Cell) (ue : List Nat) (ce : List Nat) (patch : Tab Nat)
    (wire : List Out) (mode : Mode) (prev : Mode) (cause : Nat) (sealed : Bool) (stages : Tab (Option (Nat × Nat)))
    (latches : Tab (List (Nat × Nat))) (rdata : Word) (rstat : Nat) (cells : Tab Cell) (pair : Tab PairCh) (tmr : Tab
    Tmr) (dma : Tab DmaEng) (tester : Tab Tester) (evLatch : Tab Nat) (evAhead : Tab Nat) (evBefore : Tab Nat) (cmp :
    Cmp) (lst : Lst) (links : Links) (wav : Wav) (fab : Fabric) (dlk : Dlk) (egress : Egress) (ingress : Ingress)
    (loader : Loader) (syn : Syn) (jtag : Jtag) (due : List (Int × Int)) (first : Option Int) (iLast : Option Int)
    (gateBlank : Bool) (blankDue : List Nat) (forcedAt : Option Nat) (proofAt : Nat) (sleepEntry : Bool) (waking :
    Bool) (tmrStopped : Bool) (sleepRatio : Tab Nat) (slowRatio : Tab Nat) (slowAt : Option Nat) (wdAt : Nat) (img :
    Nat) :
  placed (State.mk pending fresh time gated cyc regs proof mem ue ce patch wire mode prev cause sealed stages latches rdata rstat cells pair tmr dma tester evLatch evAhead evBefore e.pos cmp lst links wav fab dlk egress ingress loader syn jtag due first iLast gateBlank blankDue forcedAt proofAt sleepEntry waking tmrStopped sleepRatio slowRatio slowAt wdAt img) = placed e := (rfl)
@[simp] theorem placed_pos (e : State) (pending : List Instr) (fresh : Nat) (time : Nat) (gated : Nat) (cyc : Cyc)
    (regs : Tab Word) (proof : Tab Word) (mem : List Host.Cell) (ue : List Nat) (ce : List Nat) (patch : Tab Nat)
    (wire : List Out) (mode : Mode) (prev : Mode) (cause : Nat) (sealed : Bool) (stages : Tab (Option (Nat × Nat)))
    (latches : Tab (List (Nat × Nat))) (rdata : Word) (rstat : Nat) (cells : Tab Cell) (pair : Tab PairCh) (tmr : Tab
    Tmr) (dma : Tab DmaEng) (tester : Tab Tester) (evLatch : Tab Nat) (evAhead : Tab Nat) (evBefore : Tab Nat) (cmp :
    Cmp) (lst : Lst) (links : Links) (wav : Wav) (fab : Fabric) (dlk : Dlk) (egress : Egress) (ingress : Ingress)
    (loader : Loader) (syn : Syn) (jtag : Jtag) (due : List (Int × Int)) (first : Option Int) (iLast : Option Int)
    (gateBlank : Bool) (blankDue : List Nat) (forcedAt : Option Nat) (proofAt : Nat) (sleepEntry : Bool) (waking :
    Bool) (tmrStopped : Bool) (sleepRatio : Tab Nat) (slowRatio : Tab Nat) (slowAt : Option Nat) (wdAt : Nat) (img :
    Nat) (p_dropped : Option Nat) (p_agreed : Nat) (p_arbAt : Nat) (p_raw : List RawIn) (p_base : Dec) (p_lossForces
    : Bool) (p_illLine : Nat) (p_enc : Tab Enc) (p_win : List (Nat × Int)) (p_lastCount : Option Nat) (p_lastGap :
    Nat) (p_countAt : Nat) (p_nextAt : Option Nat) (p_lastBoundary : Option Nat) (p_ev : Tab EvIn) (p_reg : Tab
    RegCh) (p_ssi : Tab Ssi) (p_rg : Tab Rg) (p_sleepP : Int) :
  placed (State.mk pending fresh time gated cyc regs proof mem ue ce patch wire mode prev cause sealed stages latches rdata rstat cells pair tmr dma tester evLatch evAhead evBefore (Pos.mk e.pos.d0 e.pos.d1 e.pos.use p_dropped p_agreed e.pos.arb p_arbAt p_raw p_base e.pos.issued e.pos.hwm e.pos.onSec p_lossForces p_illLine p_enc p_win p_lastCount p_lastGap p_countAt p_nextAt p_lastBoundary p_ev p_reg p_ssi p_rg p_sleepP) cmp lst links wav fab dlk egress ingress loader syn jtag due first iLast gateBlank blankDue forcedAt proofAt sleepEntry waking tmrStopped sleepRatio slowRatio slowAt wdAt img) = placed e := (rfl)
@[simp] theorem placed_foldl {α : Type} (f : State → α → State) (l : List α) (s : State) (h : ∀ s x, placed (f s x) =
    placed s) :
    placed (l.foldl f s) = placed s := by
  induction l generalizing s with
  | nil => rfl
  | cons x r ih => rw [List.foldl_cons, ih, h]
@[simp] theorem placed_ite (c : Prop) [Decidable c] (a b : State) : placed (if c then a else b) = if c then placed a
    else placed b := by
  split <;> rfl

/-! ### Ops -/

@[simp] theorem placed_wr (a : Nat) (v : Word) (s : State) : placed (wr a v s) = placed s := by
  unfold wr; simp
@[simp] theorem placed_wf (a lo w x : Nat) (s : State) : placed (wf a lo w x s) = placed s := by
  unfold wf; simp
@[simp] theorem placed_noteSet (a i : Nat) (s : State) : placed (noteSet a i s) = placed s := by
  unfold noteSet; simp
@[simp] theorem placed_wb (a i : Nat) (b : Bool) (s : State) : placed (wb a i b s) = placed s := by
  unfold wb; simp
@[simp] theorem placed_putEvents (a : Nat) (l : List RcEv) (s : State) : placed (putEvents a l s) = placed s := by
  unfold putEvents; simp
@[simp] theorem placed_noteEvent (a lo w : Nat) (join : Option Nat → Nat) (s : State) : placed (noteEvent a lo w join
    s) = placed s := by
  unfold noteEvent; dsimp only; repeat' (first | (simp; done) | (refine (placed_foldl _ _ _ (fun s x => ?_)).trans ?_) | split | simp)
@[simp] theorem placed_clearFields (a : Nat) (m back : Word) (s : State) : placed (clearFields a m back s) = placed s
    := by
  unfold clearFields; simp
@[simp] theorem placed_addSat (a lo w n : Nat) (s : State) : placed (addSat a lo w n s) = placed s := by
  unfold addSat; simp
@[simp] theorem placed_keepMin (a lo w x : Nat) (s : State) : placed (keepMin a lo w x s) = placed s := by
  unfold keepMin; simp
@[simp] theorem placed_keepMax (a lo w x : Nat) (s : State) : placed (keepMax a lo w x s) = placed s := by
  unfold keepMax; simp
@[simp] theorem placed_wrLine (aL aH : Nat) (i : Int) (s : State) : placed (wrLine aL aH i s) = placed s := by
  unfold wrLine; simp
@[simp] theorem placed_drawn (s : State) : placed (drawn s) = placed s := by
  unfold drawn; simp
@[simp] theorem placed_writeBytes (a : Nat) (l : List Byte) (s : State) : placed (writeBytes a l s) = placed s := by
  unfold writeBytes; simp
@[simp] theorem placed_writeN (a n v : Nat) (s : State) : placed (writeN a n v s) = placed s := by
  unfold writeN; simp
@[simp] theorem placed_pushEvent (p : Packet) (s : State) : placed (pushEvent p s) = placed s := by
  unfold pushEvent; simp
@[simp] theorem placed_postEvent (kind cl m c detail : Nat) (s : State) : placed (postEvent kind cl m c detail s) =
    placed s := by
  unfold postEvent; simp
@[simp] theorem placed_pushTrace (p : Packet) (s : State) : placed (pushTrace p s) = placed s := by
  unfold pushTrace; simp
@[simp] theorem placed_raiseAlarm (typ : Nat) (x : Alarm) (s : State) : placed (raiseAlarm typ x s) = placed s := by
  unfold raiseAlarm; simp
@[simp] theorem placed_alarmBit (a i typ : Nat) (x : Alarm) (s : State) : placed (alarmBit a i typ x s) = placed s :=
    by
  unfold alarmBit; simp
@[simp] theorem placed_tileAlarm (code : Nat) (x : Alarm) (s : State) : placed (tileAlarm code x s) = placed s := by
  unfold tileAlarm; simp
@[simp] theorem placed_addressError (a : Nat) (s : State) : placed (addressError a s) = placed s := by
  unfold addressError; simp
@[simp] theorem placed_respond (v : Word) (st : Nat) (s : State) : placed (respond v st s) = placed s := by
  unfold respond; simp
@[simp] theorem placed_redLost (i : Nat) (s : State) : placed (redLost i s) = placed s := by
  unfold redLost; simp
@[simp] theorem placed_emit (o : Out) (s : State) : placed (emit o s) = placed s := by
  unfold emit; simp

/-! ### Events -/

@[simp] theorem placed_wb64 (aL aH i : Nat) (b : Bool) (s : State) : placed (wb64 aL aH i b s) = placed s := by
  unfold wb64; simp
@[simp] theorem placed_latchEdge (cl i : Nat) (s : State) : placed (latchEdge cl i s) = placed s := by
  unfold latchEdge; simp
@[simp] theorem placed_putRank (cl j rk : Nat) (s : State) : placed (putRank cl j rk s) = placed s := by
  unfold putRank; simp
@[simp] theorem placed_notePending (cl i : Nat) (s : State) : placed (notePending cl i s) = placed s := by
  unfold notePending; simp
@[simp] theorem placed_setPend (cl i rk : Nat) (s : State) : placed (setPend cl i rk s) = placed s := by
  unfold setPend; simp
@[simp] theorem placed_pendEdge (cl i rk : Nat) (s : State) : placed (pendEdge cl i rk s) = placed s := by
  unfold pendEdge; simp
@[simp] theorem placed_assertSource (cl i : Nat) (s : State) : placed (assertSource cl i s) = placed s := by
  unfold assertSource; simp
@[simp] theorem placed_levelRises (cl i : Nat) (was : Bool) (s : State) : placed (levelRises cl i was s) = placed s
    := by
  unfold levelRises; simp
@[simp] theorem placed_assertAll (i : Nat) (s : State) : placed (assertAll i s) = placed s := by
  unfold assertAll; simp
@[simp] theorem placed_releaseLatches (s : State) : placed (releaseLatches s) = placed s := by
  unfold releaseLatches; simp
@[simp] theorem placed_putCell (cl m : Nat) (x : Cell) (s : State) : placed (putCell cl m x s) = placed s := by
  unfold putCell; simp
@[simp] theorem placed_onCell (cl m : Nat) (f : Cell → Cell) (s : State) : placed (onCell cl m f s) = placed s := by
  unfold onCell; simp
@[simp] theorem placed_onCtx (cl m c : Nat) (f : Ctx → Ctx) (s : State) : placed (onCtx cl m c f s) = placed s := by
  unfold onCtx; simp
@[simp] theorem placed_giveCell (cl m c : Nat) (s : State) : placed (giveCell cl m c s) = placed s := by
  unfold giveCell; simp
@[simp] theorem placed_yieldCell (cl m : Nat) (s : State) : placed (yieldCell cl m s) = placed s := by
  unfold yieldCell; try lift_lets
  repeat' (first | (intro x; first | (have hx : placed x = placed s := (by simp only [x]; repeat' (first | rfl | assumption | (simp [*]; done) | (refine (placed_foldl _ _ _ (fun s x => ?_)).trans ?_) | split)); clear_value x) | clear_value x) | (first | rfl | assumption | (simp [*]; done) | (refine (placed_foldl _ _ _ (fun s x => ?_)).trans ?_) | split) | lift_lets)
@[simp] theorem placed_runBest (cl m : Nat) (s : State) : placed (runBest cl m s) = placed s := by
  unfold runBest; try lift_lets
  repeat' (first | (intro x; first | (have hx : placed x = placed s := (by simp only [x]; repeat' (first | rfl | assumption | (simp [*]; done) | (refine (placed_foldl _ _ _ (fun s x => ?_)).trans ?_) | split)); clear_value x) | clear_value x) | (first | rfl | assumption | (simp [*]; done) | (refine (placed_foldl _ _ _ (fun s x => ?_)).trans ?_) | split) | lift_lets)
@[simp] theorem placed_reschedule (cl m : Nat) (s : State) : placed (reschedule cl m s) = placed s := by
  unfold reschedule; try lift_lets
  repeat' (first | (intro x; first | (have hx : placed x = placed s := (by simp only [x]; repeat' (first | rfl | assumption | (simp [*]; done) | (refine (placed_foldl _ _ _ (fun s x => ?_)).trans ?_) | split)); clear_value x) | clear_value x) | (first | rfl | assumption | (simp [*]; done) | (refine (placed_foldl _ _ _ (fun s x => ?_)).trans ?_) | split) | lift_lets)
@[simp] theorem placed_endService (cl m c : Nat) (s : State) : placed (endService cl m c s) = placed s := by
  unfold endService; try lift_lets
  repeat' (first | (intro x; first | (have hx : placed x = placed s := (by simp only [x]; repeat' (first | rfl | assumption | (simp [*]; done) | (refine (placed_foldl _ _ _ (fun s x => ?_)).trans ?_) | split)); clear_value x) | clear_value x) | (first | rfl | assumption | (simp [*]; done) | (refine (placed_foldl _ _ _ (fun s x => ?_)).trans ?_) | split) | lift_lets)
@[simp] theorem placed_offerAgain (cl : Nat) (k : Ctx) (s : State) : placed (offerAgain cl k s) = placed s := by
  unfold offerAgain; (repeat' split) <;> simp
@[simp] theorem placed_stopCtx (cl m c : Nat) (s : State) : placed (stopCtx cl m c s) = placed s := by
  unfold stopCtx; simp
@[simp] theorem placed_startCtx (cl m c : Nat) (s : State) : placed (startCtx cl m c s) = placed s := by
  unfold startCtx; simp
@[simp] theorem placed_startSet (cl m : Nat) (s : State) : placed (startSet cl m s) = placed s := by
  unfold startSet; simp
@[simp] theorem placed_faultIn7 (cl m code : Nat) (s : State) : placed (faultIn7 cl m code s) = placed s := by
  unfold faultIn7; simp
@[simp] theorem placed_takeTrap (cl m : Nat) (t : TrapRec) (s : State) : placed (takeTrap cl m t s) = placed s := by
  unfold takeTrap; simp
@[simp] theorem placed_raiseTrap (cl m c code pc slot adr : Nat) (s : State) : placed (raiseTrap cl m c code pc slot
    adr s) = placed s := by
  unfold raiseTrap; dsimp only; repeat' (first | (simp; done) | (refine (placed_foldl _ _ _ (fun s x => ?_)).trans ?_) | split | simp)
@[simp] theorem placed_forgetPending (cl i : Nat) (s : State) : placed (forgetPending cl i s) = placed s := by
  unfold forgetPending; simp
@[simp] theorem placed_claimSource (cl i : Nat) (s : State) : placed (claimSource cl i s) = placed s := by
  unfold claimSource; simp
@[simp] theorem placed_deliver (cl i e : Nat) (s : State) : placed (deliver cl i e s) = placed s := by
  unfold deliver; simp
@[simp] theorem placed_countWithheld (cl i : Nat) (s : State) : placed (countWithheld cl i s) = placed s := by
  unfold countWithheld; simp
@[simp] theorem placed_tryDeliver (cl : Nat) (l : List Nat) (s : State) : placed (tryDeliver cl l s) = placed s := by
  unfold tryDeliver
  extract_lets skipped t
  have h : placed t = placed s := placed_foldl _ _ _ (fun _ _ => placed_countWithheld ..)
  clear_value t
  generalize l.drop skipped.length = d
  cases d with
  | nil => exact h
  | cons i r =>
    dsimp only
    generalize targetOf cl i s = e
    cases e with
    | none => exact h
    | some e => exact (placed_deliver ..).trans ((placed_countWithheld ..).trans h)

/-! ### Composer -/

@[simp] theorem placed_putSlice (cl : Nat) (x : Slice) (s : State) : placed (putSlice cl x s) = placed s := by
  unfold putSlice; simp
@[simp] theorem placed_onSlice (cl : Nat) (f : Slice → Slice) (s : State) : placed (onSlice cl f s) = placed s := by
  unfold onSlice; simp
@[simp] theorem placed_tileUe (s : State) : placed (tileUe s) = placed s := by
  unfold tileUe; simp
@[simp] theorem placed_tileCe (s : State) : placed (tileCe s) = placed s := by
  unfold tileCe; simp
@[simp] theorem placed_tileReads (ues ces : Nat) (s : State) : placed (tileReads ues ces s) = placed s := by
  unfold tileReads; simp
@[simp] theorem placed_putSeg (cl n : Nat) (m : Option MapSeg) (s : State) : placed (putSeg cl n m s) = placed s := by
  unfold putSeg; simp
@[simp] theorem placed_refreshSeg (cl n : Nat) (i : Int) (s : State) : placed (refreshSeg cl n i s) = placed s := by
  unfold refreshSeg; simp
@[simp] theorem placed_takeStream (cl : Nat) (i : Int) (s : State) : placed (takeStream cl i s) = placed s := by
  unfold takeStream; dsimp only; repeat' (first | (simp; done) | (refine (placed_foldl _ _ _ (fun s x => ?_)).trans ?_) | split | simp)
@[simp] theorem placed_pantryUe (cl w : Nat) (s : State) : placed (pantryUe cl w s) = placed s := by
  unfold pantryUe; simp
@[simp] theorem placed_pantryCe (cl : Nat) (s : State) : placed (pantryCe cl s) = placed s := by
  unfold pantryCe; simp
@[simp] theorem placed_composeNow (cl : Nat) (i : Int) (s : State) : placed (composeNow cl i s) = placed s := by
  unfold composeNow; dsimp only; repeat' (first | (simp; done) | (refine (placed_foldl _ _ _ (fun s x => ?_)).trans ?_) | split | simp)
@[simp] theorem placed_putProof (a : Nat) (v : Word) (s : State) : placed (putProof a v s) = placed s := by
  unfold putProof; simp
@[simp] theorem placed_activateProof (cl : Nat) (s : State) : placed (activateProof cl s) = placed s := by
  unfold activateProof; simp
@[simp] theorem placed_reportCommit (nozzle : Bool) (issuer result : Nat) (s : State) : placed (reportCommit nozzle
    issuer result s) = placed s := by
  unfold reportCommit; simp
@[simp] theorem placed_takeCommits (p : PendCommit → Bool) (mask : Nat) (s : State) : placed (takeCommits p mask s) =
    placed s := by
  unfold takeCommits; simp
@[simp] theorem placed_takeProof (cl : Nat) (i : Int) (s : State) : placed (takeProof cl i s) = placed s := by
  unfold takeProof; try lift_lets
  repeat' (first | (intro x; first | (have hx : placed x = placed s := (by simp only [x]; repeat' (first | rfl | assumption | (simp [*]; done) | (refine (placed_foldl _ _ _ (fun s x => ?_)).trans ?_) | split)); clear_value x) | clear_value x) | (first | rfl | assumption | (simp [*]; done) | (refine (placed_foldl _ _ _ (fun s x => ?_)).trans ?_) | split) | lift_lets)
@[simp] theorem placed_startLine (cl : Nat) (i : Int) (s : State) : placed (startLine cl i s) = placed s := by
  unfold startLine; simp
@[simp] theorem placed_beginNext (cl : Nat) (s : State) : placed (beginNext cl s) = placed s := by
  unfold beginNext; try lift_lets
  repeat' (first | (intro x; first | (have hx : placed x = placed s := (by simp only [x]; repeat' (first | rfl | assumption | (simp [*]; done) | (refine (placed_foldl _ _ _ (fun s x => ?_)).trans ?_) | split)); clear_value x) | clear_value x) | (first | rfl | assumption | (simp [*]; done) | (refine (placed_foldl _ _ _ (fun s x => ?_)).trans ?_) | split) | lift_lets)
@[simp] theorem placed_beginAll (s : State) : placed (beginAll s) = placed s := by
  unfold beginAll; simp

/-! ### PosBase -/

@[simp] theorem placed_putRg (g : Nat) (x : Rg) (s : State) : placed (putRg g x s) = placed s := by
  unfold putRg; simp
@[simp] theorem placed_putEv (e : Nat) (x : EvIn) (s : State) : placed (putEv e x s) = placed s := by
  unfold putEv; simp
@[simp] theorem placed_putReg (k : Nat) (x : RegCh) (s : State) : placed (putReg k x s) = placed s := by
  unfold putReg; simp
@[simp] theorem placed_putSsi (n : Nat) (x : Ssi) (s : State) : placed (putSsi n x s) = placed s := by
  unfold putSsi; simp
@[simp] theorem placed_wr48 (aL aH : Nat) (i : Int) (s : State) : placed (wr48 aL aH i s) = placed s := by
  unfold wr48; simp
@[simp] theorem placed_putCmp (j : Nat) (v : Int) (s : State) : placed (putCmp j v s) = placed s := by
  unfold putCmp; simp
@[simp] theorem placed_putRegNext (k : Nat) (v : Int) (s : State) : placed (putRegNext k v s) = placed s := by
  unfold putRegNext; simp
@[simp] theorem placed_keepPlacement (g now : Nat) (old : Option (Fire × Nat)) (s : State) : placed (keepPlacement g
    now old s) = placed s := by
  unfold keepPlacement; simp
@[simp] theorem placed_trackReversal (s : State) : placed (trackReversal s) = placed s := by
  unfold trackReversal; simp

/-! ### Nozzle -/

@[simp] theorem placed_readWord (w : TabWord) (s : State) : placed (readWord w s) = placed s := by
  unfold readWord; simp
@[simp] theorem placed_readWords (p : TabWord → Bool) (s : State) : placed (readWords p s) = placed s := by
  unfold readWords; (repeat' split) <;> simp
@[simp] theorem placed_readNoz (staged : Bool) (g n : Nat) (s : State) : placed (readNoz staged g n s) = placed s :=
    by
  unfold readNoz; simp
@[simp] theorem placed_takeMap (i : Int) (s : State) : placed (takeMap i s) = placed s := by
  unfold takeMap; try lift_lets
  repeat' (first | (intro x; first | (have hx : placed x = placed s := (by simp only [x]; repeat' (first | rfl | assumption | (simp [*]; done) | (refine (placed_foldl _ _ _ (fun s x => ?_)).trans ?_) | split)); clear_value x) | clear_value x) | (first | rfl | assumption | (simp [*]; done) | (refine (placed_foldl _ _ _ (fun s x => ?_)).trans ?_) | split) | lift_lets)

/-! ### Codec -/

@[simp] theorem placed_logSegment (i : Int) (g j ver mode : Nat) (codes : List Nat) (s : State) : placed (logSegment
    i g j ver mode codes s) = placed s := by
  unfold logSegment; simp
@[simp] theorem placed_writeEntry (i : Int) (v : Nat) (s : State) : placed (writeEntry i v s) = placed s := by
  unfold writeEntry; simp
@[simp] theorem placed_clearValid (i : Int) (s : State) : placed (clearValid i s) = placed s := by
  unfold clearValid; simp
@[simp] theorem placed_setOcc (o : Nat) (s : State) : placed (setOcc o s) = placed s := by
  unfold setOcc; simp
@[simp] theorem placed_setPointers (wp : Nat) (s : State) : placed (setPointers wp s) = placed s := by
  unfold setPointers; simp
@[simp] theorem placed_releaseUpTo (i : Int) (s : State) : placed (releaseUpTo i s) = placed s := by
  unfold releaseUpTo; simp
@[simp] theorem placed_rewind (i : Int) (s : State) : placed (rewind i s) = placed s := by
  unfold rewind; simp
@[simp] theorem placed_raiseLate (cls : List Nat) (i : Int) (s : State) : placed (raiseLate cls i s) = placed s := by
  unfold raiseLate; simp
@[simp] theorem placed_encodeLine (i : Int) (input : List (Nat × List Nat)) (s : State) : placed (encodeLine i input
    s) = placed s := by
  unfold encodeLine; simp
@[simp] theorem placed_startConditioning (n : Nat) (s : State) : placed (startConditioning n s) = placed s := by
  induction n generalizing s with
  | zero => rfl
  | succ n ih =>
    unfold startConditioning
    repeat' (first | (simp [ih]; done) | split | simp [ih])
@[simp] theorem placed_conditionNext (s : State) : placed (conditionNext s) = placed s := by
  unfold conditionNext; simp
@[simp] theorem placed_writeRing (b : Nat) (l : List Byte) (s : State) : placed (writeRing b l s) = placed s := by
  unfold writeRing; simp
@[simp] theorem placed_codecReport (c : Coded) (blocks : Nat) (s : State) : placed (codecReport c blocks s) = placed
    s := by
  unfold codecReport; simp
@[simp] theorem placed_storeLine (c : Coded) (s : State) : placed (storeLine c s) = placed s := by
  unfold storeLine; try lift_lets
  repeat' (first | (intro x; first | (have hx : placed x = placed s := (by simp only [x]; repeat' (first | rfl | assumption | (simp [*]; done) | (refine (placed_foldl _ _ _ (fun s x => ?_)).trans ?_) | split)); clear_value x) | clear_value x) | (first | rfl | assumption | (simp [*]; done) | (refine (placed_foldl _ _ _ (fun s x => ?_)).trans ?_) | split) | lift_lets)
@[simp] theorem placed_lineDone (c : Coded) (s : State) : placed (lineDone c s) = placed s := by
  unfold lineDone; simp

/-! ### Wave -/

@[simp] theorem placed_putVoice (v : Nat) (x : Voice) (s : State) : placed (putVoice v x s) = placed s := by
  unfold putVoice; simp
@[simp] theorem placed_putOut (c : Nat) (x : WOut) (s : State) : placed (putOut c x s) = placed s := by
  unfold putOut; simp
@[simp] theorem placed_trigger (v t : Nat) (s : State) : placed (trigger v t s) = placed s := by
  unfold trigger; simp
@[simp] theorem placed_rowTrigger (g t : Nat) (fired : Bool) (s : State) : placed (rowTrigger g t fired s) = placed s
    := by
  unfold rowTrigger; simp
@[simp] theorem placed_timerTrigger (cl t c : Nat) (s : State) : placed (timerTrigger cl t c s) = placed s := by
  unfold timerTrigger; simp
@[simp] theorem placed_reading (x : Nat) (t : Int) (s : State) : placed (reading x t s) = placed s := by
  unfold reading; dsimp only; repeat' (first | (simp; done) | (refine (placed_foldl _ _ _ (fun s x => ?_)).trans ?_) | split)
@[simp] theorem placed_pwmEdge (e : Nat) (rising : Bool) (t : Nat) (s : State) : placed (pwmEdge e rising t s) =
    placed s := by
  unfold pwmEdge; dsimp only; repeat' (first | (simp; done) | (refine (placed_foldl _ _ _ (fun s x => ?_)).trans ?_) | split | simp)
@[simp] theorem placed_jesdStart (s : State) : placed (jesdStart s) = placed s := by
  unfold jesdStart; simp
@[simp] theorem placed_jesdIdle (s : State) : placed (jesdIdle s) = placed s := by
  unfold jesdIdle; simp
@[simp] theorem placed_waveSafe (s : State) : placed (waveSafe s) = placed s := by
  unfold waveSafe; simp

/-! ### Links -/

@[simp] theorem placed_putG3 (k : Nat) (x : G3) (s : State) : placed (putG3 k x s) = placed s := by
  unfold putG3; simp
@[simp] theorem placed_emitFrame (k : Nat) (f : Frame3) (s : State) : placed (emitFrame k f s) = placed s := by
  unfold emitFrame; simp
@[simp] theorem placed_sendFrame (k : Nat) (f : Frame3) (s : State) : placed (sendFrame k f s) = placed s := by
  unfold sendFrame; simp
@[simp] theorem placed_abandonFrame (k : Nat) (f : Frame3) (s : State) : placed (abandonFrame k f s) = placed s := by
  unfold abandonFrame; simp
@[simp] theorem placed_retransmit (k : Nat) (f : Frame3) (s : State) : placed (retransmit k f s) = placed s := by
  unfold retransmit; simp
@[simp] theorem placed_portTurn (k : Nat) (n : Nat) (s : State) : placed (portTurn k n s) = placed s := by
  induction n generalizing s with
  | zero => rfl
  | succ n ih =>
    unfold portTurn; repeat' (first | (simp [ih]; done) | split | simp [ih])
@[simp] theorem placed_portServe (k : Nat) (s : State) : placed (portServe k s) = placed s := by
  unfold portServe; simp
@[simp] theorem placed_sendAgain (k q : Nat) (s : State) : placed (sendAgain k q s) = placed s := by
  unfold sendAgain; simp
@[simp] theorem placed_servePorts (s : State) : placed (servePorts s) = placed s := by
  unfold servePorts; simp
@[simp] theorem placed_sendFireOn (ps : List Nat) (g : Nat) (q : Int) (t : Nat) (hold : Bool) (s : State) : placed
    (sendFireOn ps g q t hold s) = placed s := by
  unfold sendFireOn; simp
@[simp] theorem placed_sendFire (g : Nat) (q : Int) (t : Nat) (hold : Bool) (s : State) : placed (sendFire g q t hold
    s) = placed s := by
  unfold sendFire; simp
@[simp] theorem placed_holdFrame (g : Nat) (q : Int) (s : State) : placed (holdFrame g q s) = placed s := by
  unfold holdFrame; try lift_lets
  repeat' (first | (intro x; first | (have hx : placed x = placed s := (by simp only [x]; repeat' (first | rfl | assumption | (simp [*]; done) | (refine (placed_foldl _ _ _ (fun s x => ?_)).trans ?_) | split)); clear_value x) | clear_value x) | (first | rfl | assumption | (simp [*]; done) | (refine (placed_foldl _ _ _ (fun s x => ?_)).trans ?_) | split) | lift_lets)
@[simp] theorem placed_withdrawFires (s : State) : placed (withdrawFires s) = placed s := by
  unfold withdrawFires; try lift_lets
  repeat' (first | (intro x; first | (have hx : placed x = placed s := (by simp only [x]; repeat' (first | rfl | assumption | (simp [*]; done) | (refine (placed_foldl _ _ _ (fun s x => ?_)).trans ?_) | split)); clear_value x) | clear_value x) | (first | rfl | assumption | (simp [*]; done) | (refine (placed_foldl _ _ _ (fun s x => ?_)).trans ?_) | split) | lift_lets)
@[simp] theorem placed_fireUpdates (s : State) : placed (fireUpdates s) = placed s := by
  unfold fireUpdates
  refine (placed_foldl _ _ _ (fun s x => ?_)).trans (placed_withdrawFires s)
  repeat' (first | rfl | (simp; done) | split)
@[simp] theorem placed_emitPin (o : Out) (s : State) : placed (emitPin o s) = placed s := by
  unfold emitPin; simp
@[simp] theorem placed_strobeFall (o t : Nat) (s : State) : placed (strobeFall o t s) = placed s := by
  unfold strobeFall; simp
@[simp] theorem placed_cutPulse (o t : Nat) (q : Int) (g : Nat) (s : State) : placed (cutPulse o t q g s) = placed s
    := by
  unfold cutPulse; simp
@[simp] theorem placed_strobeRise (o t : Nat) (q : Int) (g : Nat) (s : State) : placed (strobeRise o t q g s) =
    placed s := by
  unfold strobeRise; try lift_lets
  repeat' (first | (intro x; first | (have hx : placed x = placed s := (by simp only [x]; repeat' (first | rfl | assumption | (simp [*]; done) | (refine (placed_foldl _ _ _ (fun s x => ?_)).trans ?_) | split)); clear_value x) | clear_value x) | (first | rfl | assumption | (simp [*]; done) | (refine (placed_foldl _ _ _ (fun s x => ?_)).trans ?_) | split) | lift_lets)
@[simp] theorem placed_pulse (g t : Nat) (q : Int) (late : List (Nat × Nat)) (sup : List Nat) (s : State) : placed
    (pulse g t q late sup s) = placed s := by
  unfold pulse; simp
@[simp] theorem placed_emitGen2 (k : Nat) (body : List Byte) (abort : Bool) (s : State) : placed (emitGen2 k body
    abort s) = placed s := by
  unfold emitGen2; simp
@[simp] theorem placed_abortGen2 (k : Nat) (q : Int) (s : State) : placed (abortGen2 k q s) = placed s := by
  unfold abortGen2; dsimp only; repeat' (first | (simp; done) | (refine (placed_foldl _ _ _ (fun s x => ?_)).trans ?_) | split | simp)
@[simp] theorem placed_cutGen2 (k : Nat) (s : State) : placed (cutGen2 k s) = placed s := by
  unfold cutGen2; (repeat' split) <;> simp
@[simp] theorem placed_dropUnsent (g : Nat) (q : Int) (fires : Bool) (s : State) : placed (dropUnsent g q fires s).1
    = placed s := by
  unfold dropUnsent; simp
@[simp] theorem placed_fireNow (g : Nat) (f : Fire) (t : Nat) (s : State) : placed (fireNow g f t s) = placed s := by
  unfold fireNow; dsimp only; repeat' (first | (simp; done) | (refine (placed_foldl _ _ _ (fun s x => ?_)).trans ?_) | split | simp)
@[simp] theorem placed_lineStoreUe (a : Nat) (s : State) : placed (lineStoreUe a s) = placed s := by
  unfold lineStoreUe; simp
@[simp] theorem placed_putCopy (g : Nat) (c : Option CopyBuf) (s : State) : placed (putCopy g c s) = placed s := by
  unfold putCopy; simp
@[simp] theorem placed_peelDo (g : Nat) (q i : Int) (quiet : Bool) (s : State) : placed (peelDo g q i quiet s).1 =
    placed s := by
  unfold peelDo; dsimp only; repeat' (first | (simp; done) | (refine (placed_foldl _ _ _ (fun s x => ?_)).trans ?_) | split | simp)
@[simp] theorem placed_queueXfers (g : Nat) (q tq : Int) (codes : List Nat) (poison : List Bool) (red noFire spit
    zero : Bool) (s : State) : placed (queueXfers g q tq codes poison red noFire spit zero s) = placed s := by
  unfold queueXfers; simp
@[simp] theorem placed_peelTake (g : Nat) (q i n : Int) (s : State) : placed (peelTake g q i n s).1 = placed s := by
  unfold peelTake; try lift_lets
  repeat' (first | (intro x; first | (have hx : placed x = placed s := (by simp only [x]; repeat' (first | rfl | assumption | (simp [*]; done) | (refine (placed_foldl _ _ _ (fun s x => ?_)).trans ?_) | split)); clear_value x) | clear_value x) | (first | rfl | assumption | (simp [*]; done) | (refine (placed_foldl _ _ _ (fun s x => ?_)).trans ?_) | split) | lift_lets)
@[simp] theorem placed_peelRead (b : Int) (g : Nat) (s : State) : placed (peelRead b g s) = placed s := by
  unfold peelRead; dsimp only; repeat' (first | (simp; done) | (refine (placed_foldl _ _ _ (fun s x => ?_)).trans ?_) | split | simp)

/-! ### Modes -/

@[simp] theorem placed_mapSlices (f : Slice → Slice) (s : State) : placed (mapSlices f s) = placed s := by
  unfold mapSlices; simp
@[simp] theorem placed_enterComposing (s : State) : placed (enterComposing s) = placed s := by
  unfold enterComposing; simp
@[simp] theorem placed_settle (s : State) : placed (settle s) = placed s := by
  unfold settle; simp
@[simp] theorem placed_withdrawSent (g : Nat) (s : State) : placed (withdrawSent g s) = placed s := by
  unfold withdrawSent; try lift_lets
  repeat' (first | (intro x; first | (have hx : placed x = placed s := (by simp only [x]; repeat' (first | rfl | assumption | (simp [*]; done) | (refine (placed_foldl _ _ _ (fun s x => ?_)).trans ?_) | split)); clear_value x) | clear_value x) | (first | rfl | assumption | (simp [*]; done) | (refine (placed_foldl _ _ _ (fun s x => ?_)).trans ?_) | split) | lift_lets)
@[simp] theorem placed_safeEntry (s : State) : placed (safeEntry s) = placed s := by
  unfold safeEntry; dsimp only; repeat' (first | (simp; done) | (refine (placed_foldl _ _ _ (fun s x => ?_)).trans ?_) | split | simp)
@[simp] theorem placed_noteMode (m : Mode) (cause : Nat) (forced : Bool) (s : State) : placed (noteMode m cause
    forced s) = placed s := by
  unfold noteMode; simp
@[simp] theorem placed_lowerOutputs (m : Mode) (s : State) : placed (lowerOutputs m s) = placed s := by
  unfold lowerOutputs; simp
@[simp] theorem placed_leaveSpit (from_ : Mode) (s : State) : placed (leaveSpit from_ s) = placed s := by
  unfold leaveSpit; simp
@[simp] theorem placed_intoSafe (m : Mode) (s : State) : placed (intoSafe m s) = placed s := by
  unfold intoSafe; simp
@[simp] theorem placed_intoComposing (m from_ : Mode) (s : State) : placed (intoComposing m from_ s) = placed s := by
  unfold intoComposing; simp
@[simp] theorem placed_setMode (m : Mode) (cause : Nat) (forced : Bool) (s : State) : placed (setMode m cause forced
    s) = placed s := by
  unfold setMode; simp
@[simp] theorem placed_forceSafe (cause : Nat) (s : State) : placed (forceSafe cause s) = placed s := by
  unfold forceSafe; simp
@[simp] theorem placed_forceBlank (cause : Nat) (s : State) : placed (forceBlank cause s) = placed s := by
  unfold forceBlank; simp
@[simp] theorem placed_boundaryStartBlank (s : State) : placed (boundaryStartBlank s) = placed s := by
  unfold boundaryStartBlank; try lift_lets
  repeat' (first | (intro x; first | (have hx : placed x = placed s := (by simp only [x]; repeat' (first | rfl | assumption | (simp [*]; done) | (refine (placed_foldl _ _ _ (fun s x => ?_)).trans ?_) | split)); clear_value x) | clear_value x) | (first | rfl | assumption | (simp [*]; done) | (refine (placed_foldl _ _ _ (fun s x => ?_)).trans ?_) | split) | lift_lets)
@[simp] theorem placed_boundaryEndForce (s : State) : placed (boundaryEndForce s) = placed s := by
  unfold boundaryEndForce; simp
@[simp] theorem placed_answerRequest (result n : Nat) (s : State) : placed (answerRequest result n s) = placed s := by
  unfold answerRequest; simp
@[simp] theorem placed_turnedAway (w : Writer) (s : State) : placed (turnedAway w s) = placed s := by
  unfold turnedAway; try lift_lets
  repeat' (first | (intro x; first | (have hx : placed x = placed s := (by simp only [x]; repeat' (first | rfl | assumption | (simp [*]; done) | (refine (placed_foldl _ _ _ (fun s x => ?_)).trans ?_) | split)); clear_value x) | clear_value x) | (first | rfl | assumption | (simp [*]; done) | (refine (placed_foldl _ _ _ (fun s x => ?_)).trans ?_) | split) | lift_lets)
@[simp] theorem placed_plainRequest (t : Mode) (s : State) : placed (plainRequest t s) = placed s := by
  unfold plainRequest; simp
@[simp] theorem placed_wake (s : State) : placed (wake s) = placed s := by
  unfold wake; simp
@[simp] theorem placed_motionWake (s : State) : placed (motionWake s) = placed s := by
  unfold motionWake; simp
@[simp] theorem placed_emptyLineStore (s : State) : placed (emptyLineStore s) = placed s := by
  unfold emptyLineStore; simp
@[simp] theorem placed_requestIdle (s : State) : placed (requestIdle s) = placed s := by
  unfold requestIdle; simp
@[simp] theorem placed_requestSleep (s : State) : placed (requestSleep s) = placed s := by
  unfold requestSleep; simp
@[simp] theorem placed_requestIllegal (n : Nat) (s : State) : placed (requestIllegal n s) = placed s := by
  unfold requestIllegal; simp
@[simp] theorem placed_requestMode (n : Nat) (s : State) : placed (requestMode n s) = placed s := by
  unfold requestMode; try lift_lets
  repeat' (first | (intro x; first | (have hx : placed x = placed s := (by simp only [x]; repeat' (first | rfl | assumption | (simp [*]; done) | (refine (placed_foldl _ _ _ (fun s x => ?_)).trans ?_) | split)); clear_value x) | clear_value x) | (first | rfl | assumption | (simp [*]; done) | (refine (placed_foldl _ _ _ (fun s x => ?_)).trans ?_) | split) | lift_lets)

/-! ### Pairs -/

@[simp] theorem placed_stagePut (w : Writer) (h v : Nat) (s : State) : placed (stagePut w h v s) = placed s := by
  unfold stagePut; simp
@[simp] theorem placed_stageTake (w : Writer) (h : Nat) (s : State) : placed (stageTake w h s).2 = placed s := by
  unfold stageTake; try lift_lets
  repeat' (first | (intro x; first | (have hx : placed x = placed s := (by simp only [x]; repeat' (first | rfl | assumption | (simp [*]; done) | (refine (placed_foldl _ _ _ (fun s x => ?_)).trans ?_) | split)); clear_value x) | clear_value x) | (first | rfl | assumption | (simp [*]; done) | (refine (placed_foldl _ _ _ (fun s x => ?_)).trans ?_) | split) | lift_lets)
@[simp] theorem placed_latchPut (w : Writer) (l : List (Nat × Nat)) (s : State) : placed (latchPut w l s) = placed s
    := by
  unfold latchPut; simp
@[simp] theorem placed_latchTake (w : Writer) (h : Nat) (s : State) : placed (latchTake w h s).2 = placed s := by
  unfold latchTake; try lift_lets
  repeat' (first | (intro x; first | (have hx : placed x = placed s := (by simp only [x]; repeat' (first | rfl | assumption | (simp [*]; done) | (refine (placed_foldl _ _ _ (fun s x => ?_)).trans ?_) | split)); clear_value x) | clear_value x) | (first | rfl | assumption | (simp [*]; done) | (refine (placed_foldl _ _ _ (fun s x => ?_)).trans ?_) | split) | lift_lets)

/-! ### Timers -/

@[simp] theorem placed_putTmr (cl n : Nat) (x : Tmr) (s : State) : placed (putTmr cl n x s) = placed s := by
  unfold putTmr; simp
@[simp] theorem placed_setCnt (cl n v : Nat) (s : State) : placed (setCnt cl n v s) = placed s := by
  unfold setCnt; simp
@[simp] theorem placed_onNow (cl n : Nat) (f : TmrNow → TmrNow) (s : State) : placed (onNow cl n f s) = placed s := by
  unfold onNow; simp
@[simp] theorem placed_spitStart (s : State) : placed (spitStart s) = placed s := by
  unfold spitStart; simp
@[simp] theorem placed_dmaRequest (cl n : Nat) (s : State) : placed (dmaRequest cl n s) = placed s := by
  unfold dmaRequest; simp
@[simp] theorem placed_timerOutputs (cl n c : Nat) (ovf mat : Bool) (s : State) : placed (timerOutputs cl n c ovf mat
    s) = placed s := by
  unfold timerOutputs; simp
@[simp] theorem placed_capture (cl n : Nat) (s : State) : placed (capture cl n s) = placed s := by
  unfold capture; dsimp only; repeat' (first | (simp; done) | (refine (placed_foldl _ _ _ (fun s x => ?_)).trans ?_) | split | simp)
@[simp] theorem placed_timerEvent (cl n : Nat) (ovf mat : Bool) (s : State) : placed (timerEvent cl n ovf mat s) =
    placed s := by
  unfold timerEvent; simp
@[simp] theorem placed_tickCnt (cl n : Nat) (s : State) : placed (tickCnt cl n s).1 = placed s := by
  unfold tickCnt; try lift_lets
  repeat' (first | (intro x; first | (have hx : placed x = placed s := (by simp only [x]; repeat' (first | rfl | assumption | (simp [*]; done) | (refine (placed_foldl _ _ _ (fun s x => ?_)).trans ?_) | split)); clear_value x) | clear_value x) | (first | rfl | assumption | (simp [*]; done) | (refine (placed_foldl _ _ _ (fun s x => ?_)).trans ?_) | split) | lift_lets)
@[simp] theorem placed_tickTimer (cl n : Nat) (s : State) : placed (tickTimer cl n s) = placed s := by
  unfold tickTimer; simp
@[simp] theorem placed_reload (cl n : Nat) (s : State) : placed (reload cl n s) = placed s := by
  unfold reload; simp
@[simp] theorem placed_timerEnd (cl n : Nat) (gate : Bool) (s : State) : placed (timerEnd cl n gate s) = placed s :=
    by
  unfold timerEnd; dsimp only; repeat' (first | (simp; done) | (refine (placed_foldl _ _ _ (fun s x => ?_)).trans ?_) | split | simp)
@[simp] theorem placed_timerAfter (cl m c : Nat) (y : TmrNow) (s : State) : placed (timerAfter cl m c y s) = placed s
    := by
  unfold timerAfter; simp
@[simp] theorem placed_timersCore (s : State) : placed (timersCore s) = placed s := by
  unfold timersCore; simp
@[simp] theorem placed_gatesCore (s : State) : placed (gatesCore s) = placed s := by
  unfold gatesCore; simp
@[simp] theorem placed_timersLine (s : State) : placed (timersLine s) = placed s := by
  unfold timersLine; simp
@[simp] theorem placed_timerEvIn (e : Nat) (s : State) : placed (timerEvIn e s) = placed s := by
  unfold timerEvIn; simp
@[simp] theorem placed_writeCnt (cl n : Nat) (v : Word) (s : State) : placed (writeCnt cl n v s) = placed s := by
  unfold writeCnt; simp
@[simp] theorem placed_writePer (cl n : Nat) (v : Word) (s : State) : placed (writePer cl n v s) = placed s := by
  unfold writePer; simp
@[simp] theorem placed_openCap (cl n : Nat) (s : State) : placed (openCap cl n s) = placed s := by
  unfold openCap; simp
@[simp] theorem placed_closeCap (cl n : Nat) (s : State) : placed (closeCap cl n s) = placed s := by
  unfold closeCap; try lift_lets
  repeat' (first | (intro x; first | (have hx : placed x = placed s := (by simp only [x]; repeat' (first | rfl | assumption | (simp [*]; done) | (refine (placed_foldl _ _ _ (fun s x => ?_)).trans ?_) | split)); clear_value x) | clear_value x) | (first | rfl | assumption | (simp [*]; done) | (refine (placed_foldl _ _ _ (fun s x => ?_)).trans ?_) | split) | lift_lets)
@[simp] theorem placed_applyMakeUp (cl n : Nat) (m : MakeUp) (s : State) : placed (applyMakeUp cl n m s) = placed s
    := by
  unfold applyMakeUp; dsimp only; repeat' (first | (simp; done) | (refine (placed_foldl _ _ _ (fun s x => ?_)).trans ?_) | split | simp)
@[simp] theorem placed_makeUpCluster (cl e : Nat) (s : State) : placed (makeUpCluster cl e s) = placed s := by
  unfold makeUpCluster; simp
@[simp] theorem placed_stopTimers (s : State) : placed (stopTimers s) = placed s := by
  unfold stopTimers; dsimp only; repeat' (first | (simp; done) | (refine (placed_foldl _ _ _ (fun s x => ?_)).trans ?_) | split | simp)

/-! ### Chain -/

@[simp] theorem placed_refreshCons (s : State) : placed (refreshCons s) = placed s := by
  unfold refreshCons; simp
@[simp] theorem placed_mismatchPolicy (s : State) : placed (mismatchPolicy s) = placed s := by
  unfold mismatchPolicy; simp
@[simp] theorem placed_raiseCond (i : Nat) (p : Int) (s : State) : placed (raiseCond i p s) = placed s := by
  unfold raiseCond; simp
@[simp] theorem placed_checkCond (i : Nat) (bad : Bool) (p : Int) (s : State) : placed (checkCond i bad p s) = placed
    s := by
  unfold checkCond; simp
@[simp] theorem placed_sendForward (rep : Bool) (s : State) : placed (sendForward rep s) = placed s := by
  unfold sendForward; simp
@[simp] theorem placed_headBoundary (s : State) : placed (headBoundary s) = placed s := by
  unfold headBoundary; simp
@[simp] theorem placed_headFree (s : State) : placed (headFree s) = placed s := by
  unfold headFree; simp
@[simp] theorem placed_indexFlags (s : State) : placed (indexFlags s) = placed s := by
  unfold indexFlags; simp
@[simp] theorem placed_checkDigest (x : Fwd) (s : State) : placed (checkDigest x s) = placed s := by
  unfold checkDigest; simp
@[simp] theorem placed_checkSlip (x : Fwd) (s : State) : placed (checkSlip x s) = placed s := by
  unfold checkSlip
  generalize slipAbove x s = b
  generalize slipOf x s = d
  dsimp only
  split
  · rw [placed_raiseCond, placed_mk, placed_drawn, placed_wr]
  · split
    · rw [placed_wb, placed_mk, placed_drawn, placed_wr]
    · rw [placed_mk, placed_drawn, placed_wr]
@[simp] theorem placed_checkCount (k : Nat) (p : Int) (s : State) : placed (checkCount k p s) = placed s := by
  unfold checkCount; simp
@[simp] theorem placed_chainChecks (x : Fwd) (aligned : Bool) (s : State) : placed (chainChecks x aligned s) = placed
    s := by
  unfold chainChecks; simp
@[simp] theorem placed_frameDiscarded (ret : Bool) (s : State) : placed (frameDiscarded ret s) = placed s := by
  unfold frameDiscarded; simp
@[simp] theorem placed_requestAlign (s : State) : placed (requestAlign s) = placed s := by
  unfold requestAlign; simp

/-! ### Boundary -/

@[simp] theorem placed_measurePeriod (s : State) : placed (measurePeriod s) = placed s := by
  unfold measurePeriod; dsimp only; repeat' (first | (simp; done) | (refine (placed_foldl _ _ _ (fun s x => ?_)).trans ?_) | split | simp)
@[simp] theorem placed_indexLimit (s : State) : placed (indexLimit s) = placed s := by
  unfold indexLimit; simp
@[simp] theorem placed_overdueFire (g : Nat) (s : State) : placed (overdueFire g s) = placed s := by
  unfold overdueFire; try lift_lets
  repeat' (first | (intro x; first | (have hx : placed x = placed s := (by simp only [x]; repeat' (first | rfl | assumption | (simp [*]; done) | (refine (placed_foldl _ _ _ (fun s x => ?_)).trans ?_) | split)); clear_value x) | clear_value x) | (first | rfl | assumption | (simp [*]; done) | (refine (placed_foldl _ _ _ (fun s x => ?_)).trans ?_) | split) | lift_lets)
@[simp] theorem placed_pendFire (g : Nat) (s : State) : placed (pendFire g s) = placed s := by
  unfold pendFire; simp
@[simp] theorem placed_updateReg (k : Nat) (s : State) : placed (updateReg k s) = placed s := by
  unfold updateReg; simp
@[simp] theorem placed_startSsi (n : Nat) (s : State) : placed (startSsi n s) = placed s := by
  unfold startSsi; simp
@[simp] theorem placed_fallDue (s : State) : placed (fallDue s) = placed s := by
  unfold fallDue; simp
@[simp] theorem placed_autoApply (s : State) : placed (autoApply s) = placed s := by
  unfold autoApply; simp
@[simp] theorem placed_autoCommit (s : State) : placed (autoCommit s) = placed s := by
  unfold autoCommit; simp
@[simp] theorem placed_takeSwitch (s : State) : placed (takeSwitch s) = placed s := by
  unfold takeSwitch; try lift_lets
  repeat' (first | (intro x; first | (have hx : placed x = placed s := (by simp only [x]; repeat' (first | rfl | assumption | (simp [*]; done) | (refine (placed_foldl _ _ _ (fun s x => ?_)).trans ?_) | split)); clear_value x) | clear_value x) | (first | rfl | assumption | (simp [*]; done) | (refine (placed_foldl _ _ _ (fun s x => ?_)).trans ?_) | split) | lift_lets)
@[simp] theorem placed_beacon (s : State) : placed (beacon s) = placed s := by
  unfold beacon; simp
@[simp] theorem placed_drainComplete (s : State) : placed (drainComplete s) = placed s := by
  unfold drainComplete; try lift_lets
  repeat' (first | (intro x; first | (have hx : placed x = placed s := (by simp only [x]; repeat' (first | rfl | assumption | (simp [*]; done) | (refine (placed_foldl _ _ _ (fun s x => ?_)).trans ?_) | split)); clear_value x) | clear_value x) | (first | rfl | assumption | (simp [*]; done) | (refine (placed_foldl _ _ _ (fun s x => ?_)).trans ?_) | split) | lift_lets)

/-! ### Position -/

@[simp] theorem placed_recordRaw (i : RawIn) (s : State) : placed (recordRaw i s) = placed s := by
  unfold recordRaw; simp
@[simp] theorem placed_compareMove (p0 p1 h : Int) (j : Nat) (s : State) : placed (compareMove p0 p1 h j s) = placed
    s := by
  unfold compareMove; simp
@[simp] theorem placed_compareAll (p0 p1 h : Int) (s : State) : placed (compareAll p0 p1 h s) = placed s := by
  unfold compareAll; simp
@[simp] theorem placed_crossThresholds (p1 : Int) (s : State) : placed (crossThresholds p1 s) = placed s := by
  unfold crossThresholds; try lift_lets
  repeat' (first | (intro x; first | (have hx : placed x = placed s := (by simp only [x]; repeat' (first | rfl | assumption | (simp [*]; done) | (refine (placed_foldl _ _ _ (fun s x => ?_)).trans ?_) | split)); clear_value x) | clear_value x) | (first | rfl | assumption | (simp [*]; done) | (refine (placed_foldl _ _ _ (fun s x => ?_)).trans ?_) | split) | lift_lets)
@[simp] theorem placed_issueHeld (s : State) : placed (issueHeld s) = placed s := by
  unfold issueHeld; simp
@[simp] theorem placed_countVelocity (s : State) : placed (countVelocity s) = placed s := by
  unfold countVelocity; dsimp only; repeat' (first | (simp; done) | (refine (placed_foldl _ _ _ (fun s x => ?_)).trans ?_) | split | simp)
@[simp] theorem placed_countSeen (s : State) : placed (countSeen s) = placed s := by
  unfold countSeen; simp
@[simp] theorem placed_putEnc (n : Nat) (x : Enc) (s : State) : placed (putEnc n x s) = placed s := by
  unfold putEnc; simp
@[simp] theorem placed_countInput (n : Nat) (d : Int) (s : State) : placed (countInput n d s) = placed s := by
  unfold countInput; simp
@[simp] theorem placed_landCapture (e t : Nat) (p : Int) (s : State) : placed (landCapture e t p s) = placed s := by
  unfold landCapture; simp
@[simp] theorem placed_markCapture (k : Nat) (p : Int) (s : State) : placed (markCapture k p s) = placed s := by
  unfold markCapture; simp

/-! ### PosRegs -/

@[simp] theorem placed_codedWrite (a : Nat) (v : Word) (s : State) : placed (codedWrite a v s) = placed s := by
  unfold codedWrite; try lift_lets
  repeat' (first | (intro x; first | (have hx : placed x = placed s := (by simp only [x]; repeat' (first | rfl | assumption | (simp [*]; done) | (refine (placed_foldl _ _ _ (fun s x => ?_)).trans ?_) | split)); clear_value x) | clear_value x) | (first | rfl | assumption | (simp [*]; done) | (refine (placed_foldl _ _ _ (fun s x => ?_)).trans ?_) | split) | lift_lets)
@[simp] theorem placed_sealEvent (hit : Bool) (a : Nat) (s : State) : placed (sealEvent hit a s) = placed s := by
  unfold sealEvent; simp
@[simp] theorem placed_writeGf (n : Nat) (v : Word) (s : State) : placed (writeGf n v s) = placed s := by
  unfold writeGf; simp
@[simp] theorem placed_clearRead (a : Nat) (s : State) : placed (clearRead a s) = placed s := by
  unfold clearRead; simp
@[simp] theorem placed_returnDecoder (s : State) : placed (returnDecoder s) = placed s := by
  unfold returnDecoder; simp
@[simp] theorem placed_commitCompare (j : Nat) (v : Int) (s : State) : placed (commitCompare j v s) = placed s := by
  unfold commitCompare; simp
@[simp] theorem placed_openCapture (w : Writer) (e : Nat) (s : State) : placed (openCapture w e s) = placed s := by
  unfold openCapture; simp
@[simp] theorem placed_closeCapture (e : Nat) (s : State) : placed (closeCapture e s) = placed s := by
  unfold closeCapture; try lift_lets
  repeat' (first | (intro x; first | (have hx : placed x = placed s := (by simp only [x]; repeat' (first | rfl | assumption | (simp [*]; done) | (refine (placed_foldl _ _ _ (fun s x => ?_)).trans ?_) | split)); clear_value x) | clear_value x) | (first | rfl | assumption | (simp [*]; done) | (refine (placed_foldl _ _ _ (fun s x => ?_)).trans ?_) | split) | lift_lets)
@[simp] theorem placed_writeRegCtl (k : Nat) (v : Word) (s : State) : placed (writeRegCtl k v s) = placed s := by
  unfold writeRegCtl; simp
@[simp] theorem placed_latchModes (w : Writer) (s : State) : placed (latchModes w s) = placed s := by
  unfold latchModes; simp

/-! ### LineCmds -/

@[simp] theorem placed_finishLine (cl : Nat) (i : Int) (s : State) : placed (finishLine cl i s) = placed s := by
  unfold finishLine; simp
@[simp] theorem placed_noLane (cl : Nat) (i : Int) (s : State) : placed (noLane cl i s) = placed s := by
  unfold noLane; simp
@[simp] theorem placed_writeProof (cl a : Nat) (v : Word) (s : State) : placed (writeProof cl a v s) = placed s := by
  unfold writeProof; simp
@[simp] theorem placed_proofAccess (w : Writer) (cl a : Nat) (v : Word) (s : State) : placed (proofAccess w cl a v s)
    = placed s := by
  unfold proofAccess; dsimp only; repeat' (first | (simp; done) | (refine (placed_foldl _ _ _ (fun s x => ?_)).trans ?_) | split | simp)
@[simp] theorem placed_issueCommit (nozzle : Bool) (issuer mask : Nat) (s : State) : placed (issueCommit nozzle
    issuer mask s) = placed s := by
  unfold issueCommit; simp
@[simp] theorem placed_autoDecided (ok : Bool) (s : State) : placed (autoDecided ok s) = placed s := by
  unfold autoDecided; simp
@[simp] theorem placed_decideCommit (c : Commit) (s : State) : placed (decideCommit c s) = placed s := by
  unfold decideCommit; simp
@[simp] theorem placed_retakeStream (cl : Nat) (i : Int) (s : State) : placed (retakeStream cl i s) = placed s := by
  unfold retakeStream; simp
@[simp] theorem placed_takeAtStart (cl : Nat) (l : Int) (s : State) : placed (takeAtStart cl l s) = placed s := by
  unfold takeAtStart; simp
@[simp] theorem placed_recompose (mask : Nat) (l : Int) (s : State) : placed (recompose mask l s) = placed s := by
  unfold recompose; simp
@[simp] theorem placed_setStreamWp (o : Nat) (s : State) : placed (setStreamWp o s) = placed s := by
  unfold setStreamWp; simp
@[simp] theorem placed_resetStream (s : State) : placed (resetStream s) = placed s := by
  unfold resetStream; simp

/-! ### CondCmds -/

@[simp] theorem placed_onBusy (f : Coded → Coded) (s : State) : placed (onBusy f s) = placed s := by
  unfold onBusy; simp
@[simp] theorem placed_noPipe (c : Coded) (s : State) : placed (noPipe c s) = placed s := by
  unfold noPipe; simp
@[simp] theorem placed_noCodec (c : Coded) (s : State) : placed (noCodec c s) = placed s := by
  unfold noCodec; simp
@[simp] theorem placed_applyUpd (v : Word) (s : State) : placed (applyUpd v s) = placed s := by
  unfold applyUpd; simp
@[simp] theorem placed_ringRecord (v : Nat) (s : State) : placed (ringRecord v s) = placed s := by
  unfold ringRecord; simp
@[simp] theorem placed_nozzleOut (g n : Nat) (s : State) : placed (nozzleOut g n s) = placed s := by
  unfold nozzleOut; simp
@[simp] theorem placed_writeNzlCfg (v : Word) (s : State) : placed (writeNzlCfg v s) = placed s := by
  unfold writeNzlCfg; simp

/-! ### Store -/

@[simp] theorem placed_setJob (j : SliceJob) (s : State) : placed (setJob j s) = placed s := by
  unfold setJob; simp
@[simp] theorem placed_noSpare (s : State) : placed (noSpare s) = placed s := by
  unfold noSpare; simp
@[simp] theorem placed_standIn (k p : Nat) (s : State) : placed (standIn k p s) = placed s := by
  unfold standIn; simp
@[simp] theorem placed_repairsGoOn (s : State) : placed (repairsGoOn s) = placed s := by
  unfold repairsGoOn; dsimp only; repeat' (first | (simp; done) | (refine (placed_foldl _ _ _ (fun s x => ?_)).trans ?_) | split | simp)
@[simp] theorem placed_needRepair (k : Nat) (s : State) : placed (needRepair k s) = placed s := by
  unfold needRepair; dsimp only; repeat' (first | (simp; done) | (refine (placed_foldl _ _ _ (fun s x => ?_)).trans ?_) | split | simp)
@[simp] theorem placed_blockUes (a : Nat) (s : State) : placed (blockUes a s) = placed s := by
  unfold blockUes; simp
@[simp] theorem placed_markUe (w : Nat) (s : State) : placed (markUe w s) = placed s := by
  unfold markUe; simp
@[simp] theorem placed_countSlice (k : Nat) (s : State) : placed (countSlice k s) = placed s := by
  unfold countSlice; simp

/-! ### HeadLink -/

@[simp] theorem placed_sentXfers (p : Xfer → Bool) (s : State) : placed (sentXfers p s) = placed s := by
  unfold sentXfers; simp
@[simp] theorem placed_acceptSwitch (l : Int) (t : Bool) (s : State) : placed (acceptSwitch l t s) = placed s := by
  unfold acceptSwitch; simp
@[simp] theorem placed_portFails (k : Nat) (s : State) : placed (portFails k s) = placed s := by
  unfold portFails; simp
@[simp] theorem placed_txLaneFails (k l : Nat) (s : State) : placed (txLaneFails k l s) = placed s := by
  unfold txLaneFails; simp
@[simp] theorem placed_tempEntry (k q e : Nat) (s : State) : placed (tempEntry k q e s) = placed s := by
  unfold tempEntry; simp
@[simp] theorem placed_retrainPort (k : Nat) (s : State) : placed (retrainPort k s) = placed s := by
  unfold retrainPort; simp
@[simp] theorem placed_requestSwitch (t : Bool) (s : State) : placed (requestSwitch t s) = placed s := by
  unfold requestSwitch; simp
@[simp] theorem placed_noPeel (s : State) : placed (noPeel s) = placed s := by
  unfold noPeel; simp

/-! ### Fetch -/

@[simp] theorem placed_onFetch (cl m : Nat) (f : Fetch → Fetch) (s : State) : placed (onFetch cl m f s) = placed s :=
    by
  unfold onFetch; simp
@[simp] theorem placed_localUe (cl m a : Nat) (s : State) : placed (localUe cl m a s) = placed s := by
  unfold localUe; simp
@[simp] theorem placed_localCe (cl : Nat) (s : State) : placed (localCe cl s) = placed s := by
  unfold localCe; simp
@[simp] theorem placed_countFetch (cl m a n : Nat) (s : State) : placed (countFetch cl m a n s) = placed s := by
  unfold countFetch; simp
@[simp] theorem placed_refill (cl m pc : Nat) (s : State) : placed (refill cl m pc s) = placed s := by
  unfold refill; simp
@[simp] theorem placed_cacheAsk (cl m a : Nat) (s : State) : placed (cacheAsk cl m a s) = placed s := by
  unfold cacheAsk; dsimp only; repeat' (first | (simp; done) | (refine (placed_foldl _ _ _ (fun s x => ?_)).trans ?_) | split | simp)
@[simp] theorem placed_cacheStore (cl m a : Nat) (v : Half) (s : State) : placed (cacheStore cl m a v s) = placed s
    := by
  unfold cacheStore; simp
@[simp] theorem placed_keepOld (cl m a : Nat) (s : State) : placed (keepOld cl m a s) = placed s := by
  unfold keepOld; simp
@[simp] theorem placed_fetched (cl m pc n : Nat) (s : State) : placed (fetched cl m pc n s) = placed s := by
  unfold fetched; simp
@[simp] theorem placed_begun (cl m : Nat) (again : Bool) (short : Option Short) (s : State) : placed (begun cl m
    again short s) = placed s := by
  unfold begun; simp
@[simp] theorem placed_hold (cl m : Nat) (s : State) : placed (hold cl m s) = placed s := by
  unfold hold; simp
@[simp] theorem placed_teach (cl m : Nat) (f : Fetch → Fetch) (s : State) : placed (teach cl m f s) = placed s := by
  unfold teach; simp
@[simp] theorem placed_redirect (cl m : Nat) (s : State) : placed (redirect cl m s) = placed s := by
  unfold redirect; simp
@[simp] theorem placed_refetch (cl m : Nat) (s : State) : placed (refetch cl m s) = placed s := by
  unfold refetch; simp
@[simp] theorem placed_mulIssued (cl m : Nat) (s : State) : placed (mulIssued cl m s) = placed s := by
  unfold mulIssued; simp
@[simp] theorem placed_mulWait (cl m : Nat) (s : State) : placed (mulWait cl m s) = placed s := by
  unfold mulWait; simp
@[simp] theorem placed_stallCycle (cl m : Nat) (s : State) : placed (stallCycle cl m s) = placed s := by
  unfold stallCycle; simp
@[simp] theorem placed_windowWait (cl m b : Nat) (s : State) : placed (windowWait cl m b s) = placed s := by
  unfold windowWait; simp

/-! ### Operands -/

@[simp] theorem placed_trapHere (cl m c code adr : Nat) (s : State) : placed (trapHere cl m c code adr s) = placed s
    := by
  unfold trapHere; simp
@[simp] theorem placed_transfer (g : Guess) (cl m c : Nat) (t : Int) (ret : Option Nat) (f : Ctx → Ctx) (s : State) :
    placed (transfer g cl m c t ret f s) = placed s := by
  unfold transfer; dsimp only; repeat' (first | (simp; done) | (refine (placed_foldl _ _ _ (fun s x => ?_)).trans ?_) | split | simp)
@[simp] theorem placed_claimMr (cl m c : Nat) (s : State) : placed (claimMr cl m c s) = placed s := by
  unfold claimMr; simp
@[simp] theorem placed_markDirty (cl m c : Nat) (which : List Nat) (s : State) : placed (markDirty cl m c which s) =
    placed s := by
  unfold markDirty; simp

/-! ### Ctl -/

@[simp] theorem placed_startReq (cl m mask : Nat) (s : State) : placed (startReq cl m mask s) = placed s := by
  unfold startReq; simp
@[simp] theorem placed_stopReq (cl m mask : Nat) (s : State) : placed (stopReq cl m mask s) = placed s := by
  unfold stopReq; simp
@[simp] theorem placed_cellRestart (cl m : Nat) (s : State) : placed (cellRestart cl m s) = placed s := by
  unfold cellRestart; simp
@[simp] theorem placed_writeEvcCell (cl m : Nat) (v : Word) (s : State) : placed (writeEvcCell cl m v s) = placed s
    := by
  unfold writeEvcCell; simp
@[simp] theorem placed_pendSet (rk cl : Nat) (hi : Bool) (v : Word) (s : State) : placed (pendSet rk cl hi v s) =
    placed s := by
  unfold pendSet; simp
@[simp] theorem placed_pendClr (rk cl : Nat) (hi : Bool) (v : Word) (s : State) : placed (pendClr rk cl hi v s) =
    placed s := by
  unfold pendClr; simp
@[simp] theorem placed_maskPut (rk cl : Nat) (hi : Bool) (l : List Nat) (v : Word) (s : State) : placed (maskPut rk
    cl hi l v s) = placed s := by
  unfold maskPut; simp
@[simp] theorem placed_maskSet (rk cl : Nat) (hi : Bool) (v : Word) (s : State) : placed (maskSet rk cl hi v s) =
    placed s := by
  unfold maskSet; simp
@[simp] theorem placed_maskClr (rk cl : Nat) (hi : Bool) (v : Word) (s : State) : placed (maskClr rk cl hi v s) =
    placed s := by
  unfold maskClr; simp
@[simp] theorem placed_incoming (cl m : Nat) (s : State) : placed (incoming cl m s) = placed s := by
  unfold incoming
  generalize (cellOf cl m s).running = o
  cases o with
  | none => rfl
  | some r =>
    dsimp only
    split
    · rfl
    · exact (placed_onFetch ..).trans (placed_countFetch ..)
@[simp] theorem placed_timedOut (cl m c : Nat) (o : Option Nat) (s : State) : placed (timedOut cl m c o s) = placed s
    := by
  unfold timedOut; dsimp only; repeat' (first | (simp; done) | (refine (placed_foldl _ _ _ (fun s x => ?_)).trans ?_) | split | simp)
@[simp] theorem placed_timeOut (cl m c : Nat) (s : State) : placed (timeOut cl m c s) = placed s := by
  unfold timeOut; simp
@[simp] theorem placed_waitCycle (cl m c : Nat) (s : State) : placed (waitCycle cl m c s) = placed s := by
  unfold waitCycle; simp
@[simp] theorem placed_waitsCore (s : State) : placed (waitsCore s) = placed s := by
  unfold waitsCore; (repeat' split) <;> simp
@[simp] theorem placed_stallsCore (s : State) : placed (stallsCore s) = placed s := by
  unfold stallsCore; simp
@[simp] theorem placed_suspend (cl m c e : Nat) (tmo : Bool) (s : State) : placed (suspend cl m c e tmo s) = placed s
    := by
  unfold suspend; simp
@[simp] theorem placed_waitServed (cl m c e : Nat) (tmo : Bool) (src : Option Nat) (s : State) : placed (waitServed
    cl m c e tmo src s) = placed s := by
  unfold waitServed; try lift_lets
  repeat' (first | (intro x; first | (have hx : placed x = placed s := (by simp only [x]; repeat' (first | rfl | assumption | (simp [*]; done) | (refine (placed_foldl _ _ _ (fun s x => ?_)).trans ?_) | split)); clear_value x) | clear_value x) | (first | rfl | assumption | (simp [*]; done) | (refine (placed_foldl _ _ _ (fun s x => ?_)).trans ?_) | split) | lift_lets)
@[simp] theorem placed_waitOn (cl m c e : Nat) (tmo : Bool) (s : State) : placed (waitOn cl m c e tmo s) = placed s
    := by
  unfold waitOn; rw [placed_waitServed, placed_endService, placed_onCtx]
@[simp] theorem placed_trapAction (cl m h : Nat) (s : State) : placed (trapAction cl m h s) = placed s := by
  unfold trapAction
  dsimp only
  split
  · exact placed_onCtx ..
  · exact placed_startCtx ..
  · exact placed_stopCtx ..

/-! ### Ports -/

@[simp] theorem placed_putPair (cl k : Nat) (x : PairCh) (s : State) : placed (putPair cl k x s) = placed s := by
  unfold putPair; simp
@[simp] theorem placed_pairToward (cl k : Nat) (v : Word) (p : Nat) (s : State) : placed (pairToward cl k v p s) =
    placed s := by
  unfold pairToward; simp
@[simp] theorem placed_pairSendValue (cl k : Nat) (v : Word) (s : State) : placed (pairSendValue cl k v s) = placed s
    := by
  unfold pairSendValue; simp
@[simp] theorem placed_pairOutHigh (w : Writer) (cl k : Nat) (v : Half) (s : State) : placed (pairOutHigh w cl k v s)
    = placed s := by
  unfold pairOutHigh; simp
@[simp] theorem placed_pairLand (cl k : Nat) (from1 : Bool) (v : Word) (s : State) : placed (pairLand cl k from1 v s)
    = placed s := by
  unfold pairLand; simp
@[simp] theorem placed_pairInLow (w : Writer) (cl k : Nat) (in1 : Bool) (s : State) : placed (pairInLow w cl k in1
    s).2 = placed s := by
  unfold pairInLow; simp
@[simp] theorem placed_pairClear (cl k : Nat) (in1 : Bool) (s : State) : placed (pairClear cl k in1 s) = placed s :=
    by
  unfold pairClear; simp
@[simp] theorem placed_pairInHigh (w : Writer) (cl k : Nat) (in1 : Bool) (s : State) : placed (pairInHigh w cl k in1
    s).2 = placed s := by
  unfold pairInHigh; simp
@[simp] theorem placed_pairRep (v : Word) (s : State) : placed (pairRep v s) = placed s := by
  unfold pairRep; simp
@[simp] theorem placed_pairRepWord (cl k : Nat) (v : Half) (s : State) : placed (pairRepWord cl k v s) = placed s :=
    by
  unfold pairRepWord; simp
@[simp] theorem placed_pairStatWrite (cl k : Nat) (v : Half) (s : State) : placed (pairStatWrite cl k v s) = placed s
    := by
  unfold pairStatWrite; simp
@[simp] theorem placed_postCell (w : Writer) (cl : Nat) (v : Word) (s : State) : placed (postCell w cl v s) = placed
    s := by
  unfold postCell; simp
@[simp] theorem placed_postTrace (w : Writer) (cl : Nat) (v : Word) (s : State) : placed (postTrace w cl v s) =
    placed s := by
  unfold postTrace; try lift_lets
  repeat' (first | (intro x; first | (have hx : placed x = placed s := (by simp only [x]; repeat' (first | rfl | assumption | (simp [*]; done) | (refine (placed_foldl _ _ _ (fun s x => ?_)).trans ?_) | split)); clear_value x) | clear_value x) | (first | rfl | assumption | (simp [*]; done) | (refine (placed_foldl _ _ _ (fun s x => ?_)).trans ?_) | split) | lift_lets)
@[simp] theorem placed_wdRestart (s : State) : placed (wdRestart s) = placed s := by
  unfold wdRestart; simp
@[simp] theorem placed_retrainLink (s : State) : placed (retrainLink s) = placed s := by
  unfold retrainLink; simp
@[simp] theorem placed_putDma (cl : Nat) (x : DmaEng) (s : State) : placed (putDma cl x s) = placed s := by
  unfold putDma; simp
@[simp] theorem placed_dmaRelease (cl k : Nat) (s : State) : placed (dmaRelease cl k s) = placed s := by
  unfold dmaRelease; simp
@[simp] theorem placed_dmaForget (cl k : Nat) (s : State) : placed (dmaForget cl k s) = placed s := by
  unfold dmaForget; simp
@[simp] theorem placed_dmaEnd (cl k i : Nat) (s : State) : placed (dmaEnd cl k i s) = placed s := by
  unfold dmaEnd; simp
@[simp] theorem placed_dmaErr (cl k code : Nat) (s : State) : placed (dmaErr cl k code s) = placed s := by
  unfold dmaErr; simp
@[simp] theorem placed_dmaBegin (cl k : Nat) (s : State) : placed (dmaBegin cl k s) = placed s := by
  unfold dmaBegin; simp
@[simp] theorem placed_dmaHalt (cl k : Nat) (s : State) : placed (dmaHalt cl k s) = placed s := by
  unfold dmaHalt; simp
@[simp] theorem placed_dmaCtlWrite (cl k : Nat) (v : Word) (s : State) : placed (dmaCtlWrite cl k v s) = placed s :=
    by
  unfold dmaCtlWrite; simp
@[simp] theorem placed_dmaParamWrite (cl k a : Nat) (v : Word) (s : State) : placed (dmaParamWrite cl k a v s) =
    placed s := by
  unfold dmaParamWrite; simp

/-! ### RegRead -/

@[simp] theorem placed_clearRc (a : Nat) (m : Word) (s : State) : placed (clearRc a m s) = placed s := by
  unfold clearRc; try lift_lets
  repeat' (first | (intro x; first | (have hx : placed x = placed s := (by simp only [x]; repeat' (first | rfl | assumption | (simp [*]; done) | (refine (placed_foldl _ _ _ (fun s x => ?_)).trans ?_) | split)); clear_value x) | clear_value x) | (first | rfl | assumption | (simp [*]; done) | (refine (placed_foldl _ _ _ (fun s x => ?_)).trans ?_) | split) | lift_lets)
@[simp] theorem placed_readTable (a : Nat) (s : State) : placed (readTable a s) = placed s := by
  unfold readTable; simp
@[simp] theorem placed_readAt (w : Writer) (k a : Nat) (s : State) : placed (readAt w k a s).2 = placed s := by
  unfold readAt; dsimp only; repeat' (first | (simp; done) | (refine (placed_foldl _ _ _ (fun s x => ?_)).trans ?_) | split | simp)
@[simp] theorem placed_readMany (w : Writer) (l : List Nat) (s : State) : placed (readMany w l s).2 = placed s := by
  induction l generalizing s with
  | nil => rfl
  | cons b r ih => unfold readMany; dsimp only; rw [ih, placed_readAt]
@[simp] theorem placed_latchMany (w : Writer) (a : Nat) (l : List Nat) (s : State) : placed (latchMany w a l s) =
    placed s := by
  unfold latchMany; simp
@[simp] theorem placed_readOver (w : Writer) (a : Nat) (l : List Nat) (s : State) : placed (readOver w a l s).2 =
    placed s := by
  unfold readOver; try lift_lets
  repeat' (first | (intro x; first | (have hx : placed x = placed s := (by simp only [x]; repeat' (first | rfl | assumption | (simp [*]; done) | (refine (placed_foldl _ _ _ (fun s x => ?_)).trans ?_) | split)); clear_value x) | clear_value x) | (first | rfl | assumption | (simp [*]; done) | (refine (placed_foldl _ _ _ (fun s x => ?_)).trans ?_) | split) | lift_lets)
@[simp] theorem placed_readReg (w : Writer) (a : Nat) (s : State) : placed (readReg w a s).2 = placed s := by
  unfold readReg; simp

/-! ### WaveCmds -/

@[simp] theorem placed_waveWrite (a : Nat) (v : Word) (s : State) : placed (waveWrite a v s) = placed s := by
  unfold waveWrite; simp
@[simp] theorem placed_sampleVoices (t : Nat) (s : State) : placed (sampleVoices t s) = placed s := by
  unfold sampleVoices; simp
@[simp] theorem placed_stepGain (c : Nat) (s : State) : placed (stepGain c s) = placed s := by
  unfold stepGain; simp
@[simp] theorem placed_sampleOut (c t : Nat) (s : State) : placed (sampleOut c t s).1 = placed s := by
  unfold sampleOut; simp
@[simp] theorem placed_vote (c : Nat) (s : State) : placed (vote c s) = placed s := by
  unfold vote; dsimp only; repeat' (first | (simp; done) | (refine (placed_foldl _ _ _ (fun s x => ?_)).trans ?_) | split)
@[simp] theorem placed_sendSample (ys : List Int) (t : Nat) (s : State) : placed (sendSample ys t s) = placed s := by
  unfold sendSample; simp
@[simp] theorem placed_ilasStart (s : State) : placed (ilasStart s) = placed s := by
  unfold ilasStart; simp
@[simp] theorem placed_linkSample (ys : List Int) (t : Nat) (s : State) : placed (linkSample ys t s) = placed s := by
  unfold linkSample; dsimp only; repeat' (first | (simp; done) | (refine (placed_foldl _ _ _ (fun s x => ?_)).trans ?_) | split | simp)
@[simp] theorem placed_writeGain (c : Nat) (v : Word) (s : State) : placed (writeGain c v s) = placed s := by
  unfold writeGain; simp
@[simp] theorem placed_writeFactor (x : Nat) (v : Word) (s : State) : placed (writeFactor x v s) = placed s := by
  unfold writeFactor; simp
@[simp] theorem placed_requestRealign (s : State) : placed (requestRealign s) = placed s := by
  unfold requestRealign; simp

/-! ### RegWrite -/

@[simp] theorem placed_writeTil (o a : Nat) (v : Word) (s : State) : placed (writeTil o a v s) = placed s := by
  unfold writeTil; simp
@[simp] theorem placed_writeCmp (o a : Nat) (v : Word) (s : State) : placed (writeCmp o a v s) = placed s := by
  unfold writeCmp; simp
@[simp] theorem placed_writeNzl (o a : Nat) (v : Word) (s : State) : placed (writeNzl o a v s) = placed s := by
  unfold writeNzl; simp
@[simp] theorem placed_writeBud (v : Word) (s : State) : placed (writeBud v s) = placed s := by
  unfold writeBud; simp
@[simp] theorem placed_writeHlk (o a : Nat) (v : Word) (s : State) : placed (writeHlk o a v s) = placed s := by
  unfold writeHlk; try lift_lets
  repeat' (first | (intro x; first | (have hx : placed x = placed s := (by simp only [x]; repeat' (first | rfl | assumption | (simp [*]; done) | (refine (placed_foldl _ _ _ (fun s x => ?_)).trans ?_) | split)); clear_value x) | clear_value x) | (first | rfl | assumption | (simp [*]; done) | (refine (placed_foldl _ _ _ (fun s x => ?_)).trans ?_) | split) | lift_lets)
@[simp] theorem placed_writeWav (o a : Nat) (v : Word) (s : State) : placed (writeWav o a v s) = placed s := by
  unfold writeWav; try lift_lets
  repeat' (first | (intro x; first | (have hx : placed x = placed s := (by simp only [x]; repeat' (first | rfl | assumption | (simp [*]; done) | (refine (placed_foldl _ _ _ (fun s x => ?_)).trans ?_) | split)); clear_value x) | clear_value x) | (first | rfl | assumption | (simp [*]; done) | (refine (placed_foldl _ _ _ (fun s x => ?_)).trans ?_) | split) | lift_lets)
@[simp] theorem placed_writeEvc (rk cl o a : Nat) (v : Word) (s : State) : placed (writeEvc rk cl o a v s) = placed s
    := by
  unfold writeEvc; simp
@[simp] theorem placed_writeTmr (cl o a : Nat) (v : Word) (s : State) : placed (writeTmr cl o a v s) = placed s := by
  unfold writeTmr; (repeat' split) <;> simp
@[simp] theorem placed_writeRatio (w : Writer) (cl : Nat) (v : Word) (s : State) : placed (writeRatio w cl v s) =
    placed s := by
  unfold writeRatio; simp
@[simp] theorem placed_writeCluster (w : Writer) (cl o a : Nat) (v : Word) (s : State) : placed (writeCluster w cl o
    a v s) = placed s := by
  unfold writeCluster; try lift_lets
  repeat' (first | (intro x; first | (have hx : placed x = placed s := (by simp only [x]; repeat' (first | rfl | assumption | (simp [*]; done) | (refine (placed_foldl _ _ _ (fun s x => ?_)).trans ?_) | split)); clear_value x) | clear_value x) | (first | rfl | assumption | (simp [*]; done) | (refine (placed_foldl _ _ _ (fun s x => ?_)).trans ?_) | split) | lift_lets)
@[simp] theorem placed_commitCouple (h : Nat) (l : Option Nat) (v : Word) (s : State) : placed (commitCouple h l v s)
    = placed s := by
  unfold commitCouple; dsimp only; repeat' (first | (simp; done) | (refine (placed_foldl _ _ _ (fun s x => ?_)).trans ?_) | split | simp)
@[simp] theorem placed_writeBoth (a : Nat) (lo hi : Word) (s : State) : placed (writeBoth a lo hi s).s = placed s :=
    by
  unfold writeBoth; (repeat' split) <;> simp

/-! ### IoPage -/

@[simp] theorem placed_cxRead (cl m : Fin 16) (c : Fin 8) (w : Nat) (s : State) : placed (cxRead cl m c w s).2 =
    placed s := by
  unfold cxRead; try lift_lets
  repeat' (first | (intro x; first | (have hx : placed x = placed s := (by simp only [x]; repeat' (first | rfl | assumption | (simp [*]; done) | (refine (placed_foldl _ _ _ (fun s x => ?_)).trans ?_) | split)); clear_value x) | clear_value x) | (first | rfl | assumption | (simp [*]; done) | (refine (placed_foldl _ _ _ (fun s x => ?_)).trans ?_) | split) | lift_lets)
@[simp] theorem placed_setWrite (cl m c w : Nat) (v : Half) (s : State) : placed (setWrite cl m c w v s) = placed s
    := by
  unfold setWrite; simp
@[simp] theorem placed_winWrite (cl m c : Nat) (l : Option Nat) (v : Half) (s : State) : placed (winWrite cl m c l v
    s) = placed s := by
  unfold winWrite; simp
@[simp] theorem placed_cxWrite (cl m : Fin 16) (c : Fin 8) (w : Nat) (v : Half) (s : State) : placed (cxWrite cl m c
    w v s) = placed s := by
  unfold cxWrite; dsimp only; repeat' (first | (simp; done) | (refine (placed_foldl _ _ _ (fun s x => ?_)).trans ?_) | split | simp)
@[simp] theorem placed_ioReadLow (w : Writer) (cl a : Nat) (s : State) : placed (ioReadLow w cl a s).2 = placed s :=
    by
  unfold ioReadLow; dsimp only; repeat' (first | (simp; done) | (refine (placed_foldl _ _ _ (fun s x => ?_)).trans ?_) | split | simp)
@[simp] theorem placed_ioReadHigh (w : Writer) (cl a : Nat) (s : State) : placed (ioReadHigh w cl a s).2 = placed s
    := by
  unfold ioReadHigh; dsimp only; repeat' (first | (simp; done) | (refine (placed_foldl _ _ _ (fun s x => ?_)).trans ?_) | split | simp)
@[simp] theorem placed_ioRead (cl m : Fin 16) (c : Fin 8) (w : Nat) (s : State) : placed (ioRead cl m c w s).2 =
    placed s := by
  unfold ioRead; try lift_lets
  repeat' (first | (intro x; first | (have hx : placed x = placed s := (by simp only [x]; repeat' (first | rfl | assumption | (simp [*]; done) | (refine (placed_foldl _ _ _ (fun s x => ?_)).trans ?_) | split)); clear_value x) | clear_value x) | (first | rfl | assumption | (simp [*]; done) | (refine (placed_foldl _ _ _ (fun s x => ?_)).trans ?_) | split) | lift_lets)
@[simp] theorem placed_ioRead2 (cl m : Fin 16) (c : Fin 8) (w : Nat) (s : State) : placed (ioRead2 cl m c w s).2 =
    placed s := by
  unfold ioRead2; try lift_lets
  repeat' (first | (intro x; first | (have hx : placed x = placed s := (by simp only [x]; repeat' (first | rfl | assumption | (simp [*]; done) | (refine (placed_foldl _ _ _ (fun s x => ?_)).trans ?_) | split)); clear_value x) | clear_value x) | (first | rfl | assumption | (simp [*]; done) | (refine (placed_foldl _ _ _ (fun s x => ?_)).trans ?_) | split) | lift_lets)

/-! ### Access -/

@[simp] theorem placed_ueRead (w : Nat) (s : State) : placed (ueRead w s) = placed s := by
  unfold ueRead; try lift_lets
  repeat' (first | (intro x; first | (have hx : placed x = placed s := (by simp only [x]; repeat' (first | rfl | assumption | (simp [*]; done) | (refine (placed_foldl _ _ _ (fun s x => ?_)).trans ?_) | split)); clear_value x) | clear_value x) | (first | rfl | assumption | (simp [*]; done) | (refine (placed_foldl _ _ _ (fun s x => ?_)).trans ?_) | split) | lift_lets)
@[simp] theorem placed_ceRead (w : Nat) (s : State) : placed (ceRead w s) = placed s := by
  unfold ceRead; (repeat' split) <;> simp
@[simp] theorem placed_readWordsAt (a n : Nat) (s : State) : placed (readWordsAt a n s).s = placed s := by
  unfold readWordsAt; simp
@[simp] theorem placed_readSpan (a n : Nat) (s : State) : placed (readSpan a n s).s = placed s := by
  unfold readSpan; try lift_lets
  repeat' (first | (intro x; first | (have hx : placed x = placed s := (by simp only [x]; repeat' (first | rfl | assumption | (simp [*]; done) | (refine (placed_foldl _ _ _ (fun s x => ?_)).trans ?_) | split)); clear_value x) | clear_value x) | (first | rfl | assumption | (simp [*]; done) | (refine (placed_foldl _ _ _ (fun s x => ?_)).trans ?_) | split) | lift_lets)
theorem placed_foldGot {α : Type} (f : Got → α → Got) (l : List α) (g : Got) (h : ∀ g x, placed (f g x).s = placed
    g.s) :
    placed (l.foldl f g).s = placed g.s := by
  induction l generalizing g with
  | nil => rfl
  | cons x r ih => rw [List.foldl_cons, ih, h]
theorem placed_foldFst {α β : Type} (f : State × β → α → State × β) (l : List α) (g : State × β) (h : ∀ g x, placed
    (f g x).1 = placed g.1) :
    placed (l.foldl f g).1 = placed g.1 := by
  induction l generalizing g with
  | nil => rfl
  | cons x r ih => rw [List.foldl_cons, ih, h]
@[simp] theorem placed_memRead (a n : Nat) (s : State) : placed (memRead a n s).s = placed s := by
  unfold memRead
  exact placed_foldGot _ _ _ (fun g p => placed_readSpan _ _ _)
@[simp] theorem placed_writeSpan (a : Nat) (l : List Byte) (s : State) : placed (writeSpan a l s).1 = placed s := by
  unfold writeSpan; try lift_lets
  repeat' (first | (intro x; first | (have hx : placed x = placed s := (by simp only [x]; repeat' (first | rfl | assumption | (simp [*]; done) | (refine (placed_foldl _ _ _ (fun s x => ?_)).trans ?_) | split)); clear_value x) | clear_value x) | (first | rfl | assumption | (simp [*]; done) | (refine (placed_foldl _ _ _ (fun s x => ?_)).trans ?_) | split) | lift_lets)
@[simp] theorem placed_memWrite (a : Nat) (l : List Byte) (s : State) : placed (memWrite a l s).1 = placed s := by
  unfold memWrite
  exact placed_foldFst _ _ _ (fun g p => placed_writeSpan _ _ _)
@[simp] theorem placed_fabRead (w : Writer) (a n : Nat) (s : State) : placed (fabRead w a n s).s = placed s := by
  unfold fabRead
  split
  · exact placed_readReg ..
  · exact placed_memRead ..

/-! ### Dma -/

@[simp] theorem placed_unitBegin (cl k : Nat) (s : State) : placed (unitBegin cl k s) = placed s := by
  unfold unitBegin; simp

/-! ### Fabric -/

@[simp] theorem placed_fabricFault (i node port lane code : Nat) (s : State) : placed (fabricFault i node port lane
    code s) = placed s := by
  unfold fabricFault; simp
@[simp] theorem placed_crossbarFault (i node code : Nat) (s : State) : placed (crossbarFault i node code s) = placed
    s := by
  unfold crossbarFault; simp
@[simp] theorem placed_noCrossbar (node : Nat) (s : State) : placed (noCrossbar node s) = placed s := by
  unfold noCrossbar; simp

/-! ### Jtag -/

@[simp] theorem placed_jtagSelect (code : Nat) (dr : BitVec 336) (s : State) : placed (jtagSelect code dr s) = placed
    s := by
  unfold jtagSelect; simp

/-! ### LevainAlu -/

@[simp] theorem placed_trapAfter (cl m c code : Nat) (s : State) : placed (trapAfter cl m c code s) = placed s := by
  unfold trapAfter; simp
@[simp] theorem placed_divide (cl m c : Nat) (f : Half → Half → Half → Half → Half × Half × Half) (s : State) :
    placed (divide cl m c f s) = placed s := by
  unfold divide; simp
@[simp] theorem placed_branch (g : Guess) (cl m c : Nat) (h : Shape) (taken : Bool) (t : Int) (f : Ctx → Ctx) (s :
    State) : placed (branch g cl m c h taken t f s) = placed s := by
  unfold branch; simp

/-! ### LevainMem -/

@[simp] theorem placed_waitAtBank (cl m b : Nat) (s : State) : placed (waitAtBank cl m b s) = placed s := by
  unfold waitAtBank; simp
theorem placed_gotLoad (a : Nat) (g : Got) : placed (gotLoad a g).2 = placed g.s := (rfl)
@[simp] theorem placed_windowLoad (cl m : Fin 16) (c : Fin 8) (a b n : Nat) (s : State) : placed (windowLoad cl m c a
    b n s).2 = placed s := by
  unfold windowLoad
  split
  · rw [placed_gotLoad, placed_fabRead, placed_waitAtBank]
  · rfl
@[simp] theorem placed_loadOne (cl m : Fin 16) (c : Fin 8) (a n : Nat) (s : State) : placed (loadOne cl m c a n s).2
    = placed s := by
  have h1 := placed_ioRead2 cl m c a s
  have h2 := placed_ioRead cl m c a s
  unfold loadOne
  generalize ioRead2 cl m c a s = r1 at h1 ⊢
  generalize ioRead cl m c a s = r2 at h2 ⊢
  split
  · split
    · exact h1
    · exact h2
  · split
    · exact placed_windowLoad ..
    · exact (placed_gotLoad ..).trans (placed_fabRead ..)
@[simp] theorem placed_loadAll (cl m : Fin 16) (c : Fin 8) (l : List (Nat × Nat)) (hs : List Half) (s : State) :
    placed (loadAll cl m c l hs s).2 = placed s := by
  induction l generalizing hs s with
  | nil => rfl
  | cons x r ih =>
    unfold loadAll
    split
    · rename_i heq
      rw [ih]
      have := congrArg (fun z => placed z.2) heq
      dsimp only at this
      rw [← this, placed_loadOne]
    · rw [placed_loadOne]
@[simp] theorem placed_load (cl m : Fin 16) (c : Fin 8) (a : Nat) (two : Bool) (s : State) : placed (load cl m c a
    two s).2 = placed s := by
  unfold load; try lift_lets
  repeat' (first | (intro x; first | (have hx : placed x = placed s := (by simp only [x]; repeat' (first | rfl | assumption | (simp [*]; done) | (refine (placed_foldl _ _ _ (fun s x => ?_)).trans ?_) | split)); clear_value x) | clear_value x) | (first | rfl | assumption | (simp [*]; done) | (refine (placed_foldl _ _ _ (fun s x => ?_)).trans ?_) | split) | lift_lets)
@[simp] theorem placed_elemTrap (cl m : Nat) (c code adr pc slot : Nat) (s : State) : placed (elemTrap cl m c code
    adr pc slot s) = placed s := by
  unfold elemTrap; simp
@[simp] theorem placed_drainError (cl m c adr : Nat) (s : State) : placed (drainError cl m c adr s) = placed s := by
  unfold drainError; try lift_lets
  repeat' (first | (intro x; first | (have hx : placed x = placed s := (by simp only [x]; repeat' (first | rfl | assumption | (simp [*]; done) | (refine (placed_foldl _ _ _ (fun s x => ?_)).trans ?_) | split)); clear_value x) | clear_value x) | (first | rfl | assumption | (simp [*]; done) | (refine (placed_foldl _ _ _ (fun s x => ?_)).trans ?_) | split) | lift_lets)

/-! ### DieLink -/

@[simp] theorem placed_dlkAlarm (i : Nat) (s : State) : placed (dlkAlarm i s) = placed s := by
  unfold dlkAlarm; simp
@[simp] theorem placed_owe (c n : Nat) (s : State) : placed (owe c n s) = placed s := by
  unfold owe; simp
@[simp] theorem placed_rejectIn (content : Bool) (s : State) : placed (rejectIn content s) = placed s := by
  unfold rejectIn; simp
@[simp] theorem placed_pushRsp (p : Packet) (s : State) : placed (pushRsp p s) = placed s := by
  unfold pushRsp; simp
@[simp] theorem placed_requestWords (w : Writer) (n a : Nat) (s : State) : placed (requestWords w n a s).s = placed s
    := by
  induction n generalizing a s with
  | zero => rfl
  | succ n ih =>
    unfold requestWords; simp [ih]
@[simp] theorem placed_performRead (rid : Fin 16) (tag w : Nat) (s : State) : placed (performRead rid tag w s) =
    placed s := by
  unfold performRead
  split
  · rw [placed_pushRsp, placed_rejectIn]
  · dsimp only
    split
    · rfl
    · rw [placed_pushRsp]
      refine placed_foldGot _ _ _ (fun g p => ?_)
      split
      · exact placed_requestWords ..
      · exact placed_readSpan ..
@[simp] theorem placed_discardContent (p : Packet) (s : State) : placed (discardContent p s) = placed s := by
  unfold discardContent; simp
@[simp] theorem placed_writeVia (a : Nat) (l : List Byte) (s : State) : placed (writeVia a l s) = placed s := by
  unfold writeVia; simp
@[simp] theorem placed_writeIngress (p : Packet) (s : State) : placed (writeIngress p s) = placed s := by
  unfold writeIngress; simp
@[simp] theorem placed_performContent (p : Packet) (s : State) : placed (performContent p s) = placed s := by
  unfold performContent; simp
@[simp] theorem placed_pumpContent (n : Nat) (s : State) : placed (pumpContent n s) = placed s := by
  induction n generalizing s with
  | zero => rfl
  | succ n ih =>
    unfold pumpContent
    split
    · rw [ih, placed_performContent, placed_mk]
    · rfl
@[simp] theorem placed_arriveContent (p : Packet) (s : State) : placed (arriveContent p s) = placed s := by
  unfold arriveContent; simp
@[simp] theorem placed_streamWrite (n : Nat) (s : State) : placed (streamWrite n s) = placed s := by
  induction n generalizing s with
  | zero => rfl
  | succ n ih =>
    unfold streamWrite; simp [ih]
@[simp] theorem placed_streamGo (s : State) : placed (streamGo s) = placed s := by
  unfold streamGo; simp
@[simp] theorem placed_pumpStream (n : Nat) (s : State) : placed (pumpStream n s) = placed s := by
  induction n generalizing s with
  | zero => rfl
  | succ n ih =>
    unfold pumpStream
    split
    · rw [ih, placed_streamGo, placed_mk]
    · rfl
@[simp] theorem placed_arriveStream (p : Packet) (s : State) : placed (arriveStream p s) = placed s := by
  unfold arriveStream; simp
@[simp] theorem placed_releaseIngress (s : State) : placed (releaseIngress s) = placed s := by
  unfold releaseIngress; simp
@[simp] theorem placed_releaseHeld (s : State) : placed (releaseHeld s) = placed s := by
  unfold releaseHeld; simp
@[simp] theorem placed_takeAck (v nak : Bool) (seq : Nat) (s : State) : placed (takeAck v nak seq s) = placed s := by
  unfold takeAck; simp
@[simp] theorem placed_takeCredits (l : List Byte) (s : State) : placed (takeCredits l s) = placed s := by
  unfold takeCredits; simp
@[simp] theorem placed_discardFlit (s : State) : placed (discardFlit s) = placed s := by
  unfold discardFlit; simp
@[simp] theorem placed_discardAhead (s : State) : placed (discardAhead s) = placed s := by
  unfold discardAhead; simp
@[simp] theorem placed_dropEgress (c : Nat) (s : State) : placed (dropEgress c s) = placed s := by
  unfold dropEgress; simp
@[simp] theorem placed_sendFlit (typ seq first : Nat) (payload : List Byte) (s : State) : placed (sendFlit typ seq
    first payload s) = placed s := by
  unfold sendFlit; simp
@[simp] theorem placed_sendIdle (s : State) : placed (sendIdle s) = placed s := by
  unfold sendIdle; simp
@[simp] theorem placed_resendFlit (i : Nat) (s : State) : placed (resendFlit i s) = placed s := by
  unfold resendFlit; try lift_lets
  repeat' (first | (intro x; first | (have hx : placed x = placed s := (by simp only [x]; repeat' (first | rfl | assumption | (simp [*]; done) | (refine (placed_foldl _ _ _ (fun s x => ?_)).trans ?_) | split)); clear_value x) | clear_value x) | (first | rfl | assumption | (simp [*]; done) | (refine (placed_foldl _ _ _ (fun s x => ?_)).trans ?_) | split) | lift_lets)
theorem placed_fillFlit (n : Nat) (f : Fill) : placed (fillFlit n f).s = placed f.s := by
  induction n generalizing f with
  | zero => rfl
  | succ n ih =>
    unfold fillFlit
    dsimp only
    split
    · rfl
    · cases nextPacket f.s with
      | none => rfl
      | some x => obtain ⟨c, p⟩ := x; dsimp only; rw [ih, placed_dropEgress, placed_mk]
@[simp] theorem placed_newFlit (s : State) : placed (newFlit s) = placed s := by
  unfold newFlit
  dsimp only
  split
  · exact placed_sendIdle ..
  · rw [placed_sendFlit, placed_mk, placed_fillFlit]
@[simp] theorem placed_summary (t : Nat) (s : State) : placed (summary t s) = placed s := by
  unfold summary; simp
@[simp] theorem placed_noAsp (s : State) : placed (noAsp s) = placed s := by
  unfold noAsp; simp

/-! ### Loader -/

@[simp] theorem placed_setPhase (n : Nat) (s : State) : placed (setPhase n s) = placed s := by
  unfold setPhase; simp
@[simp] theorem placed_noteCode (code : Nat) (s : State) : placed (noteCode code s) = placed s := by
  unfold noteCode; simp
@[simp] theorem placed_releasePort (s : State) : placed (releasePort s) = placed s := by
  unfold releasePort; simp
@[simp] theorem placed_readFrom (o : Nat) (s : State) : placed (readFrom o s) = placed s := by
  unfold readFrom; simp
@[simp] theorem placed_startTable (s : State) : placed (startTable s) = placed s := by
  unfold startTable; simp
@[simp] theorem placed_startRead (s : State) : placed (startRead s) = placed s := by
  unfold startRead; simp
@[simp] theorem placed_failLoad (code : Nat) (s : State) : placed (failLoad code s) = placed s := by
  unfold failLoad; simp
@[simp] theorem placed_enterLoad (s : State) : placed (enterLoad s) = placed s := by
  unfold enterLoad; simp
@[simp] theorem placed_endDetect (f : FlashInfo) (s : State) : placed (endDetect f s) = placed s := by
  unfold endDetect; simp
@[simp] theorem placed_detected (s : State) : placed (detected s) = placed s := by
  unfold detected; (repeat' split) <;> simp
@[simp] theorem placed_detectTick (s : State) : placed (detectTick s) = placed s := by
  unfold detectTick; simp
@[simp] theorem placed_deadSpare (l : List (Fin 74)) (s : State) : placed (deadSpare l s) = placed s := by
  unfold deadSpare; simp
@[simp] theorem placed_loadPatch (l : List Byte) (s : State) : placed (loadPatch l s) = placed s := by
  unfold loadPatch; simp
@[simp] theorem placed_showDigest (reg : Nat → Nat) (d : BitVec 256) (s : State) : placed (showDigest reg d s) =
    placed s := by
  unfold showDigest; simp
@[simp] theorem placed_startProof (s : State) : placed (startProof s) = placed s := by
  unfold startProof; simp

/-! ### Scrub -/

@[simp] theorem placed_putTester (k : Nat) (x : Tester) (s : State) : placed (putTester k x s) = placed s := by
  unfold putTester; simp
@[simp] theorem placed_localFail (cl m region : Nat) (s : State) : placed (localFail cl m region s) = placed s := by
  unfold localFail; simp
@[simp] theorem placed_pantryFail (cl region : Nat) (s : State) : placed (pantryFail cl region s) = placed s := by
  unfold pantryFail; simp

/-! ### Tick -/

@[simp] theorem placed_beginCycle (s : State) : placed (beginCycle s) = placed s := by
  unfold beginCycle; simp

/-! ### Step -/

@[simp] theorem placed_State_withFetchWord (s : State) (nbits w : Nat) : placed (State.withFetchWord s nbits w) =
    placed s := by
  unfold State.withFetchWord; try lift_lets
  repeat' (first | (intro x; first | (have hx : placed x = placed s := (by simp only [x]; repeat' (first | rfl | assumption | (simp [*]; done) | (refine (placed_foldl _ _ _ (fun s x => ?_)).trans ?_) | split)); clear_value x) | clear_value x) | (first | rfl | assumption | (simp [*]; done) | (refine (placed_foldl _ _ _ (fun s x => ?_)).trans ?_) | split) | lift_lets)

end Sys2Proof.Machine
end

