-- ==== Sys2Proof/Tests/Slice0.lean ====
section
/-! SUPPORT. Tests: an ill-formed command for every check of WellFormed, small steps whose results the spec's worked examples
and tables give, and for every statement with hypotheses a state and operands that meet them. -/

namespace Sys2Proof.Tests

open Sys2Proof Sys2Proof.Machine Sys2Proof.Claims

/-! ### WellFormed -/

theorem test_wf_illegal_mode : WellFormed (.requestIllegalMode (.host 0) 5) = false := by decide
theorem test_wf_section_table : WellFormed (.sectionTableRead []) = false := by decide
theorem test_wf_pad_length : WellFormed (.pad 12) = false := by decide
theorem test_wf_pad_long : WellFormed (.pad 4104) = false := by decide
theorem test_wf_tileup_units : WellFormed (.tileup 0 [1, 2, 3]) = false := by decide
theorem test_wf_mapup_units : WellFormed (.mapup 0 [1]) = false := by decide
theorem test_wf_nzst_units : WellFormed (.nzst [1]) = false := by decide
theorem test_wf_flit_length : WellFormed (.flitReceive [0]) = false := by decide
theorem test_wf_forward_length : WellFormed (.forwardFrameAccept []) = false := by decide
theorem test_wf_return_length : WellFormed (.returnFrameAccept []) = false := by decide

/-! ### States for the tests -/

def inMode (m : Mode) : State := { mode := m }
def host : Writer := .host 0

/-! ### Witnesses: step, registers, loading, test port -/

theorem witness_step : ∃ (c : Instr) (s : State), s.pending = [c] := ⟨.idcode, { pending := [.idcode] }, rfl⟩
theorem witness_step_idle : State.reset.pending = [] ∧ State.reset.mode = .cold ∧ (inMode .idle).pending = [] ∧
    (inMode .idle).mode ≠ .cold := by decide
/-- TIL_PREP is an SL register; sealed, a differing bit is a sealed write; POS_CMP of no side effect in RW. -/
theorem witness_write_sealed : ∃ r : RegRow, rowAt (BitVec.ofNat 36 R.TIL_PREP).toNat = some r ∧
    codesAlone (BitVec.ofNat 36 R.TIL_PREP).toNat = true ∧ (BitVec.ofNat 36 R.TIL_PREP).toNat % 4 = 0 ∧
    reaches host R.TIL_PREP { inMode .idle with sealed := true } = true ∧ (∀ i < 32, (1 : Word).getLsbD i = true → r.defined.testBit i = true) ∧
    r.sl.testBit 0 = true ∧ (1 : Word).getLsbD 0 ≠ (rd R.TIL_PREP { inMode .idle with sealed := true }).getLsbD 0 :=
  ⟨_, rfl, by decide, by decide, by decide, by decide, by decide, by decide⟩
theorem witness_write_equal : ∃ r : RegRow, rowAt (BitVec.ofNat 36 R.TIL_PREP).toNat = some r ∧
    ¬ hitsSeal r (BitVec.ofNat 36 R.TIL_PREP).toNat 1 (inMode .idle) :=
  ⟨_, rfl, fun h => by simp [hitsSeal, inMode] at h⟩
theorem witness_reserved_bit : ∃ r : RegRow, rowAt (BitVec.ofNat 36 R.TIL_PREP).toNat = some r ∧
    reaches host R.TIL_PREP (inMode .idle) = true ∧ (0x80000000 : Word).getLsbD 31 = true ∧ r.defined.testBit 31 = false :=
  ⟨_, rfl, by decide, by decide, by decide⟩
theorem witness_unmapped : isRegPlace (0x30000FFFC : BitVec 36).toNat = true ∧
    reached (0x30000FFFC : BitVec 36).toNat (inMode .idle) = [] ∧ (0x30000FFFC : BitVec 36).toNat % 4 = 0 ∧
    reaches host 0x30000FFFC (inMode .idle) = true := by decide
theorem witness_turned_away : reaches host R.TIL_PREP (inMode .load) = false ∧ reaches (.ctx 0 0 0) R.TIL_PREP (inMode .sleep) = false := by decide
theorem witness_hears : hears host R.LST_DROPCNT (inMode .load) = true ∧
    Sparse.get [] (inMode .load).latches (Writer.key host) = [] ∧
    (BitVec.ofNat 36 R.LST_DROPCNT).toNat ∈ [R.LST_DROPCNT, R.LST_REDSEG] := by decide
theorem witness_set_now : ∃ s : State, (setNow R.POS_STAT s).getLsbD 3 = true ∧ (rd R.POS_STAT s).getLsbD 3 = true :=
  ⟨wb R.POS_STAT 3 true (inMode .idle), by decide⟩
theorem witness_nowhere : placeOf (0x310200000 : BitVec 36).toNat = .nowhere ∧ reached (0x310200000 : BitVec 36).toNat (inMode .idle) = [] ∧
    (0x310200000 : BitVec 36).toNat % 4 = 0 ∧ reaches host 0x310200000 (inMode .idle) = true := by decide
/-- A read in the core cycle of the event, and one without. -/
theorem witness_read_event : ∃ s t : State, ∃ e : RcEv, hears host (R.POS_ENC_ERR 3) s = true ∧ eventsNow (R.POS_ENC_ERR 3) s = [e] ∧
    e.lo + e.w ≤ 32 ∧ 1 ≤ e.w ∧ hears host (R.POS_ENC_ERR 3) t = true ∧ eventsNow (R.POS_ENC_ERR 3) t = [] :=
  ⟨{ inMode .idle with cyc := { counts := [(R.POS_ENC_ERR 3, [⟨0, 12, 3, 1⟩])] } }, inMode .idle, ⟨0, 12, 3, 1⟩, by decide⟩
theorem witness_couple_high : (BitVec.ofNat 36 R.CMP_CMTL).toNat ∈ [R.CMP_CMTL, R.NZL_CMTL] ∧ (255 : Word).toNat < 256 ∧
    reaches host R.CMP_CMTL (inMode .idle) = true ∧ Sparse.get none
      { inMode .idle with stages := [(Writer.key host, some (R.CMP_CMTL + 4, 7))] }.stages (Writer.key host) =
      some ((BitVec.ofNat 36 R.CMP_CMTL).toNat + 4, 7) := by decide
theorem witness_couple_latched : (2 ^ 32 - 1) < 2 ^ 32 ∧ Sparse.get []
      { inMode .idle with latches := [(Writer.key host, [(R.NZL_CMTL + 4, 2 ^ 32 - 1)])] }.latches (Writer.key host) =
      [((BitVec.ofNat 36 R.NZL_CMTL).toNat + 4, 2 ^ 32 - 1)] := by decide

def flash : FlashInfo := { present := true, sfdp := true, revision := 6, density := 27, quad := true, octal := false }
def phase (n : Nat) : State := { mode := .load, regs := [(R.STA_STAT, BitVec.ofNat 32 n)], loader := { flash := some flash } }
theorem witness_detection : (phase 0).mode = .load ∧ rf R.STA_STAT 0 3 (phase 0) = 0 ∧ (phase 0).loader.flash = some flash ∧ flash.present = true ∧
    ∃ f s, f.present = false ∧ s.mode = .load ∧ rf R.STA_STAT 0 3 s = 0 ∧ s.loader.flash = some f :=
  ⟨rfl, by decide, rfl, rfl, { flash with present := false }, { phase 0 with loader := { flash := some { flash with present := false } } }, by decide⟩
theorem witness_phase : (phase 1).mode = .load ∧ rf R.STA_STAT 0 3 (phase 1) = 1 ∧ ¬ headerRight [] :=
  ⟨rfl, by decide, by unfold headerRight; decide⟩
/-- A header and a table of one INST section of no bytes. -/
def goodImage : List Byte :=
  leBytes 4 0x3834514A ++ leBytes 2 1 ++ leBytes 2 256 ++ leBytes 4 288 ++ leBytes 2 1 ++ List.replicate 242 0 ++
    leBytes 1 4 ++ leBytes 3 0 ++ leBytes 4 288 ++ List.replicate 24 0
/-- The same with a section of type 9. -/
def badImage : List Byte := goodImage.set 256 9
theorem witness_good_image : headerRight goodImage ∧ tableRight goodImage := by
  unfold headerRight tableRight
  refine ⟨by decide, ?_⟩
  rw [show getLE goodImage 12 2 = 1 by decide]
  refine ⟨by decide, by decide, fun i hi => absurd hi (by omega), ⟨0, by omega, by decide, fun j hj _ => by omega⟩,
    fun i hi j hj _ _ => by omega, ?_, by decide⟩
  intro i hi h
  obtain rfl : i = 0 := by omega
  exact absurd h (by decide)
theorem witness_bad_image : headerRight badImage ∧ ¬ tableRight badImage := by
  refine ⟨by unfold headerRight; decide, fun h => ?_⟩
  have := h.1 0 (by decide)
  revert this; decide
theorem witness_self_test : (phase 2).mode = .load ∧ rf R.STA_STAT 0 3 (phase 2) < 3 ∧ (phase 2).loader.tested = false ∧
    spareOf 0 (phase 2) = none ∧ 0 ∉ (phase 2).lst.deadSpares ∧ 72 ≤ (73 : Fin 74).val ∧ rf R.STA_REPAIR 0 8 (phase 2) < 255 ∧ rf (R.PAN_SPARE 15) (4 * 3) 3 (phase 2) < 4 ∧
    rf (R.PAN_LSPARE 15) (2 * 15) 2 (phase 2) < 2 := by decide
theorem witness_self_test_fails : ∃ s : State, s.mode = .load ∧ rf R.STA_STAT 0 3 s < 3 ∧ s.loader.tested = false ∧
    (∀ p < 2, spareOf p s ≠ none ∨ p ∈ s.lst.deadSpares) ∧ 4 ≤ rf (R.PAN_SPARE 0) (4 * 3) 3 s ∧ 2 ≤ rf (R.PAN_LSPARE 0) (2 * 15) 2 s :=
  ⟨{ mode := .load, lst := { deadSpares := [1] }, regs := [(R.LST_SLICE, 0x0100), (R.PAN_SPARE 0, 0x4000), (R.PAN_LSPARE 0, 0x80000000)] }, by decide⟩
def inRead (l : List Section) : State := { phase 3 with loader := { secs := l } }
theorem witness_read : ∃ l : List Section, (inRead l).mode = .load ∧ rf R.STA_STAT 0 3 (inRead l) = 3 ∧
    (∀ x ∈ (inRead l).loader.secs, x.typ = 2 ∨ x.typ = 4 ∨ x.typ = 5) ∧ (∃ x ∈ l, x.typ = 2 ∧ 0 < x.len) ∧
    (l.find? (fun y => y.typ == 4)).isSome = true :=
  ⟨[⟨2, 320, 8, 0x8000000⟩, ⟨4, 328, 0, 0⟩], by decide⟩
theorem witness_read_patch : ∃ x y : Section, (inRead [x, y]).loader.secs = [x, y] ∧ x.typ = 1 ∧ x.len = 576 ∧ y.typ = 4 :=
  ⟨⟨1, 320, 576, 0⟩, ⟨4, 896, 0, 0⟩, by decide⟩
theorem witness_read_within : ∀ f, (phase 3).loader.flash = some f → f.sfdp = true ∨ ([] : List Byte).length ≤ 2 ^ 24 := fun _ _ => .inr (by decide)
theorem witness_verify : ∃ s : State, s.mode = .load ∧ rf R.STA_STAT 0 3 s = 4 ∧
    slice s.loader.trailer 0 32 = leBytes 32 (imageDigest s) ∧ s.loader.bodyOk = true ∧ s.jtag.fuses.getLsbD 0 = false ∧
    getLE s.loader.hdr 16 4 < ((List.range 32).filter (fun i => s.jtag.fuses.getLsbD (1 + i))).length :=
  ⟨{ phase 4 with loader := { bodyOk := true }, jtag := { fuses := 2 } }, by decide⟩
theorem witness_verify_accepts : ∃ s : State, rf R.STA_STAT 0 3 s = 4 ∧ slice s.loader.trailer 0 32 = leBytes 32 (imageDigest s) ∧
    s.jtag.fuses.getLsbD 0 = false ∧
    ((List.range 32).filter (fun i => s.jtag.fuses.getLsbD (1 + i))).length ≤ getLE s.loader.hdr 16 4 :=
  ⟨phase 4, by decide⟩
/-- SIGEN blown and a header without the signature flag: the signature fails. -/
theorem witness_verify_unsigned : ∃ s : State, rf R.STA_STAT 0 3 s = 4 ∧ s.jtag.fuses.getLsbD 0 = true ∧ signatureOk s = false :=
  ⟨{ phase 4 with jtag := { fuses := 1 } }, by decide, by decide, by unfold signatureOk; simp [phase, slice, getLE, leNat]⟩
theorem witness_slots : (phase 5).mode = .load ∧ rf R.STA_STAT 0 3 (phase 5) = 5 ∧
    ∃ s : State, rf R.STA_STAT 0 3 s = 5 ∧ SlotsCollide s :=
  ⟨rfl, by decide, { phase 5 with regs := (R.FAB_FLOW_SL 0x8C, 1) :: (phase 5).regs }, by decide,
    .inl ⟨0x8C, by decide, by decide, by decide⟩⟩
set_option maxRecDepth 20000 in
theorem witness_no_collision : ¬ SlotsCollide (phase 5) := by
  have h0 : ∀ f < 256, flowMask f (phase 5) = 0 := by decide
  have h1 : ∀ f < 256, ∀ k, ((flowUse f (phase 5)).getD k (0, 0)).2 = 0 := by
    intro f hf k
    have h2 : ∀ e ∈ flowUse f (phase 5), e.2 = 0 := by
      intro e he
      unfold flowUse at he
      split at he
      · obtain ⟨j, -, rfl⟩ := List.mem_map.1 he
        simp [h0 f hf, slotsOn]
      · cases he
    rw [List.getD_eq_getElem?_getD]
    cases h : (flowUse f (phase 5))[k]? with
    | none => rfl
    | some e => exact h2 e (List.mem_of_getElem? h)
  rintro (⟨f, hf, -, h⟩ | ⟨f, hf, g, hg, k, -, j, -, -, h⟩)
  · exact h (h0 f hf)
  · exact h (by rw [h1 f hf k]; exact Nat.zero_and _)
theorem witness_proof_exit : ∃ s t : State, s.mode = .proof ∧ s.proofAt + 400000000 ≤ s.time ∧ t.mode = .proof ∧
    proofDone t = false ∧ t.time < t.proofAt + 400000000 :=
  ⟨{ mode := .proof, time := 400000000 }, { mode := .proof, time := 399999999 }, by decide⟩
theorem witness_fuse : ∃ s : State, s.jtag.prog = [289] ∧ 289 < 290 := ⟨{ jtag := { prog := [289] } }, by decide⟩

/-! ### Witnesses: position -/

/-- Encoder 0 enabled and driving p by 1 tick a count, in PRINT. -/
def onPrint : State :=
  { mode := .print, time := 4000, regs := [(R.POS_ENC_CTL 0, 1), (R.POS_ENC_CTL 1, 3), (R.POS_ENC_NUM 0, 1), (R.POS_ENC_DEN 0, 1)] }
theorem witness_edge : onPrint.mode ≠ .cold ∧ onPrint.mode ≠ .load ∧ rb (R.POS_ENC_CTL 0) 0 onPrint = true ∧
    accepted .ab onPrint.time (encOf 0 onPrint).f = some .ab ∧ accepted .a onPrint.time (encOf 0 onPrint).f = some .a ∧ Follows 0 onPrint ∧
    onPrint.pos.arb = false ∧ onPrint.pos.issued ≤ pOf onPrint ∧
    onPrint.pos.illLine < 16 ∧ rb R.POS_STAT 2 onPrint = false := by
  unfold Follows; decide
theorem witness_edge_other : rb (R.POS_ENC_CTL 1) 0 onPrint = true ∧ 1 ≠ driveInput onPrint ∧
    ∃ s : State, rb (R.POS_ENC_CTL 0) 0 s = true ∧ Follows 0 s ∧ 16 ≤ s.pos.illLine ∧ s.pos.arb = true ∧
      (∃ s : State, accepted .a s.time (encOf 1 s).f = none) :=
  ⟨by decide, by decide, { onPrint with pos := { illLine := 16, arb := true } }, by decide, by unfold Follows; decide, by decide, by decide,
   { onPrint with pos := { enc := [(1, { f := { endA := some 4001 } })] } }, by decide⟩
def held : State := { onPrint with pos := { 
  enc := [(0, { f := { a := true, endA := some 3990, cntA := -1 }, edges := 256, emin := some 40 })]
  d0 := { f := { a := true, endA := some 3990, cntA := -1 } }, d1 := { f := { a := true, endA := some 3990, cntA := -1 } } } }
theorem witness_hold_off : counting held = true ∧ ended .a held.time (encOf 0 held).f = true ∧ (encOf 0 held).f.a = true ∧ (encOf 0 held).f.cntA = -1 ∧ Follows 0 held ∧
    ended .b held.time (encOf 0 held).f = false ∧
    256 ≤ (encOf 0 held).edges ∧ (encOf 0 held).emin = some 40 := by
  unfold Follows; decide
theorem witness_glitch_filter : (0x01FFFFFF : Word) &&& 0xFE000000 = 0 ∧ reaches host (R.POS_ENC_GF 0) onPrint = true ∧ onPrint.mode ≠ .load := by decide
theorem witness_z_edge : ∃ s : State, s.mode ≠ .cold ∧ rb (R.POS_ENC_CTL 0) 0 s = true ∧ (encOf 0 s).lastZ = some 0 ∧
    rb (R.POS_ENC_CTL 0) 2 s = true ∧ (encOf 0 s).revs = 0 ∧
    2 < (wrapS 32 ((rd (R.POS_ENC_CNT 0) s).toInt - 0) - rf (R.POS_ENC_CTL 0) 8 24 s).natAbs :=
  ⟨{ onPrint with regs := [(R.POS_ENC_CTL 0, 0x305)], pos := { enc := [(0, { lastZ := some 0 })] } }, by decide⟩
theorem witness_z_edge_in_tolerance : ∃ s : State, (encOf 0 s).lastZ = some 0 ∧ rb (R.POS_ENC_CTL 0) 0 s = true ∧
    (wrapS 32 ((rd (R.POS_ENC_CNT 0) s).toInt - 0) - rf (R.POS_ENC_CTL 0) 8 24 s).natAbs ≤ 2 :=
  ⟨{ onPrint with regs := [(R.POS_ENC_CTL 0, 0x205)], pos := { enc := [(0, { lastZ := some 0 })] } }, by decide⟩
theorem witness_stop : ∃ s : State, s.mode ≠ .cold ∧ s.mode ≠ .load ∧ s.pos.countAt + 2 ^ 25 ≤ s.time :=
  ⟨{ mode := .print, time := 2 ^ 25 }, by decide⟩
theorem witness_arbitration : onPrint.pos.dropped = none ∧ onPrint.pos.arb = false ∧ 4 ≤ (4 : BitVec 8).toNat ∧
    onPrint.pos.d0.p + (1 : BitVec 16).toInt ≠ onPrint.pos.d1.p + 0 := by decide
/-- Decoder 1 agrees with the replay, decoder 0 in use does not. -/
theorem witness_arbitration_end : ∃ s : State, s.pos.arb = true ∧ s.pos.arbAt + 256 ≤ s.time ∧ s.pos.d1.p = (replayed s).p ∧
    s.pos.d1.r = (replayed s).r ∧ s.pos.d0.p ≠ (replayed s).p ∧ s.pos.use < 2 ∧ s.pos.issued ≤ s.pos.d1.p :=
  ⟨{ onPrint with pos := { arb := true, d0 := { p := 5 } } }, by decide⟩
theorem witness_arbitration_lost : ∃ s : State, s.pos.arb = true ∧ s.pos.arbAt + 256 ≤ s.time ∧ s.pos.d1.p ≠ (replayed s).p ∧
    s.pos.d0.p ≠ (replayed s).p ∧ s.pos.issued = pOf s ∧ fdiv (pOf s) 256 ≤ s.pos.hwm ∧ onPrint.pos.arb = false :=
  ⟨{ onPrint with pos := { arb := true, d0 := { p := 5 }, d1 := { p := 6 }, issued := 5 } }, by decide⟩
theorem witness_failover : reaches host R.POS_CTL onPrint = true ∧ mayFailover onPrint = false ∧ ∃ s : State, mayFailover s = true ∧
    reaches host R.POS_CTL s = true :=
  ⟨by decide, by decide, { onPrint with regs := [(R.POS_SRC, 0x14), (R.POS_ENC_CTL 1, 1)] }, by decide⟩
theorem witness_decoder_reset : ∃ s : State, reaches host R.POS_CTL s = true ∧ s.pos.dropped ≠ none ∧ 2 ^ 20 ≤ s.pos.agreed :=
  ⟨{ onPrint with pos := { dropped := some 1, agreed := 2 ^ 20 } }, by decide⟩
/-- A count just reached the next fire of row group 0. -/
def atFire : State := { onPrint with pos := { win := [(4000, 256), (3000, 246)], lastCount := some 4000, lastGap := 100, d0 := { p := 256 } } }
theorem witness_prediction : predict 0 atFire = some 4000 ∧ atFire.pos.win.head? = some (4000, 256) ∧ rb (R.POS_PHASE 0) 0 atFire = false ∧
    (rgOf 0 atFire).cancelled = false ∧ (rgOf 0 atFire).kept = none := by decide
theorem witness_placement : (armedPlacement 0 atFire).isSome = true ∧ (placement 0 atFire).isSome = true ∧
    (velocity atFire) = some (10, 1000) ∧ (∃ f t, armedPlacement 0 atFire = some (f, t) ∧ t ≤ atFire.time ∧
      ∃ s : State, armedPlacement 0 s = some (f, t) ∧ s.time < t) :=
  ⟨by decide, by decide, by decide, nextFire 0 atFire, 4000, by decide, by decide, { atFire with time := 3999 }, by decide⟩
theorem witness_placement_late : ∃ s : State, ∃ f t, placement 0 s = some (f, t) ∧ tooLate t s = true :=
  ⟨{ atFire with pos := { atFire.pos with lastCount := some 0 } }, nextFire 0 atFire, 4000, by decide⟩
theorem witness_edge_locked : ∃ s : State, ∃ f, (rgOf 0 s).pend = some f ∧ (rgOf 0 s).elk = some 7 ∧ 7 + 16 + rf (R.POS_PHASE 0) 12 12 s ≤ s.time ∧ s.pos.arb = false ∧ rb (R.POS_PHASE 0) 0 s = true ∧
    f.fires = true ∧ groupDown 0 f.q s = false ∧ s.mode ≠ .safe ∧ s.jtag.ir ≠ 0 ∧ rb (R.HLK_STB 31) 12 s = true ∧
    rf (R.HLK_STB 31) 0 6 s = 0 ∧ suppressed 31 0 f.q s = false :=
  ⟨{ onPrint with regs := [(R.POS_PHASE 0, 1), (R.HLK_STB 31, 0x1000)]
                  pos := { rg := [(0, { pend := some ⟨1, 0, 0, true⟩, elk := some 7 })] } }, ⟨1, 0, 0, true⟩, by decide⟩
theorem witness_pulse_end : ∃ s : State, Sparse.get none s.links.high 31 = some 0 ∧ 0 + rf (R.HLK_STB 31) 16 16 s ≤ s.time ∧ s.jtag.ir ≠ 0 ∧
    nextInstant (rf (R.HLK_STB 31) 0 6 s) s = none :=
  ⟨{ links := { high := [(31, some 0)] } }, by decide⟩
/-- A pulse of 2000 units begun at 3000 meets the next fire of its row group at 4000. -/
theorem witness_pulse_cut : ∃ s : State, Sparse.get none s.links.high 31 = some 3000 ∧ nextInstant (rf (R.HLK_STB 31) 0 6 s) s = some 4000 ∧
    4000 < 3000 + rf (R.HLK_STB 31) 16 16 s + 8 ∧ 3000 + 8 ≤ 4000 ∧ 4000 ≤ s.time + 8 ∧ s.jtag.ir ≠ 0 :=
  ⟨{ atFire with regs := atFire.regs ++ [(R.HLK_STB 31, 0x07D01000)], links := { high := [(31, some 3000)] } }, by decide⟩
theorem witness_capture : ∃ s : State, counting s = true ∧ rb (R.POS_EV_CTL 15) 0 s = true ∧ rb (R.POS_EV_CTL 15) 1 s = false ∧ (evOf 15 s).window = false :=
  ⟨{ mode := .idle, regs := [(R.POS_EV_CTL 15, 1)] }, by decide⟩
theorem witness_capture_shadow : ∃ s t : State, rb (R.POS_EV_CTL 15) 1 s = true ∧ (evOf 15 s).window = true ∧ (evOf 15 s).shadow = none ∧
    rb (R.POS_EV_CTL 15) 1 t = true ∧ (evOf 15 t).window = true ∧ (evOf 15 t).shadow ≠ none :=
  ⟨{ mode := .idle, regs := [(R.POS_EV_CTL 15, 2)], pos := { ev := [(15, { window := true })] } },
   { mode := .idle, regs := [(R.POS_EV_CTL 15, 2)], pos := { ev := [(15, { window := true, shadow := some (3, 4) })] } }, by decide⟩
theorem witness_capture_close : ∃ s : State, hears host (R.POS_EV_TSL 15) s = true ∧
    Sparse.get [] s.latches (Writer.key host) = [(R.POS_EV_PH 15, 65535)] ∧ (evOf 15 s).shadow = some (3, 4) :=
  ⟨{ mode := .idle, latches := [(Writer.key host, [(R.POS_EV_PH 15, 65535)])]
     pos := { ev := [(15, { window := true, shadow := some (3, 4) })] } }, by decide⟩
theorem witness_registration : ∃ s : State, reaches host (R.POS_REG_CTL 7) s = true ∧ bit 0 5 = false ∧ rb (R.POS_REG_CTL 7) 5 s = true ∧ s.sealed = true :=
  ⟨{ mode := .idle, sealed := true, regs := [(R.POS_REG_CTL 7, 0x20)] }, by decide⟩
theorem witness_ssi : ∃ s : State, (ssiOf 1 s).frame = some 9 ∧ (ssiOf 1 s).prev = some (3, 4) ∧ 0 < rf (R.POS_SSI_SCALE 1) 16 16 s :=
  ⟨{ mode := .idle, regs := [(R.POS_SSI_SCALE 1, 0x10001)], pos := { ssi := [(1, { frame := some 9, prev := some (3, 4) })] } }, by decide⟩
theorem witness_rebase : (inMode .idle).mode = .idle ∧ reaches host R.POS_CTL (inMode .idle) = true ∧ onPrint.mode ≠ .idle := by decide

/-! ### Witnesses: lines, commits, nozzles, line store -/

/-- Slice 15 enabled with both lanes and at work on line 5. -/
def composing15 (x : Slice) : State :=
  { mode := .print, regs := [(R.CLC_CTL 15, 5), (R.CLC_LANE 15, 3)], cmp := { slices := [(15, x)] } }
theorem witness_slice : ∃ s : State, unitsRun s = true ∧ (sliceOf 15 s).cur = some (-2 ^ 39) ∧ sliceWorks 15 s = true ∧
    (sliceOf 15 s).testing = false ∧ -2 ^ 39 ≤ (-2 ^ 39 : Int) ∧ rb (R.CLC_CTL 15) 2 s = true ∧ rf (R.CLC_LANE 15) 0 2 s = 3 ∧
    (sliceOf 15 s).third = false := ⟨composing15 { cur := some (-2 ^ 39) }, by decide⟩
theorem witness_slice_tested : ∃ s t : State, unitsRun s = true ∧ (sliceOf 15 s).cur = some 5 ∧ (sliceOf 15 s).testing = true ∧
    unitsRun t = true ∧ (sliceOf 15 t).cur = some 5 ∧ (sliceOf 15 t).third = true ∧ rf (R.CLC_LANE 15) 0 2 t = 3 :=
  ⟨composing15 { cur := some 5, testing := true }, composing15 { cur := some 5, third := true }, by decide⟩
theorem witness_proof_bank : ∃ r : RegRow, rowAt (BitVec.ofNat 36 (R.CLC_SPR_LEN 15)).toNat = some r ∧ r.ps = true ∧
    (∀ i < 32, (0x1FFF : Word).getLsbD i = true → r.defined.testBit i = true) ∧
    (BitVec.ofNat 36 (R.CLC_SPR_LEN 15)).toNat % 0x10000 ∉ [0x110C, 0x112C, 0x114C, 0x116C, 0x11A8, 0x1110, 0x1130, 0x1150, 0x1170, 0x11AC] ∧
    reaches .loader (R.CLC_SPR_LEN 15) (inMode .load) = true ∧ reaches host (R.CLC_SPR_LEN 15) (inMode .print) = true ∧ proofPend 15 (inMode .print) = none ∧
    proofPend 15 { inMode .print with cmp := { pend := [⟨false, 16, 9, 0x8000, 0, true⟩] } } ≠ none :=
  ⟨_, rfl, by decide, by decide, by decide, by decide, by decide, by decide, by decide⟩
theorem witness_proof_couple : ∃ r q : RegRow, rowAt (BitVec.ofNat 36 (R.CLC_PL_YORGL 0 3)).toNat = some r ∧ r.ps = true ∧
    rowAt (BitVec.ofNat 36 (R.CLC_PL_YORGH 0 3)).toNat = some q ∧ q.ps = true ∧
    (BitVec.ofNat 36 (R.CLC_PL_YORGL 0 3)).toNat % 0x10000 = 0x116C ∧ (BitVec.ofNat 36 (R.CLC_PL_YORGH 0 3)).toNat % 0x10000 = 0x1170 ∧
    Sparse.get none { inMode .print with stages := [(Writer.key host, some (R.CLC_PL_YORGH 0 3, 7))] }.stages (Writer.key host) =
      some ((BitVec.ofNat 36 (R.CLC_PL_YORGH 0 3)).toNat, 7) :=
  ⟨_, _, rfl, by decide, rfl, by decide, by decide, by decide, by decide⟩
theorem witness_commit_issue : reaches host (commitStat true 16) (inMode .print) = true ∧ reaches host (commitStat false 15) (inMode .print) = true ∧ rb (commitStat true 16) 3 (inMode .print) = false ∧
    rb (commitStat false 15) 3 { inMode .print with regs := [(R.CLC_CMTSTAT 15, 8)] } = true ∧ issuerOf (some 15) = 15 ∧
    issuerOf none = 16 := by decide
theorem witness_commit_decision : ∃ (c d : Commit) (s : State), firstCommit s.cmp.issued = some c ∧ s.cmp.issued = [d, c] ∧
    s.mode.fromProof = true ∧ s.mode ≠ .sleep ∧ c.issuer < 17 ∧ commitResult (enabledMask s) c.line s = 6 :=
  ⟨⟨true, 16, 9, 0, 4⟩, ⟨false, 0, 9, 1, 4⟩, { mode := .print, cmp := { issued := [⟨false, 0, 9, 1, 4⟩, ⟨true, 16, 9, 0, 4⟩] } }, by decide⟩
theorem witness_commit_auto : ∃ (c : Commit) (s : State), firstCommit s.cmp.issued = some c ∧ s.mode.fromProof = true ∧
    c.issuer = 17 ∧ s.mode ≠ .sleep ∧ commitResult (enabledMask s) c.line s = 1 ∧ s.lst.auto ≠ [] ∧
    ∃ u : State, firstCommit u.cmp.issued = some c ∧ u.mode.fromProof = true ∧ u.mode ≠ .sleep ∧ commitResult (enabledMask u) c.line u = 6 :=
  ⟨⟨true, 17, 9, 0, 4⟩, { mode := .print, regs := [(R.CMP_CFG, 0x1FFFF), (R.NZL_CFG, 1)] ++ (List.range 16).map (fun n => (R.CLC_CTL n, 1)), lst := { auto := [⟨0, 1, true, true, true⟩] }, cmp := { issued := [⟨true, 17, 9, 0, 4⟩] } },
    by decide, by decide, rfl, by decide, by decide, by decide, { mode := .print, cmp := { issued := [⟨true, 17, 9, 0, 4⟩] } }, by decide⟩
theorem witness_commit_arrival : ∃ (p : PendCommit) (s : State), s.mode.fromProof = true ∧ s.mode ≠ .sleep ∧
    s.cmp.pend.find? (fun q => !q.nozzle && bitN q.flying 15) = some p ∧ (sliceOf 15 s).last = some 9 ∧ p.line ≤ 9 ∧ unitsRun s = false ∧ carries 7 (clusterNode 15) s = true :=
  ⟨⟨false, 16, 9, 0x8000, 0x8000, true⟩, { mode := .safe, cmp := { slices := [(15, { last := some 9 })], pend := [⟨false, 16, 9, 0x8000, 0x8000, true⟩] } },
    by decide⟩
def arriving (l : Int) : State :=
  { composing15 { cur := some 9, last := some 9, beganAt := 0 } with
    cmp := { slices := [(15, { cur := some 9, last := some 9, beganAt := 0 })], pend := [⟨false, 16, l, 0x8000, 0x8000, true⟩] } }
theorem witness_commit_arrival_works : unitsRun (arriving 9) = true ∧ justBegan 15 9 (arriving 9) = true ∧ proofPend 15 (arriving 9) = none ∧
    bitN 0x8000 15 = true ∧ unitsRun (arriving 8) = true ∧ justBegan 15 8 (arriving 8) = false ∧ sliceWorks 15 (arriving 8) = true ∧
    (sliceOf 15 (arriving 8)).testing = false ∧ (arriving 8).cmp.pend.find? (fun q => !q.nozzle && bitN q.flying 15) ≠ none := by decide
def nozArriving : State :=
  let c : Cmp := { composed := [(15, 9, [])], slices := [(15, { last := some 9 })], pend := [⟨true, 16, 9, 0x8000, 0x8000, true⟩] }
  { mode := .safe, cmp := c }
theorem witness_commit_nozzle_arrival : ∃ (p : PendCommit) (s : State), s.mode.fromProof = true ∧ s.mode ≠ .sleep ∧
    s.cmp.pend.find? (fun q => q.nozzle && q.flying != 0) = some p ∧ unitsRun s = false ∧
    (∃ e ∈ s.cmp.composed, p.line ≤ e.2.1) ∧ bitN p.mask 15 = true ∧ (sliceOf 15 s).last = some 9 ∧ p.line ≤ 9 :=
  ⟨⟨true, 16, 9, 0x8000, 0x8000, true⟩, nozArriving, by decide⟩
theorem witness_commit_nozzle_works : ∃ p : PendCommit, unitsRun { nozArriving with mode := .print } = true ∧
    nozArriving.cmp.pend.find? (fun q => q.nozzle && q.flying != 0) = some p ∧ (∃ e ∈ nozArriving.cmp.composed, p.line ≤ e.2.1) :=
  ⟨⟨true, 16, 9, 0x8000, 0x8000, true⟩, by decide⟩
theorem witness_stream : reaches host R.CMP_STR_WP (inMode .print) = true ∧ reaches host R.CMP_STR_CTL (inMode .print) = true ∧ (0x7FFFC0 : Word) &&& 0xFF80003F = 0 := by decide

/-- Row group 63 with 10 nozzles of width 3. -/
def mapped : State := { mode := .print, regs := [(R.NZL_RG 63, 3), (R.NZL_RG_N 63, 10)] }
theorem witness_nozzle_update : reaches host (updReg (some 15)) mapped = true ∧ reaches host (R.CLN_QRY 15) mapped = true ∧ fld (0xFF000009 : Word) 24 6 = 63 ∧ fld (0xFF000009 : Word) 0 17 = 9 ∧
    fld (0xFF000009 : Word) 30 2 = (3 : Fin 4).val ∧ (0xFF000009 : Word) &&& 0x000E0000 = 0 ∧ nozzlePend mapped = none ∧
    9 < rf (R.NZL_RG_N 63) 0 18 mapped ∧ 1 ≤ rf (R.NZL_RG 63) 0 2 mapped ∧ rf (R.NZL_RG 63) 0 2 mapped = 3 ∧
    rf (R.NZL_RG_N 63) 0 18 mapped ≤ 10 ∧ (0x80000009 : Word) &&& 0x40FE0000 = 0 := by decide
theorem witness_nozzle_pending : ∃ s : State, reaches host (updReg none) s = true ∧ nozzlePend s ≠ none :=
  ⟨{ mapped with cmp := { pend := [⟨true, 16, 9, 1, 0, true⟩] } }, by decide⟩
theorem witness_nozzle_mended : ∃ s : State, reaches host (updReg none) s = true ∧ nozzlePend s = none ∧
    (∃ e ∈ s.lst.tabErr, e.1 ∈ (nozBytes 63 9 s).map (.bank true)) ∧ ∃ e ∈ s.lst.tabErr, e.1 ∉ (nozBytes 63 9 s).map (.bank true) :=
  ⟨{ mapped with lst := { tabErr := [(.bank true 9, false), (.bank true 8, true)] } }, by decide⟩
theorem witness_record : ∃ s : State, ∃ g n v, s.lst.records = [63 * 2 ^ 17 + 9 + 2 ^ 25] ∧ s.mode.fromProof = true ∧ s.mode ≠ .sleep ∧
    convertRecord (63 * 2 ^ 17 + 9 + 2 ^ 25) s = some (g, n, v) ∧ rb R.NZL_CFG 0 s = true ∧ bitsN v 25 4 = 1 ∧
    (rf R.NZL_SQ_WP 0 13 s + 1) % 16 ≠ rf R.NZL_SQ_RP 0 13 s % 16 :=
  ⟨{ mapped with regs := (R.NZL_CFG, 1) :: mapped.regs, lst := { records := [63 * 2 ^ 17 + 9 + 2 ^ 25] } }, 63, 9,
    63 * 2 ^ 17 + 9 + 2 ^ 25, by decide⟩
theorem witness_record_unnamed : ∃ s : State, s.lst.records = [10 + 63 * 2 ^ 17] ∧ s.mode.fromProof = true ∧
    convertRecord (10 + 63 * 2 ^ 17) s = none := ⟨{ mapped with lst := { records := [10 + 63 * 2 ^ 17] } }, by decide⟩
theorem witness_automiss : ∃ row : RegRow, rowAt R.NZL_CFG = some row ∧ (0 : Word) &&& 0xF800F0FC = 0 ∧ bit 0 0 = false ∧
    reaches host R.NZL_CFG mapped = true := ⟨_, rfl, by decide⟩
def coding (c : Coded) (l : List (Nat × Word)) : State := { mode := .print, regs := l, lst := { busy := some c } }
theorem witness_line_ready : ∃ (c : Coded) (s : State), unitsRun s = true ∧ s.lst.busy = some c ∧ c.testing = false ∧
    c.encTesting = false ∧ c.bytes.length ≤ 0xC000 ∧ compressed s = true ∧ c.bytes.length ≤ 65472 ∧ c.fate = .stored ∧ nextDue s.lst.lastCond s = none ∧
    s.pos.hwm < c.line + rf R.LST_DREL 0 14 s + 1 ∧ rf R.LST_WP 0 21 s < 1570816 :=
  ⟨⟨5, .stored, List.replicate 64 1, 0, 0, [], [], 0, false, false, 0, false, false, []⟩, coding ⟨5, .stored, List.replicate 64 1, 0, 0, [], [], 0, false, false, 0, false, false, []⟩ [(R.LST_CFG, 1)], by decide⟩
theorem witness_pipeline : ∃ (c : Coded) (s : State), unitsRun s = true ∧ s.lst.busy = some c ∧ rf R.NZL_PIPE 0 2 s = 3 ∧
    c.testing = false ∧ c.third = true ∧ rb R.COD_CFG 0 s = true ∧ rf R.COD_PIPE 0 2 s = 3 ∧ c.encTesting = false :=
  ⟨{ line := 5, fate := .stored, third := true }, coding { line := 5, fate := .stored, third := true } [(R.COD_CFG, 1), (R.NZL_PIPE, 3), (R.COD_PIPE, 3)], by decide⟩
theorem witness_pipeline_test : ∃ (c : Coded) (s : State), unitsRun s = true ∧ s.lst.busy = some c ∧ c.testing = true ∧ c.encTesting = true :=
  ⟨{ line := 5, fate := .stored, testing := true, encTesting := true }, coding { line := 5, fate := .stored, testing := true, encTesting := true } [], by decide⟩
def scrubbed (l : Lst) : State := { mode := .print, regs := [(R.LST_SCRUB, 0x10000), (R.LST_SLICE, 0x7F7F00), (R.LST_CETHR, 3)], lst := l }
theorem witness_scrub : ∃ s : State, storeTests s = true ∧ rb R.LST_SCRUB 16 s = true ∧ s.ue = [] ∧ (s.lst.scrubBlk + 1) % 1572864 ≠ 0 ∧
    (∀ k ∈ ([5, 5] : List (Fin 72)), Sparse.get 0 s.lst.scrubCnt k.val + ([5, 5] : List (Fin 72)).count k < max 1 (rf R.LST_CETHR 0 16 s)) ∧
    Sparse.get 0 s.lst.scrubCnt 71 + 1 = max 1 (rf R.LST_CETHR 0 16 s) ∧ s.lst.job = .idle ∧ s.lst.repair = none ∧ s.lst.repairQ = [] ∧
    freeSpare s = some 0 ∧ jobNow s = .load 0 0 := ⟨scrubbed { scrubCnt := [(71, max 1 (rf R.LST_CETHR 0 16 (scrubbed {})) - 1)] }, by decide⟩
theorem witness_slice_copy : ∃ s t u : State, storeTests s = true ∧ s.lst.repair = some (71, 1) ∧ s.lst.repairQ = [] ∧
    t.lst.job = .march 71 1 ∧ t.lst.repair = none ∧ u.lst.job = .back 71 1 ∧ u.lst.repairQ = [] :=
  ⟨scrubbed { repair := some (71, 1) }, scrubbed { job := .march 71 1 }, scrubbed { job := .back 71 1 }, by decide⟩


/-! ### Witnesses: head links, waveform block -/

/-- A transfer of row group g on a port of a generation. -/
def xfer (gen port g : Nat) : Xfer := { q := 5, g := g, gen := gen, port := port, hlane := 15, order := 15, w := 3, codes := [7] }
def sending (l : List Xfer) : State := { mode := .print, links := { xfers := l } }
theorem witness_transfers : 0 < (xfer 1 3 63).codes.length ∧ 2 < (xfer 1 3 63).w ∧ firstXfer (onPort 1 3 (sending [xfer 1 3 63])) = some (xfer 1 3 63) ∧
    packing 1 3 (sending [xfer 1 3 63]) = true ∧ firstXfer (onPort 2 23 (sending [xfer 2 23 63])) = some (xfer 2 23 63) ∧
    packing 2 23 (sending [xfer 2 23 63]) = true ∧ (xfer 2 23 63).hlane < 16 ∧ (xfer 2 23 63).codes.length < 2 ^ 17 := by decide
/-- Row group 63, one slot of 10 nozzles, on Gen-3 port 7, which is up. -/
def onG3 : State :=
  { atFire with
    regs := [(R.POS_ENC_CTL 0, 1), (R.POS_ENC_NUM 0, 1), (R.POS_ENC_DEN 0, 1), (R.NZL_RG 63, 3), (R.NZL_RG_N 63, 10), (R.NZL_CFG, 0x10000),
      (R.NZL_GEO_A 0, 0x1F80000), (R.NZL_GEO_B 0, 9), (R.HLK_RTA (16 * 63), 0x3F), (R.HLK_G3P_STAT 7, 0x51), (R.HLK_G3P_CFG 7, 1), (R.HLK_CFG, 0xFF01)] }
theorem witness_gen3 : ∃ x : Xfer, ∃ s : State, firstXfer ((onPort 3 7 s).filter (fun x =>
    beforeCutoff 7 x.g ((dataFrame x).payload.length / 8) x.q s)) = some x ∧ packing 3 7 s = true ∧ portUp 7 s = true ∧
    dataTurn 7 s = true ∧ replayWords 7 s + (dataFrame x).payload.length / 8 + 3 ≤ 8192 :=
  ⟨xfer 3 7 63, { onG3 with mode := .armed, links := { xfers := [xfer 3 7 63], g3 := [(7, { lastTime := some 4000 })] } }, by decide⟩
theorem witness_gen3_frame : ∃ f : Frame3, f.typ < 16 ∧ f.flags < 256 ∧ f.seq < 65536 ∧ f.g < 64 ∧ f.w < 4 ∧ f.hlane < 256 ∧
    f.n < 2 ^ 24 ∧ f.payload.length % 8 = 0 ∧ f.payload.length < 2 ^ 19 :=
  ⟨{ seq := 65535, typ := 15, q := -1, g := 63, hlane := 255, w := 3, n := 2 ^ 24 - 1, flags := 255, payload := [1, 2, 3, 4, 5, 6, 7, 8] }, by decide⟩
theorem witness_fire_frame : ∃ f at_, extrapolated 63 onG3 = some (f, at_) ∧ lineFires 63 f onG3 = true ∧ linksSend onG3 = true ∧
    peelWorks onG3 = true ∧ (rgOf 63 onG3).sent = none ∧ g3Ports 63 f.q onG3 = [7] ∧ (rgOf 63 onG3).cancelled = false ∧ onG3.time ≤ at_ ∧
    inFireWin at_ onG3 = true ∧ portUp 7 onG3 = true ∧ (g3Of 7 onG3).freeAt ≤ onG3.time ∧ (g3Of 7 onG3).fires = [] ∧ portUp 6 onG3 = false ∧
      onG3.time < (g3Of 7 { onG3 with links := { g3 := [(7, { freeAt := 4001 })] } }).freeAt := ⟨nextFire 63 onG3, 4000, by decide⟩
theorem witness_time_frame : g3Live onG3 = true ∧ portUp 7 onG3 = true ∧ (g3Of 7 onG3).lastTime = none ∧ (g3Of 7 onG3).freeAt ≤ onG3.time ∧
    (g3Of 7 onG3).fires = [] ∧ fireOwed 7 { onG3 with mode := .armed } = false ∧ g3Live { onG3 with mode := .armed } = true ∧ (g3Of 7 { onG3 with time := 2 ^ 21, links := { g3 := [(7, { lastTime := some 0 })] } }).lastTime = some 0 := by decide
/-- A frame of a head: type, LMASK field 0xF, one payload word, its CRC. -/
def headFrame (typ : Nat) : List Byte :=
  let l := BitVec.ofNat 8 typ :: [0, 0, 0, 0, 0, 0, 0, 0, 0, 0xF0, 0, 0, 0, 1, 0, 1, 0, 0, 0, 0, 0, 0, 0]
  l ++ leBytes 4 (crc32c l) ++ [0, 0, 0, 0]
def kept (x : G3) : State := { onG3 with links := { g3 := [(7, x)] } }
theorem witness_answers : g3Live onG3 = true ∧ portUp 7 onG3 = true ∧ rxIntact [] = false ∧ rxIntact (headFrame 8) = true ∧
    getLE (headFrame 8) 0 1 % 16 = 8 ∧ rxIntact (headFrame 9) = true ∧ getLE (headFrame 9) 0 1 % 16 = 9 ∧
    rxIntact (headFrame 10) = true ∧ getLE (headFrame 10) 0 1 % 16 = 0xA ∧ rxIntact (headFrame 11) = true ∧
    getLE (headFrame 11) 0 1 % 16 = 0xB ∧ getLE (headFrame 11) 14 2 = 1 := by
  set_option maxRecDepth 8000 in decide
theorem witness_nak : ∃ x : G3, (∀ l < 4, Sparse.get 0 (g3Of 7 (kept x)).naks l < 3) ∧
    ((g3Of 7 (kept x)).replay.find? (fun f => f.seq == getLE (headFrame 9) 2 2)).isSome = true ∧
    bitN (getLE (headFrame 9) 10 1 / 16) 0 = true := ⟨{ naks := [(0, 2)], replay := [{ seq := 0, typ := 1, q := 5, g := 63 }] }, by decide⟩
theorem witness_nak_fourth : ∃ x : G3, 3 ≤ Sparse.get 0 (g3Of 7 (kept x)).naks 0 ∧ bitN (lmask 7 (kept x)) 0 = true ∧
    bitN (getLE (headFrame 9) 10 1 / 16) 0 = true := ⟨{ naks := [(0, 3)] }, by decide⟩
theorem witness_ack_timeout : ∃ x y : G3, ((g3Of 7 (kept x)).replay.find? (fun f => f.seq == 65535)).isSome = true ∧
    0 + 40 * rf R.HLK_CFG 0 8 (kept x) ≤ (kept x).time ∧ (g3Of 7 (kept x)).again.contains 65535 = false ∧ (g3Of 7 (kept x)).silent = 14 ∧ (g3Of 7 (kept y)).silent = 15 :=
  ⟨{ silent := 14, replay := [{ seq := 65535, typ := 1, q := 5, g := 63 }] },
   { silent := 15, replay := [{ seq := 65535, typ := 1, q := 5, g := 63 }] }, by decide⟩
theorem witness_lanes : ∃ s t : State, ((7 : Nat), 4) = rxPort 7 s ∧ g3Live s = true ∧ portUsed 7 s = true ∧ bitN (rxLanes 7 s) 0 = true ∧
    rxLanes 7 s = 1 ∧ reaches host (R.HLK_G3P_STAT 7) s = true ∧ ((6 : Nat), 5) = rxPort 7 t ∧ portUsed 6 t = true ∧ bitN (rxLanes 6 t) 1 = true ∧
    rxLanes 6 t = 3 := ⟨onG3, { onG3 with regs := [(R.HLK_G3P_CFG 6, 3), (R.HLK_G3P_STAT 6, 0x7F)] }, by decide⟩
theorem witness_training : ∃ s : State, g3Live s = true ∧ (5 : Nat) ∈ (g3Of 6 s).train ∧ (g3Of 6 s).train = [5] ∧ lmask 6 s ≠ 0 :=
  ⟨{ mode := .proof, regs := [(R.HLK_G3P_CFG 6, 3), (R.HLK_G3P_STAT 6, 0xF)], links := { g3 := [(6, { train := [5] })] } }, by decide⟩
theorem witness_route_switch : reaches host R.HLK_RSWSTAT onG3 = true ∧ (0 : Int) = rdLine R.HLK_RSWL R.HLK_RSWH onG3 := by decide
theorem witness_engines : ∃ s t u v : State, s.mode = .armed ∧ rb R.PEEL_CFG 0 s = true ∧ rf R.PEEL_PIPE 0 2 s = 3 ∧ s.links.testing = false ∧
    s.links.third = false ∧ t.links.third = true ∧ t.links.held = packedFrame t ∧ t.links.testing = false ∧ rb R.PEEL_CFG 0 t = true ∧
    rf R.PEEL_PIPE 0 2 t = 3 ∧ u.links.testing = true ∧ v.mode = .spit ∧
    v.links.spit.find? (fun e => e.1 == 63) = some (63, 5) ∧ v.links.xfers.any (fun x => x.spit && x.g == 63) = false ∧
    g3Ports 63 v.pos.hwm v = [7] ∧ portUp 7 v = true ∧ peelWorks v = true ∧ v.jtag.ir ≠ 0 :=
  ⟨{ mode := .armed, regs := [(R.PEEL_CFG, 1), (R.PEEL_PIPE, 3)] },
   { mode := .spit, regs := [(R.PEEL_CFG, 1), (R.PEEL_PIPE, 3)], links := { third := true, held := some (xfer 1 3 63), xfers := [xfer 1 3 63] } },
   { mode := .print, links := { testing := true } }, { onG3 with mode := .spit, links := { spit := [(63, 5)] } }, by decide⟩
theorem witness_spit_strobe : ∃ s : State, rb (R.HLK_STB 31) 12 s = true ∧ rf (R.HLK_STB 31) 0 6 s = 63 ∧ rf (R.HLK_STB 31) 6 6 s < 4 ∧
    (routesOf 63 s.pos.hwm s).any (fun r => r.gen == 1 && r.port == rf (R.HLK_STB 31) 6 6 s) = true :=
  ⟨{ mode := .spit, regs := [(R.NZL_RG 63, 3), (R.NZL_RG_N 63, 10), (R.NZL_CFG, 0x10000), (R.NZL_GEO_A 0, 0x1F80000), (R.NZL_GEO_B 0, 9),
       (R.HLK_RTA (16 * 63), 0x1B), (R.HLK_STB 31, 0x10FF)] }, by decide⟩
/-- At the phase of a sample; voice 63 enabled. -/
def sampling (x : Voice) : State :=
  { mode := .print, time := 200, regs := [(R.WAV_VO_CFG 63, 0x100), (R.WAV_JSTAT, 6), (R.WAV_CFG, 2)], wav := { voices := [(63, x)] } }
theorem witness_sample : ∃ s : State, samplesRun s = true ∧ s.time % 100 = rf R.WAV_JSTAT 4 7 s ∧ s.wav.lastT ≠ some s.time ∧
    rb (R.WAV_VO_CFG 63) 8 s = true ∧ (voiceOf 63 s).q = [200] ∧ (200 : Nat) ≤ s.time ∧ rb (R.WAV_VO_CFG 63) 14 s = false ∧
    (outOf 31 s).ramp ≤ (outOf 31 s).i ∧ rf R.WAV_JSTAT 1 2 s = 3 :=
  ⟨sampling { q := [200] }, by decide⟩
theorem witness_sample_run : ∃ (s : State) (w : Word), samplesRun s = true ∧ s.time % 100 = rf R.WAV_JSTAT 4 7 s ∧ s.wav.lastT ≠ some s.time ∧
    rb (R.WAV_VO_CFG 63) 8 s = true ∧ (voiceOf 63 s).q = [] ∧ (voiceOf 63 s).run = true ∧ w = segAt 63 (voiceOf 63 s).j s.time s ∧
    (voiceOf 63 s).j < fld (waveReg (R.WAV_VO_CFG 63) s.time s) 16 6 + 1 ∧ (voiceOf 63 s).tau ≤ s.time - (voiceOf 63 s).t0 ∧
    s.time - (voiceOf 63 s).t0 < (voiceOf 63 s).tau + fld w 17 15 ∧ bit w 16 = false ∧ (outOf 31 s).i < (outOf 31 s).ramp :=
  ⟨{ sampling { run := true } with
     regs := [(R.WAV_VO_CFG 63, 0x100), (R.WAV_JSTAT, 6), (R.WAV_SEG 0, 0xFFFE8000)]
     wav := { voices := [(63, { run := true })], outs := [(31, { ramp := 1 })] } }, 0xFFFE8000, by decide⟩
theorem witness_sample_dissent : ∃ s t u : State, samplesRun s = true ∧ s.time % 100 = rf R.WAV_JSTAT 4 7 s ∧ s.wav.lastT ≠ some s.time ∧
    rb R.TIL_FORCE 4 s = false ∧ bitN (rf R.WAV_VOTE 0 3 s) 2 = true ∧ rf R.WAV_VOTE 0 3 s = 7 ∧
    Sparse.get none t.wav.dissent 2 = some 0 ∧ rf R.WAV_VOTE 0 3 t = 7 ∧ t.wav.n + 1 ≤ 0 + 2 ^ 20 ∧ samplesRun u = true ∧
    rf R.WAV_VOTE 0 3 u = 5 ∧ bitN (rf R.WAV_VOTE 0 3 u) 2 = true ∧ rb R.TIL_FORCE 4 u = false :=
  ⟨{ mode := .print, time := 200, regs := [(R.WAV_VOTE, 7)] },
   { mode := .print, time := 200, regs := [(R.WAV_VOTE, 7)], wav := { n := 2 ^ 20 - 1, dissent := [(2, some 0)] } },
   { mode := .print, time := 200, regs := [(R.WAV_VOTE, 5)] }, by decide⟩
theorem witness_gain_sensors : ∃ s : State, reaches host (R.WAV_OUT_GAIN 31) s = true ∧ reaches host R.WAV_CFG s = true ∧ s.mode ≠ .cold ∧ s.mode ≠ .load ∧ rf (R.WAV_TS_SRC 15) 16 16 s ≠ 0 ∧
    rb (R.WAV_TS_K 15) 17 s = false ∧ Sparse.get 0 s.wav.sens 15 + rf (R.WAV_TS_SRC 15) 16 16 s * 4000000 ≤ s.time :=
  ⟨{ mode := .idle, time := 4000000, regs := [(R.WAV_TS_SRC 15, 0x10000)] }, by decide⟩
/-- Code group synchronisation with SYNC~ high, its end 0 at an LMFC boundary; and the last sample of an ILAS. -/
theorem witness_sample_ilas : ∃ s t : State, samplesRun s = true ∧ s.time % 100 = rf R.WAV_JSTAT 4 7 s ∧ s.wav.lastT ≠ some s.time ∧
    rf R.WAV_JSTAT 1 2 s = 1 ∧ rb R.WAV_JSTAT 0 s = true ∧ (s.time + 1200) % 3200 = s.wav.lmfc ∧ samplesRun t = true ∧
    t.time % 100 = rf R.WAV_JSTAT 4 7 t ∧ t.wav.lastT ≠ some t.time ∧ rf R.WAV_JSTAT 1 2 t = 2 ∧ t.wav.ilas ≤ 1 :=
  ⟨{ mode := .print, time := 2000, regs := [(R.WAV_JSTAT, 3)] }, { mode := .print, time := 200, regs := [(R.WAV_JSTAT, 5)], wav := { ilas := 1 } }, by decide⟩
theorem witness_sysref : ∃ s t u : State, samplesRun s = true ∧ s.mode = .proof ∧ rb R.WAV_JSTAT 3 s = false ∧ samplesRun t = true ∧
    t.wav.realign = false ∧ rb R.WAV_JSTAT 3 t = true ∧ (t.time + 40 * min 79 (rf R.WAV_CFG 8 8 t)) % 3200 ≠ t.wav.lmfc ∧
    u.wav.realign = true ∧ samplesRun u = true :=
  ⟨inMode .proof, { mode := .print, time := 1, regs := [(R.WAV_JSTAT, 8)] }, { mode := .idle, wav := { realign := true } }, by decide⟩
theorem witness_link : ∃ s t : State, samplesRun s = true ∧ s.mode ≠ .proof ∧ 2 ≤ rf R.WAV_JSTAT 1 2 s ∧ rf R.WAV_CFG 0 2 s ≠ 0 ∧ rf R.WAV_JSTAT 1 2 t = 1 :=
  ⟨{ mode := .print, regs := [(R.WAV_JSTAT, 4), (R.WAV_CFG, 1)] }, { mode := .print, regs := [(R.WAV_JSTAT, 2)] }, by decide⟩

/-! ### Witnesses: Levain-16 -/

/-- Context c of cell 15 of cluster 15 runs with bank k. -/
def runs (c : Nat) (k : Ctx) (x : Cell) : State :=
  { mode := .print, cells := [(255, putCtx c { k with state := .running } { x with running := some c })] }
theorem witness_stack_ops : ∃ s : State, Ready 15 15 0 6 s ∧ Ready 15 15 1 6 s ∧ Ready 15 15 2 6 s ∧
    (theCtx 15 15 6 s).ds = [1, 2, 3] ++ List.replicate 12 9 ∧ (theCtx 15 15 6 s).rs = [4] ++ List.replicate 14 9 :=
  ⟨runs 6 { pc := 0x7FFE, ds := [1, 2, 3] ++ List.replicate 12 9, rs := [4] ++ List.replicate 14 9 } {}, by unfold Ready; decide⟩
theorem witness_full_stacks : ∃ s : State, Ready 15 15 1 7 s ∧ (theCtx 15 15 7 s).ds = [1, 2] ++ List.replicate 14 9 ∧
    (theCtx 15 15 7 s).rs = List.replicate 16 9 ∧ (theCtx 15 15 7 s).pc = 0x7FFF :=
  ⟨runs 7 { pc := 0x7FFF, ds := [1, 2] ++ List.replicate 14 9, rs := List.replicate 16 9 } {}, by unfold Ready; decide⟩
theorem witness_from_st : ∃ s : State, Ready 15 15 1 7 s ∧ (theCtx 15 15 7 s).ds.length < 16 ∧ (theCtx 15 15 7 s).rs.length ≤ 16 :=
  ⟨runs 7 { ds := List.replicate 15 9, rs := List.replicate 16 9 } {}, by unfold Ready; decide⟩
/-- MR is context 2's and in use; context 6 has a saved MR. -/
theorem witness_mr : ∃ s : State, Ready 15 15 1 6 s ∧ (theCtx 15 15 6 s).ds = [1, 2] ++ [] ∧ mrFound 6 (cellOf 15 15 s) s = 77 ∧
    claimsFree 6 (cellOf 15 15 s) s = false :=
  ⟨runs 6 { ds := [1, 2] } { owner := some 2, live := true, save := [(6, 77)], valid := 64 }, by unfold Ready; decide⟩
theorem witness_round : ∃ q : BitVec 40 → Int, (∀ v, (24 : Nat) ≠ 0 → 2 ^ 24 * q v ≤ v.toInt + 2 ^ (24 - 1) ∧ v.toInt + 2 ^ (24 - 1) < 2 ^ 24 * (q v + 1)) :=
  ⟨fun v => (v.toInt + 2 ^ 23) / 2 ^ 24, fun v _ => by dsimp only; omega⟩
theorem witness_round_zero : ∃ q : BitVec 40 → Int, ∀ v, (0 : Nat) = 0 → q v = v.toInt := ⟨fun v => v.toInt, fun _ _ => rfl⟩
theorem witness_divide : ∃ s : State, Ready 15 15 1 7 s ∧ (theCtx 15 15 7 s).ds = 0 :: 0x8000 :: 5 :: [] ∧ stDZT (theCtx 15 15 7 s).st = true ∧
    (0x8000 : Half).msb = true ∧ ((0x8000 : Half) ++ (5 : Half)).toInt ≠ 0 ∧ (0xFFFF : Half) ≠ 0 :=
  ⟨runs 7 { ds := [0, 0x8000, 5], st := 0x10 } {}, by unfold Ready; decide⟩
theorem witness_divide_untrapped : ∃ s : State, Ready 15 15 1 0 s ∧ (theCtx 15 15 0 s).ds = 0 :: 1 :: 5 :: [] ∧ stDZT (theCtx 15 15 0 s).st = false :=
  ⟨runs 0 { ds := [0, 1, 5] } {}, by unfold Ready; decide⟩
theorem witness_transfer : ∃ s : State, Ready 15 15 2 3 s ∧ (theCtx 15 15 3 s).ds = [0] ++ [] ∧ (theCtx 15 15 3 s).rs = [0x7FFF] ++ List.replicate 15 9 ∧
    ((0x7FFF : Half).toNat : Int) < 0x8000 ∧ (theCtx 15 15 3 s).pc + 2 = 0x8000 ∧ (0x8000 : Int) ≤ ((0x8000 : Half).toNat : Int) :=
  ⟨runs 3 { pc := 0x7FFE, ds := [0], rs := 0x7FFF :: List.replicate 15 9 } {}, by unfold Ready; decide⟩
theorem witness_branch : ∃ s : State, Ready 15 15 1 3 s ∧ (theCtx 15 15 3 s).ds = [] ∧ (7 : BitVec 4).toNat = 7 ∧ (12 : BitVec 4).toNat ≤ 12 ∧
    ((theCtx 15 15 3 s).pc : Int) + (-64 : BitVec 7).toInt < 0 := ⟨runs 3 { pc := 63 } {}, by unfold Ready; decide⟩
theorem witness_traps : ∃ s t u v w x : State,
    issuing 15 15 s = some 6 ∧ (theCtx 15 15 6 s).pc = 0x8000 ∧
    issuing 15 15 t = some 6 ∧ (theCtx 15 15 6 t).pc < 0x8000 ∧
    (∀ n ≤ 2, 1 ≤ n → wordAt 15 15 (theCtx 15 15 6 t).pc (fetched 15 15 (theCtx 15 15 6 t).pc n t) = none) ∧
    issuing 15 15 u = none ∧
    Ready 15 15 0 6 v ∧ (theCtx 15 15 6 v).ds.length = 16 ∧ (theCtx 15 15 6 v).rs.length = 0 ∧
    Ready 15 15 0 6 w ∧ (theCtx 15 15 6 w).ds.length = 0 ∧
    Ready 15 15 1 6 x ∧ (theCtx 15 15 6 x).ds.length ≤ 16 ∧ (theCtx 15 15 6 x).rs.length = 16 ∧
    levainOf (.lvDup 15 15) = some (15, 15, { pops := 1, pushes := 2 }) :=
  ⟨runs 6 { pc := 0x8000 } {}, { runs 6 { pc := 5 } {} with ue := [0x200FF0008] }, { mode := .print }, runs 6 { ds := List.replicate 16 9 } {},
   runs 6 {} {}, runs 6 { rs := List.replicate 16 9 } {}, by decide, by decide, by decide, by decide, by decide, by decide, by unfold Ready; decide,
   by decide, by decide, by unfold Ready; decide, by decide, by unfold Ready; decide, by decide, by decide, rfl⟩
/-- Stores of the words 0x7FFE and 0x7FFF, and of the window word 0xBFFF, pending. -/
def storing : State :=
  runs 6 { ds := [0x7FFE, 8], a := 0x7FFF, b := 0xBFFF, winbase := some 0x100000 } { sbuf := [⟨6, 0x7FFE, none, [11, 12]⟩, ⟨6, 0xBFFF, some 0x100007FFE, [13]⟩] }
theorem witness_load_pending : Ready 15 15 0 6 storing ∧ Pending (winBase 15 15 6 storing) 0x7FFF 12 (cellOf 15 15 storing).sbuf ∧
    Pending (winBase 15 15 6 storing) 0xBFFF 13 (cellOf 15 15 storing).sbuf :=
  ⟨by unfold Ready; decide, ⟨[], ⟨6, 0x7FFE, none, [11, 12]⟩, [⟨6, 0xBFFF, some 0x100007FFE, [13]⟩], 1, by decide, by decide, by decide, by decide, by decide⟩,
   ⟨[⟨6, 0x7FFE, none, [11, 12]⟩], ⟨6, 0xBFFF, some 0x100007FFE, [13]⟩, [], 0, by decide, by decide, by decide, by decide, by decide⟩⟩
theorem witness_load_memory : ∃ s t : State, Ready 15 15 0 6 s ∧ NonePending (winBase 15 15 6 s) 0x7FFF (cellOf 15 15 s).sbuf ∧
    namesMemory 15 15 (winBase 15 15 6 s) 0x7FFF s ∧ ueIn (wordPlace 15 15 (winBase 15 15 6 s) 0x7FFF) 2 s = false ∧
    namesMemory 15 15 (winBase 15 15 6 s) 0xBFFF s ∧ ueIn (wordPlace 15 15 (winBase 15 15 6 s) 0xBFFF) 2 s = false ∧
    Ready 15 15 0 6 t ∧ ueIn (wordPlace 15 15 (winBase 15 15 6 t) 0x7FFF) 2 t = true :=
  ⟨runs 6 { ds := [0x7FFF], winbase := some 0x100000 } {}, { runs 6 { ds := [0x7FFF] } {} with ue := [0x200FFFFFC] },
   by unfold Ready NonePending namesMemory; and_intros <;> decide⟩
theorem witness_load_elsewhere : ∃ s t : State, Ready 15 15 0 6 s ∧ isBlock (wordPlace 15 15 (winBase 15 15 6 s) 0x8000) s = true ∧ inReach 15 (wordPlace 15 15 (winBase 15 15 6 s) 0x8000) s = true ∧
    NonePending (winBase 15 15 6 s) 0xC000 (cellOf 15 15 s).sbuf ∧
    Ready 15 15 0 6 t ∧ isBlock (wordPlace 15 15 (winBase 15 15 6 t) 0xBFFF) t = false ∧ placeOf (wordPlace 15 15 (winBase 15 15 6 t) 0xBFFF) = .nowhere :=
  ⟨runs 6 { winbase := some 0x300000 } {}, runs 6 { winbase := some 0x400000 } {}, by unfold Ready NonePending; decide⟩
theorem witness_load_pair : ∃ s t : State, Ready 15 15 1 6 storing ∧ (theCtx 15 15 6 s).ds = 0x7FFE :: [] ∧ Ready 15 15 1 6 s ∧
    (cellOf 15 15 s).sbuf = [⟨6, 0x7FFE, none, [11, 12]⟩] ∧
    entryKeys ⟨6, 0x7FFE, none, [11, 12]⟩ = [wordKey (winBase 15 15 6 s) 0x7FFE, wordKey (winBase 15 15 6 s) 0x7FFF] ∧
    wordKey (winBase 15 15 6 s) 0x7FFE ≠ wordKey (winBase 15 15 6 s) 0x7FFF ∧ namesMemory 15 15 (winBase 15 15 6 s) 0x7FFF s ∧
    Ready 15 15 1 6 t ∧ (theCtx 15 15 6 t).ds = 0x7FFE :: [] ∧ wordKey (winBase 15 15 6 t) 0x7FFE ∈ entryKeys ⟨6, 0x7FFE, none, [11]⟩ ∧
    wordKey (winBase 15 15 6 t) 0x7FFF ∉ entryKeys ⟨6, 0x7FFE, none, [11]⟩ ∧ (cellOf 15 15 t).sbuf = [⟨6, 0x7FFE, none, [11]⟩] :=
  ⟨runs 6 { ds := [0x7FFE] } { sbuf := [⟨6, 0x7FFE, none, [11, 12]⟩] }, runs 6 { ds := [0x7FFE] } { sbuf := [⟨6, 0x7FFE, none, [11]⟩] },
   by unfold Ready namesMemory; and_intros <;> decide⟩
def pend3 : List SbEntry := [⟨6, 0, none, [1]⟩, ⟨6, 1, none, [1]⟩, ⟨6, 2, none, [1]⟩]
theorem witness_store : ∃ s t u : State, Ready 15 15 2 6 s ∧ Ready 15 15 0 6 s ∧ (theCtx 15 15 6 s).ds = 0xBFFE :: 7 :: 8 :: [] ∧ (cellOf 15 15 s).sbuf.length = 3 ∧
    (0xBFFE : Half).toNat < 0xBFFF ∧ (cellOf 15 15 s).sbuf.length + 1 ≤ 4 ∧ 4 < (cellOf 15 15 s).sbuf.length + 2 ∧
    Ready 15 15 0 6 t ∧ 4 ≤ (cellOf 15 15 t).sbuf.length ∧ Ready 15 15 2 6 u ∧ (cellOf 15 15 u).sbuf = [] :=
  ⟨runs 6 { ds := [0xBFFE, 7, 8] } { sbuf := pend3 }, runs 6 {} { sbuf := pend3 ++ pend3 }, runs 6 { ds := [5] } {}, by unfold Ready; and_intros <;> decide⟩
theorem witness_drain : ∃ e f : SbEntry, e.fab = none ∧ e.addr + e.words.length ≤ 0x8000 ∧ e.words.length = 2 ∧ f.fab = some 0x100FFFFFC ∧
    0x100FFFFFC % (2 * f.words.length) = 0 ∧ hasMemory 0x100FFFFFC (runs 6 {} {}) = true ∧ isBlock 0x300000000 (runs 6 {} {}) = true ∧
    inReach 15 0x100FFFFFC (runs 6 {} {}) = true ∧ inReach 15 0x300000000 (runs 6 {} {}) = true :=
  ⟨⟨6, 0x7FFE, none, [1, 2]⟩, ⟨6, 0xBFFE, some 0x100FFFFFC, [1, 2]⟩, by decide⟩
/-- The crossbars of node 18, on the way of cluster 15 to node 0, have failed. -/
def cutOff (k : Ctx) (x : Cell) : State := { runs 6 { k with winbase := some 0x100000 } x with fab := { copies := [(18, 0)] } }
theorem witness_out_of_reach : inReach 15 0x100000000 (cutOff {} {}) = false ∧ Ready 15 15 0 6 (cutOff { ds := [0x8000] } {}) ∧
    wordPlace 15 15 (winBase 15 15 6 (cutOff {} {})) 0x8000 = 0x100000000 ∧ Ready 15 15 1 6 (cutOff { ds := [0x8000, 7] } {}) ∧
    inReach 15 0x1008FFFFC (runs 6 {} {}) = true := by unfold Ready; and_intros <;> decide
theorem witness_drain_error : ∃ s t u : State, (cellOf 15 15 s).sbuf = ⟨6, 0x8000, some 0x300000000, [1]⟩ :: [] ∧
    (theCtx 15 15 6 s).state ∈ [CtxState.ready, .running, .waiting] ∧ (theCtx 15 15 7 s).state = .trapidle ∧
    (theCtx 15 15 6 t).state ∈ [CtxState.stopped, .trapped] ∧ (cellOf 15 15 t).sbuf = ⟨6, 0x8000, some 0x300000000, [1]⟩ :: [] ∧
    (cellOf 15 15 u).sbuf = ⟨7, 0x8000, some 0x300000000, [1]⟩ :: [] :=
  ⟨runs 6 {} { sbuf := [⟨6, 0x8000, some 0x300000000, [1]⟩] }, { mode := .print, cells := [(255, { sbuf := [⟨6, 0x8000, some 0x300000000, [1]⟩] })] },
   runs 7 {} { sbuf := [⟨7, 0x8000, some 0x300000000, [1]⟩] }, by decide⟩
theorem witness_atomic : ∃ s t u v : State, Ready 15 15 1 6 s ∧ (theCtx 15 15 6 s).ds = 0xBFFF :: 8 :: [] ∧ (cellOf 15 15 s).sbuf = [] ∧
    (∃ j, placeOf (wordPlace 15 15 (winBase 15 15 6 s) 0xBFFF) = .pantry j) ∧ ueIn (wordPlace 15 15 (winBase 15 15 6 s) 0xBFFF) 2 s = false ∧
    inReach 15 (wordPlace 15 15 (winBase 15 15 6 s) 0xBFFF) s = true ∧ Ready 15 15 1 6 t ∧ ueIn (wordPlace 15 15 (winBase 15 15 6 t) 0xBFFF) 2 t = true ∧ Ready 15 15 1 6 u ∧ (cellOf 15 15 u).sbuf ≠ [] ∧
    Ready 15 15 1 6 v ∧ (theCtx 15 15 6 v).ds = 0x7FFF :: 8 :: [] ∧ (0x7FFF : Half).toNat < 0x8000 :=
  ⟨runs 6 { ds := [0xBFFF, 8], winbase := some 0x100000 } {}, { runs 6 { ds := [0xBFFF, 8], winbase := some 0x100000 } {} with ue := [0x100007FF8] },
   runs 6 { ds := [0xBFFF, 8] } { sbuf := pend3 }, runs 6 { ds := [0x7FFF, 8] } {},
   by unfold Ready; decide, by decide, by decide, ⟨0, by decide⟩, by decide, by decide, by unfold Ready; decide, by decide, by unfold Ready; decide, by decide,
   by unfold Ready; decide, by decide, by decide⟩
theorem witness_word_read : ∃ s : State, Ready 15 15 2 7 s ∧ (theCtx 15 15 7 s).ds.length < 16 ∧
    ∀ a ∈ [0xC108, 0xC142, 0xC143, 0xC170, 0xC171, 0xC172, 0xC173, 0xC174, 0xC175, 0xC010, 0xC0FF],
      NonePending (winBase 15 15 7 s) a (cellOf 15 15 s).sbuf :=
  ⟨runs 7 { ds := List.replicate 15 9 } { sbuf := pend3 }, by unfold Ready NonePending; decide⟩
theorem witness_word_store : ∃ s t : State, WordStore 15 15 7 0xFFF s (past 2 { theCtx 15 15 7 s with ds := [] }) ∧
    WordStore 15 15 6 3 t (past 2 { theCtx 15 15 6 t with ds := [] }) ∧
    Sparse.get none t.stages (Writer.key (.ctx 15 15 6)) = some (0x200000C001, 9) ∧ (0xC1DF : Half).toNat % 32 = 31 ∧ (0xC1DF : Half).toNat = 0xC180 + 95 :=
  ⟨runs 7 { ds := [0xFFF] } {}, { runs 6 { ds := [3] } {} with stages := [(Writer.key (.ctx 15 15 6), some (0x200000C001, 9))] },
   ⟨by unfold Ready; decide, by decide, by decide, by decide, [], by decide, rfl⟩,
   ⟨by unfold Ready; decide, by decide, by decide, by decide, [], by decide, rfl⟩, by decide, by decide, by decide⟩
/-- At a REP whose op is `w`: the string op at word 6 of local RAM, three words from word 0x7FFD of which the second is 8. -/
def reps (w : Half) (k : Ctx) (x : Cell) : State :=
  { runs 6 { k with pc := 5 } x with mem := [(0x200FF000C, w.extractLsb' 0 8), (0x200FF000D, w.extractLsb' 8 8), (0x200FFFFFC, 8)] }
theorem witness_string_op : ∃ s t : State, Ready 15 15 1 6 s ∧ (theCtx 15 15 6 s).a = 0x7FFF ∧ (theCtx 15 15 6 s).b = 0x7FFF ∧
    (theCtx 15 15 6 s).ds = 8 :: [] ∧ ueIn (localWord 15 15 0x7FFF) 2 s = false ∧ NonePending (winBase 15 15 6 s) 0x7FFF (cellOf 15 15 s).sbuf ∧
    (cellOf 15 15 s).sbuf.length < 4 ∧ Ready 15 15 1 6 t ∧ 4 ≤ (cellOf 15 15 t).sbuf.length :=
  ⟨reps 0 { a := 0x7FFF, b := 0x7FFF, ds := [8] } { sbuf := pend3 }, reps 0 {} { sbuf := pend3 ++ pend3 }, by unfold Ready NonePending; and_intros <;> decide⟩
theorem witness_rep_illop : ∃ s t : State, Ready 15 15 1 6 s ∧ 3 ≤ (3 : BitVec 11).toNat ∧ ueIn (localWord 15 15 6) 2 s = false ∧
    wordAt 15 15 ((theCtx 15 15 6 s).pc + 1) (fetched 15 15 (theCtx 15 15 6 s).pc 2 s) = some 0xB856 ∧ Ready 15 15 1 6 t ∧ 0x7FFF ≤ (theCtx 15 15 6 t).pc :=
  ⟨reps 0xB856 {} {}, runs 6 { pc := 0x7FFF } {}, by unfold Ready; and_intros <;> decide⟩
theorem witness_rep_none : ∃ s : State, Ready 15 15 1 6 s ∧ (theCtx 15 15 6 s).pc < 0x7FFF ∧ (theCtx 15 15 6 s).rc = 0 ∧
    wordAt 15 15 ((theCtx 15 15 6 s).pc + 1) (fetched 15 15 (theCtx 15 15 6 s).pc 2 s) = some 0xB850 := ⟨reps 0xB850 {} {}, by unfold Ready; decide⟩
theorem witness_rep_sums : ∃ s : State, Ready 15 15 1 6 s ∧ (theCtx 15 15 6 s).ds = 8 :: [] ∧ (theCtx 15 15 6 s).rc = 3 ∧
    (∀ j < 3, (theCtx 15 15 6 s).a.toNat + j < 0x8000 ∧ ueIn (localWord 15 15 ((theCtx 15 15 6 s).a.toNat + j)) 2 s = false ∧
      NonePending (winBase 15 15 6 s) ((theCtx 15 15 6 s).a.toNat + j) (cellOf 15 15 s).sbuf) ∧
    wordAt 15 15 ((theCtx 15 15 6 s).pc + 1) (fetched 15 15 (theCtx 15 15 6 s).pc 2 s) = some 0xB855 :=
  ⟨reps 0xB855 { a := 0x7FFD, rc := 3, ds := [8] } {}, by unfold Ready NonePending; decide⟩
theorem witness_rep_scans : ∃ s : State, Ready 15 15 1 6 s ∧ (theCtx 15 15 6 s).ds = 8 :: [] ∧ (theCtx 15 15 6 s).rc = 3 ∧
    wordAt 15 15 ((theCtx 15 15 6 s).pc + 1) (fetched 15 15 (theCtx 15 15 6 s).pc 2 s) = some 0xB854 ∧
    (∀ i < 1, (BitVec.ofNat 16 (readN (localWord 15 15 ((theCtx 15 15 6 s).a.toNat + i)) 2 s) = 8) = False) ∧
    BitVec.ofNat 16 (readN (localWord 15 15 ((theCtx 15 15 6 s).a.toNat + 1)) 2 s) = 8 :=
  ⟨reps 0xB854 { a := 0x7FFD, rc := 3, ds := [8] } {}, by unfold Ready; decide⟩
theorem witness_rep_fills : ∃ s : State, Ready 15 15 1 6 s ∧ (theCtx 15 15 6 s).ds = 8 :: [] ∧
    wordAt 15 15 ((theCtx 15 15 6 s).pc + 1) (fetched 15 15 (theCtx 15 15 6 s).pc 2 s) = some 0xB852 ∧
    (theCtx 15 15 6 s).b.toNat + (theCtx 15 15 6 s).rc.toNat = 0x8000 ∧ (cellOf 15 15 s).sbuf.length + (theCtx 15 15 6 s).rc.toNat = 4 :=
  ⟨reps 0xB852 { b := 0x7FFF, rc := 1, ds := [8] } { sbuf := pend3 }, by unfold Ready; decide⟩

/-! ### Witnesses: scheduling, contexts, events -/

theorem witness_wait : ∃ s t u : State, Ready 15 15 1 6 s ∧ (theCtx 15 15 6 s).ds.length < 16 ∧ (theCtx 15 15 6 s).rs.length ≤ 16 ∧
    16 ≤ (16 : BitVec 11).toNat ∧ (15 : BitVec 11).toNat < 16 ∧ (theCtx 15 15 6 s).rc ≠ 0 ∧ Ready 15 15 1 6 t ∧ (theCtx 15 15 6 t).rc = 0 ∧
    (∀ d < 8, (theCtx 15 15 d t).state ≠ .ready) ∧ Ready 15 15 1 6 u ∧ (∀ d < 8, (theCtx 15 15 d u).state ≠ .ready) ∧ Deliverable 15 63 u ∧
    bitsN (rd64 (R.EVC_TGT_L 15 63) (R.EVC_TGT_H 15 63) u) (4 * 15) 4 = 8 + 6 ∧ bitN (setOf 15 15 6 7 u) 63 = true ∧
    (∀ j < 63, pendOf 15 j u = false) :=
  ⟨runs 6 { rc := 1 } {}, runs 6 {} {},
   { runs 6 { sets := [(31, 0x8000)] } {} with
     regs := [(R.EVC_TGT_H 15 63, 0xE0000000), (R.EVC_PENDSETH 15, 0x80000000), (R.EVC_MASKSETH 15, 0x80000000)] },
   by unfold Ready Deliverable; and_intros <;> decide⟩
/-- Context 0 runs, context 6 is READY. -/
def twoReady : State := { runs 0 {} {} with cells := [(255, putCtx 6 { state := .ready } (putCtx 0 { state := .running } { running := some 0 }))] }
theorem witness_done_yield : Ready 15 15 1 0 twoReady ∧ (theCtx 15 15 6 twoReady).state = .ready ∧
    (∀ d < 8, (theCtx 15 15 d twoReady).state = .ready → groupOf 15 15 0 twoReady ≤ groupOf 15 15 d twoReady) ∧
    groupOf 15 15 6 twoReady = groupOf 15 15 0 twoReady ∧ (theCtx 15 15 0 twoReady).state = .running ∧
    (∀ e < 8, e ≠ 6 → (theCtx 15 15 e twoReady).state ≠ .ready) ∧ Ready 15 15 1 7 (runs 7 {} {}) ∧
    (∀ d < 8, (theCtx 15 15 d (runs 0 {} {})).state ≠ .ready) := by unfold Ready; and_intros <;> decide
theorem witness_tret : ∃ x y : Cell, (cellOf 15 15 (runs 7 {} x)).handling = some 6 ∧ (cellOf 15 15 (runs 7 {} x)).trapq = [] ∧
    Ready 15 15 1 7 (runs 7 {} x) ∧ Ready 15 15 1 7 (runs 7 {} y) ∧ (cellOf 15 15 (runs 7 {} y)).handling = some 6 ∧
    (cellOf 15 15 (runs 7 {} y)).trapq = { c := 5, code := 63, pc := 0x7FFF, slot := 2, adr := 0, st := 0 } :: [] ∧ (theCtx 15 15 6 (runs 7 {} y)).state ≠ .stopped ∧
    (cellOf 15 15 (runs 7 {} x)).handledStopped = false ∧ (cellOf 15 15 (runs 7 {} x)).trapact.toNat % 4 = 3 :=
  ⟨{ handling := some 6, trapact := 3 }, { handling := some 6, ctxs := [(6, { state := .trapped })], trapq := [{ c := 5, code := 63, pc := 0x7FFF, slot := 2, adr := 0, st := 0 }] },
   by unfold Ready; and_intros <;> decide⟩
theorem witness_contexts : ∃ s t u v : State, reaches (.ctx 0 0 0) (R.cluster 15) s = true ∧ (0x40 : BitVec 7).getLsbD 6 = true ∧
    (cellOf 15 15 t).running = some 6 ∧ (cellOf 15 15 t).switching = true ∧ cellsIssue t = true ∧ (cellOf 15 15 s).running = none ∧
    u.mode.fromProof = true ∧ u.mode ≠ .sleep ∧ (theCtx 15 15 6 u).state = .waiting ∧ (theCtx 15 15 6 u).tmo = true ∧
    (theCtx 15 15 6 u).rc.toNat ≤ 1 ∧ dueSource 15 15 6 u = none ∧ v.mode ≠ .sleep ∧ (cellOf 15 15 v).asleep = false ∧ rb (R.EVC_CELL_CFG 15 15) 0 v = true ∧
    (cellOf 15 15 v).sbuf = [] ∧ (cellOf 15 15 v).idleSince.getD 0 + 16 ≤ coreCycle v ∧
    (∀ c < 8, (theCtx 15 15 c v).state ∈ [CtxState.stopped, .trapidle]) :=
  ⟨inMode .print, runs 6 {} { switching := true }, { mode := .print, cells := [(255, putCtx 6 { state := .waiting, tmo := true, rc := 1 } {})] },
   { mode := .print, time := 54, regs := [(R.EVC_CELL_CFG 15 15, 1)] }, by decide⟩
/-- Source 63 pending and unmasked, its entry 15 for context 6, which waits on it. -/
def delivering : State :=
  { mode := .print, cells := [(255, putCtx 6 { state := .waiting, sets := [(3, 0x8000)] } {})]
    regs := [(R.EVC_SRC 15 63, 0x3800), (R.EVC_TGT_H 15 63, 0xE0000000), (R.EVC_PENDSETH 15, 0x80000000), (R.EVC_MASKSETH 15, 0x80000000)] }
theorem witness_delivery : delivering.mode.fromProof = true ∧ Sparse.get 0 delivering.evAhead 15 = 0 ∧ Deliverable 15 63 delivering ∧
    Awaits 15 63 15 6 delivering ∧ Wakes 15 63 15 delivering ∧ (15 + 15 - rf (R.EVC_SRC 15 63) 10 4 delivering) % 16 = 0 ∧
    (∀ j, Deliverable 15 j delivering → j = 63) ∧ (∀ d < 8, (theCtx 15 15 d delivering).state ≠ .ready) ∧
    (cellOf 15 15 delivering).running = none :=
  ⟨by decide, by decide, by unfold Deliverable; decide, by unfold Awaits; decide, by unfold Wakes; decide, by decide, by
    have h : ∀ j < 64, pendOf 15 j delivering = true → j = 63 := by decide
    exact fun j hj => h j hj.1 hj.2.1, by decide, by decide⟩
/-- A WAIT of context 6 that times out as source 63 can be delivered to it. -/
theorem witness_timeout_delivery : ∃ s : State, s.mode.fromProof = true ∧ s.mode ≠ .sleep ∧ (theCtx 15 15 6 s).state = .waiting ∧
    (theCtx 15 15 6 s).tmo = true ∧ (theCtx 15 15 6 s).rc.toNat ≤ 1 ∧ dueSource 15 15 6 s = some 63 :=
  ⟨{ delivering with cells := [(255, putCtx 6 { state := .waiting, tmo := true, rc := 1, sets := [(3, 0x8000)] } {})] }, by decide⟩
/-- The cell that waits sleeps, and no wake bit is set. -/
theorem witness_withheld : ∃ s : State, (∀ i e c, Deliverable 15 i s → Awaits 15 i e c s → ¬ Wakes 15 i e s) ∧
    Deliverable 15 63 s ∧ Awaits 15 63 15 6 s :=
  ⟨{ delivering with cells := [(255, putCtx 6 { state := .waiting, sets := [(3, 0x8000)] } { asleep := true })] }, by
    have h : ∀ i < 64, ∀ e < 16, bitsN (rd64 (R.EVC_TGT_L 15 i) (R.EVC_TGT_H 15 i)
        { delivering with cells := [(255, putCtx 6 { state := .waiting, sets := [(3, 0x8000)] } { asleep := true })] }) (4 * e) 4 = 0 ∨ (i = 63 ∧ e = 15) := by decide
    refine ⟨fun i e c hd ha hw => ?_, by unfold Deliverable; decide, by unfold Awaits; decide⟩
    rcases h i hd.1 e ha.1 with h0 | ⟨rfl, rfl⟩
    · exact absurd ha.2.2.1 (by rw [h0]; omega)
    · revert hw; unfold Wakes; decide⟩
theorem witness_no_delivery : ∃ s : State, s.mode.fromProof = true ∧ s.mode ≠ .sleep ∧ Sparse.get 0 s.evAhead 15 = 0 ∧
    (∀ i e c, Deliverable 15 i s → ¬ Awaits 15 i e c s) ∧ reaches host (R.cluster 15) s = true ∧
    (∀ j < 128, Sparse.get 0 s.cyc.ranks (128 * 15 + j) ≤ writerRank host 15) :=
  ⟨inMode .print, by decide, by decide, by decide, by
    have h : ∀ i < 64, pendOf 15 i (inMode .print) = false := by decide
    exact ⟨fun i e c hi _ => absurd hi.2.1 (by rw [h i hi.1]; decide), by decide, by decide⟩⟩

/-! ### Witnesses: timers, DMA -/

/-- Timer 7 of cluster 15 enabled, PER 5. -/
def timing (l : List (Nat × Word)) : State := { mode := .print, regs := (R.TMR_CTL 15 7, 1) :: (R.TMR_PER 15 7, 5) :: l }
theorem witness_timer : ∃ s : State, timersRun s = true ∧ ticks 15 7 s = true ∧ tPer 15 7 s ≤ tCnt 15 7 s ∧ rd (R.TMR_CMP 15 7) s = 0 :=
  ⟨timing [(R.TMR_CNT 15 7, 5)], by decide⟩
theorem witness_timer_match : ∃ t u : State, timersRun t = true ∧ ticks 15 7 t = true ∧ tCnt 15 7 t < tPer 15 7 t ∧ tCnt 15 7 t + 1 = tCmp 15 7 t ∧
    timersRun u = true ∧ ticks 15 7 u = true ∧ tCnt 15 7 u < tPer 15 7 u ∧ tCnt 15 7 u + 1 ≠ tCmp 15 7 u ∧
    (∃ v : State, ticks 15 7 v = true ∧ tPer 15 7 v ≤ tCnt 15 7 v ∧ rd (R.TMR_CMP 15 7) v ≠ 0) :=
  ⟨timing [(R.TMR_CNT 15 7, 4), (R.TMR_CMP 15 7, 5)], timing [], by decide, by decide, by decide, by decide, by decide, by decide, by decide, by decide,
   timing [(R.TMR_CNT 15 7, 5), (R.TMR_CMP 15 7, 5)], by decide⟩
theorem witness_timer_gated : ∃ u v : State, timersRun u = true ∧ gateTmr 15 7 u = false ∧ ticks 15 7 u = false ∧
    timersRun v = false := ⟨timing [(R.TMR_CNT 15 7, 5), (R.TMR_PRE 15 7, 0x7F0000)], inMode .load, by decide⟩
theorem witness_timer_after : ∃ s : State, clockStopped s = false ∧ rb (R.TMR_CTL 15 7) 21 s = true ∧ rf (R.DMA_CTL 15 3) 3 5 s = 7 + 1 ∧
    rb (R.TMR_CTL 15 7) 26 s = true ∧ rb (R.DMA_STAT 15 3) 2 s = true ∧ tMstr 15 6 s = 7 ∧ tClk 15 6 s = 3 ∧ tSlv 15 6 s = 1 ∧
    tMstr 15 5 s = 7 ∧ tSlv 15 5 s = 2 ∧ tCsrc 15 4 s = 17 + 7 :=
  ⟨{ mode := .print, regs := [(R.TMR_CTL 15 7, 0x4200001), (R.TMR_CTL 15 6, 0x3C19), (R.TMR_CTL 15 5, 0x5C01), (R.TMR_CTL 15 4, 0x180001), (R.DMA_CTL 15 3, 0x40),
      (R.DMA_STAT 15 3, 4)] }, by decide⟩
theorem witness_timer_above : ∃ s : State, (tmrOf 15 7 s).now = { above := true } ∧ rb (R.TMR_CTL 15 7) 1 s = true :=
  ⟨{ timing [] with regs := [(R.TMR_CTL 15 7, 3)], tmr := [(127, { now := { above := true } })] }, by decide⟩
theorem witness_timer_capture : ∃ s t u : State, timersRun s = true ∧ (tmrOf 15 7 s).now.cap = true ∧ (tmrOf 15 7 s).window = false ∧ ticks 15 7 s = true ∧
    timersRun t = true ∧ (tmrOf 15 7 t).now.cap = true ∧ (tmrOf 15 7 t).window = true ∧ (tmrOf 15 7 t).shadow ≠ none ∧ ticks 15 7 t = false ∧
    (tmrOf 15 7 u).now.cap = true ∧ (tmrOf 15 7 u).window = true ∧ (tmrOf 15 7 u).shadow = none :=
  ⟨{ timing [] with tmr := [(127, { now := { cap := true } })] },
   { mode := .print, tmr := [(127, { window := true, shadow := some 9, now := { cap := true } })] },
   { mode := .print, tmr := [(127, { window := true, now := { cap := true } })] }, by decide⟩
theorem witness_timer_words : ∃ s : State, hears (.ctx 15 15 7) (R.TMR_CAP 15 7) s = true ∧ hears host (R.TMR_CAP 15 7) s = true ∧
    Sparse.get [] s.latches (ctxWriter 15 15 7) = [(ioHigh (R.TMR_CAP 15 7), 65535)] ∧ reaches host (R.TMR_CAP 15 7) s = true ∧
    rb (R.TMR_CTL 15 7) 0 s = true ∧ rb (R.TMR_CTL 15 7) 2 s = true ∧ timersRun s = true :=
  ⟨{ mode := .print, latches := [(ctxWriter 15 15 7, [(ioHigh (R.TMR_CAP 15 7), 65535)])], regs := [(R.TMR_CTL 15 7, 5), (R.TMR_CNT 15 7, 5)] },
   by decide⟩
theorem witness_slow_clock : ∃ s : State, s.tmrStopped = true ∧ s.waking = true ∧ (tmrOf 15 7 s).slept = true ∧ tClk 15 7 s = 0 ∧
    rb (R.TMR_CTL 15 7) 1 s = false ∧ (tmrOf 15 7 s).pbuf = none :=
  ⟨{ timing [] with mode := .sleep, tmrStopped := true, waking := true, tmr := [(127, { slept := true })] }, by decide⟩
theorem witness_slow_ratio : (inMode .print).mode.fromProof = true ∧ (inMode .print).mode ≠ .sleep := by decide
theorem witness_dma_start : ∃ s t u : State, reaches host (R.DMA_CTL 15 3) s = true ∧ bit (1 : Word) 0 = true ∧ bit (1 : Word) 1 = false ∧
    reservedHit (R.DMA_CTL 15 3) 1 = false ∧ rb (R.DMA_STAT 15 3) 0 s = true ∧ rb (R.DMA_STAT 15 3) 0 t = false ∧
    dmaBad 15 3 (codedWrite (R.DMA_CTL 15 3) 1 t) = true ∧ rb (R.DMA_STAT 15 3) 0 u = false ∧
    dmaBad 15 3 (codedWrite (R.DMA_CTL 15 3) 1 u) = false ∧ rd (R.DMA_COUNT 15 3) u ≠ 0 :=
  ⟨{ mode := .print, regs := [(R.DMA_STAT 15 3, 1)] }, { mode := .print, regs := [(R.DMA_COUNT 15 3, 1)] },
   { mode := .print, regs := [(R.DMA_COUNT 15 3, 2)] }, by decide⟩
/-- Channel 3 of cluster 15 moves four bytes from the end of pantry 15 to the end of the local RAMs. -/
def moving (e : DmaEng) : State :=
  { mode := .print, dma := [(15, e)]
    regs := [(R.DMA_STAT 15 3, 1), (R.DMA_REMAIN 15 3, 4), (R.DMA_COUNT 15 3, 4), (R.DMA_SRCL 15 3, 0xFFFFFC), (R.DMA_SRCH 15 3, 1),
      (R.DMA_DSTL 15 3, 0xFFFFFC), (R.DMA_DSTH 15 3, 2)] }
theorem witness_dma_unit : ∃ s : State, s.mode.fromProof = true ∧ s.mode ≠ .sleep ∧ (dmaOf 15 s).unit = none ∧ (∀ j < 3, dmaReady 15 j s = false) ∧
    dmaReady 15 3 s = true ∧ ∀ j < 4, dmaReady 14 j s = false := ⟨moving {}, by decide⟩
theorem witness_dma_moves : ∃ (n : Nat) (s : State) (x y : Side) (e : DmaEng), e = dmaOf 15 s ∧ e.unit = some 3 ∧ e.met = .none_ ∧ n = e.left ∧ 0 < n ∧
    n ≤ (rd (R.DMA_REMAIN 15 3) s).toNat ∧ (rd (R.DMA_REMAIN 15 3) s).toNat ≤ (rd (R.DMA_COUNT 15 3) s).toNat ∧ x = srcSide 15 3 s ∧ y = dstSide 15 3 s ∧
    (∀ i < n, plainByte (x.addr (0 + i)) s = true ∧ plainByte (y.addr (0 + i)) s = true ∧ carried (.dma 15 3) (x.addr (0 + i)) s = true ∧
      carried (.dma 15 3) (y.addr (0 + i)) s = true ∧ Sparse.get none e.olds (3 * 2 ^ 36 + x.addr (0 + i)) = none) ∧
    (∀ i < n, ∀ j < n, x.addr (0 + i) ≠ y.addr (0 + j) ∧ (i ≠ j → y.addr (0 + i) ≠ y.addr (0 + j))) :=
  ⟨4, moving { unit := some 3, left := 4 }, _, _, _, rfl, by decide, by decide, by decide, by decide, by decide, by decide, rfl, rfl, by decide, by decide⟩
theorem witness_dma_burst : ∃ s : State, (dmaOf 15 s).unit = some 3 ∧ (dmaOf 15 s).met = .none_ ∧ (dmaOf 15 s).left = 2 ∧
    2 < (rd (R.DMA_REMAIN 15 3) s).toNat := ⟨moving { unit := some 3, left := 2 }, by decide⟩
theorem witness_dma_error : ∃ (s : State) (x y : Side) (cl' : Nat), (dmaOf 15 s).unit = some 3 ∧ (dmaOf 15 s).met = .none_ ∧ 0 < (dmaOf 15 s).left ∧
    x = srcSide 15 3 s ∧ y = dstSide 15 3 s ∧ carried (.dma 15 3) (x.addr 0) s = true ∧ carried (.dma 15 3) (y.addr 0) s = true ∧
    placeOf (x.addr 0) = .pantry cl' ∧ ueIn (x.addr 0) 1 s = true :=
  ⟨{ moving { unit := some 3, left := 4 } with ue := [0x100FFFFF8] }, _, _, 15, by decide, by decide, by decide, rfl, rfl, by decide, by decide, by decide, by decide⟩
theorem witness_dma_end : ∃ s : State, (dmaOf 15 s).unit = some 3 ∧ (dmaOf 15 s).met = .err 3 ∧ s.mode.fromProof = true ∧ s.mode ≠ .sleep :=
  ⟨moving { unit := some 3, met := .err 3 }, by decide⟩

/-! ### Witnesses: memory tests, fabric, die link -/

theorem witness_local_test : ∃ s t u : State, s.mode.fromProof = true ∧ s.mode ≠ .sleep ∧ rb (R.PAN_CFG 15) 1 s = false ∧
    (testerOf (32 + 16 * 15 + 15) s).scrub = 16383 ∧ s.ue.contains (0x200000000 + 15 * 0x100000 + 15 * 0x10000 + 4 * 16383) = false ∧
    rb (R.PAN_CFG 15) 1 t = true ∧ (testerOf (32 + 16 * 15 + 15) t).step = 383 ∧ (testerOf (32 + 16 * 15 + 15) t).region = 511 ∧
    rf (R.PAN_LSPARE 15) (2 * 15) 2 t = 1 ∧ rf (R.PAN_LSPARE 15) (2 * 15) 2 u = 2 ∧ rb (R.PAN_CFG 15) 1 u = true ∧
    (testerOf (32 + 16 * 15 + 15) u).step = 383 :=
  ⟨{ mode := .print, tester := [(287, { scrub := 16383 })], regs := [(R.PAN_CFG 15, 1)] },
   { mode := .print, tester := [(287, { step := 383, region := 511 })], regs := [(R.PAN_CFG 15, 3), (R.PAN_LSPARE 15, 0x40000000)] },
   { mode := .print, tester := [(287, { step := 383, region := 511 })], regs := [(R.PAN_CFG 15, 3), (R.PAN_LSPARE 15, 0x80000000)] }, by decide⟩
theorem witness_pantry_test : ∃ s t : State, rb (R.PAN_CFG 15) 0 s = true ∧ (testerOf 15 s).step = 161 ∧ (testerOf 15 s).region = 8191 ∧
    rf (R.PAN_SPARE 15) (4 * (8191 / 2048)) 3 s = 3 ∧ (testerOf 15 t).step = 161 ∧ rf (R.PAN_SPARE 15) (4 * (8191 / 2048)) 3 t = 4 ∧
    s.mode.fromProof = true ∧ (testerOf 14 s).step = 0 ∧ rb (R.PAN_CFG 15) 0 t = true :=
  ⟨{ mode := .print, tester := [(15, { step := 161, region := 8191 })], regs := [(R.PAN_CFG 15, 1), (R.PAN_SPARE 15, 0x3000)] },
   { mode := .print, tester := [(15, { step := 161, region := 8191 })], regs := [(R.PAN_CFG 15, 1), (R.PAN_SPARE 15, 0x4000)] }, by decide⟩
theorem witness_tile_store_test : ∃ s t : State, rb R.FAB_TSCFG 0 s = true ∧ rb R.FAB_TSCFG 1 s = false ∧ (testerOf (16 + 3) s).scrub = 131071 ∧
    rb R.FAB_TSCFG 0 t = true ∧ rb R.FAB_TSCFG 1 t = true ∧ (testerOf (16 + 3) t).step = 161 ∧ (testerOf (16 + 3) t).region = 65535 ∧ s.ue = [] ∧
    s.mode.fromProof = true :=
  ⟨{ mode := .print, tester := [(19, { scrub := 131071 })], regs := [(R.FAB_TSCFG, 1)] },
   { mode := .print, tester := [(19, { step := 161, region := 65535 })], regs := [(R.FAB_TSCFG, 3)] }, by decide⟩
theorem witness_lane : ∃ s t : State, s.mode.fromProof = true ∧ s.mode ≠ .sleep ∧ (19, 4, 3) ∉ s.fab.lanes ∧
    (s.fab.flitErrs.filter (fun e => decide (e.1 = (19, 4, 3) ∧ coreCycle s < e.2 + 2 ^ 20))).length = 3 ∧ (19, 4, 3) ∈ t.fab.lanes ∧
    ((inMode .print).fab.flitErrs.filter (fun e => decide (e.1 = (19, 4, 3) ∧ coreCycle s < e.2 + 2 ^ 20))).length < 3 :=
  ⟨{ mode := .print, fab := { flitErrs := [((19, 4, 3), 0), ((19, 4, 3), 0), ((19, 4, 3), 0)] } },
   { mode := .print, fab := { lanes := [(19, 4, 3)] } }, by decide⟩
theorem witness_crossbar : ∃ s t u v : State, Sparse.get 2 s.fab.copies 19 = 2 ∧ (19 : Nat) ∉ s.fab.testing ∧ Sparse.get 0 s.fab.lastMis 19 = 0 ∧
    Sparse.get 0 t.fab.lastMis 19 = 0 + 1 ∧ coreCycle t < 0 + 2 ^ 20 ∧ Sparse.get 0 u.fab.lastMis 19 = 0 + 1 ∧ 0 + 2 ^ 20 ≤ coreCycle u ∧
    (19 : Nat) ∈ v.fab.testing ∧ v.mode.fromProof = true ∧ v.mode ≠ .sleep :=
  ⟨inMode .print, { mode := .print, fab := { lastMis := [(19, 1)] } }, { mode := .print, time := 2 ^ 22, fab := { lastMis := [(19, 1)] } },
   { mode := .print, fab := { testing := [19] } }, by decide⟩
theorem witness_crossbar_tested : ∃ s : State, Sparse.get 2 s.fab.copies 19 = 2 ∧ (19 : Nat) ∉ s.fab.testing ∧ Sparse.get 0 s.fab.passed 19 ≠ 0 ∧
    coreCycle s < Sparse.get 0 s.fab.passed 19 - 1 + 2 ^ 20 ∧ s.mode.fromProof = true ∧ s.mode ≠ .sleep ∧ s.mode ≠ .cold ∧
    ¬ (Sparse.get 0 (inMode .print).fab.passed 19 ≠ 0) := ⟨{ mode := .print, fab := { passed := [(19, 1)] } }, by decide⟩
def up (d : Dlk) : State := { mode := .print, dlk := { d with trained := true, up0 := true } }
theorem witness_training_link : ∃ s t : State, s.dlk.training = true ∧ (true || (false && rb R.DLK_CFG 2 s)) = true ∧ rb R.DLK_CFG 2 s = false ∧
    s.dlk.replay ≠ [] ∧ s.dlk.granted = false ∧ t.dlk.granted = true ∧ t.dlk.training = true ∧ reaches host R.DLK_ALM s = true ∧ (up { up1 := true }).dlk.up1 = true ∧ (up {}).dlk.trained = true ∧
    (up {}).dlk.up0 = true :=
  ⟨{ mode := .print, dlk := { training := true, replay := [(0, [], 0)] } }, { dlk := { training := true, granted := true } }, by decide⟩
theorem witness_asp : ∃ s t u v : State, s.dlk.engines = 2 ∧ s.dlk.testing = false ∧ s.mode ≠ .cold ∧ s.dlk.mis = 0 ∧ t.dlk.mis = 1 ∧ 2 ≤ u.dlk.mis ∧
    v.dlk.testing = true ∧ t.dlk.engines = 2 ∧ u.dlk.engines = 2 :=
  ⟨up {}, up { mis := 1 }, up { mis := 2 }, up { testing := true }, by decide⟩
/-- The first flit of the die: FSEQ 0, type 1, a PAD packet of 232 bytes, its CRC. -/
def flitBody : List Byte := [0, 0x10, 0, 0, 0, 0, 0, 0, 0, 0, 0, 0, 0, 0, 232, 0] ++ List.replicate 236 0
def padFlit : List Byte := flitBody ++ leBytes 4 (crc32c flitBody)
theorem witness_flit : padFlit.length = 256 ∧ linkUp (up {}) = true ∧ crc32c (padFlit.take 252) = getLE padFlit 252 4 ∧
    getLE padFlit 0 2 / 4096 = 1 ∧ getLE padFlit 0 2 % 4096 = ((up {}).dlk.rxSeq + 1) % 4096 ∧ getLE padFlit 2 2 / 4096 % 4 = 0 ∧
    (up {}).dlk.rxBytes = [] ∧ (up {}).dlk.early = [] ∧ (up {}).dlk.rxSeq < 4096 ∧ getLE padFlit 12 2 = 0 ∧ getLE padFlit 14 2 = 232 := by decide +kernel
theorem witness_flit_ahead : ∃ s t : State, linkUp s = true ∧ bothModules s.dlk = true ∧ s.dlk.rxSeq < 4096 ∧
    getLE padFlit 0 2 % 4096 = (s.dlk.rxSeq + 2) % 4096 ∧ linkUp t = true ∧ bothModules t.dlk = false ∧
    getLE padFlit 0 2 % 4096 ≠ (t.dlk.rxSeq + 1) % 4096 := ⟨up { up1 := true, rxSeq := 4094 }, up { rxSeq := 4094 }, by decide⟩
theorem witness_flit_bad : (List.replicate 256 (0 : Byte)).length = 256 ∧ crc32c ((List.replicate 256 (0 : Byte)).take 252) ≠
    getLE (List.replicate 256 0) 252 4 := by decide +kernel
theorem witness_transmit : ∃ s t : State, s.mode ≠ .cold ∧ s.dlk.trained = true ∧ s.dlk.testing = false ∧ s.dlk.noasp = false ∧ s.dlk.req = [] ∧
    s.dlk.nakOwed = false ∧ s.dlk.resend = none ∧ s.dlk.replay.length < 128 ∧ s.dlk.txBytes = [] ∧ s.dlk.txSeq = 4095 ∧
    s.egress.alarm = [⟨0x40, 0, 0, List.replicate 32 0⟩] ∧ s.egress.rsp = [] ∧ s.egress.event = [] ∧ s.egress.trace = [] ∧ s.dlk.up1 = false ∧ s.dlk.up0 = true ∧ 1 ≤ Sparse.get 0 s.dlk.credits 1 ∧ t.dlk.resend = some 0 ∧
    t.dlk.replay[0]? = some (0, [], 0) :=
  ⟨{ up { txSeq := 4095, credits := [(1, 1)] } with egress := { alarm := [⟨0x40, 0, 0, List.replicate 32 0⟩] } },
   up { resend := some 0, replay := [(0, [], 0)] }, by decide⟩
theorem witness_alarm_summary : ∃ s : State, s.dlk.noasp = false ∧ (∀ j < 64, j ≠ 63 → (coalOf j s).count = 0) ∧ (coalOf 63 s).count ≠ 0 ∧
    queueBytes s.egress.alarm + 40 ≤ 8192 ∧ (up { noasp := true }).dlk.noasp = true :=
  ⟨{ mode := .print, egress := { coal := [(63, { count := 1 })] } }, by decide⟩
theorem witness_posts : ∃ s t : State, reaches (.ctx 15 15 7) (R.ASP_EVPOST 15) s = true ∧ reaches (.ctx 15 15 7) (R.ASP_TRPOST 15) s = true ∧ (0x7FFFF : Word).toNat < 2 ^ 31 ∧
    FabricWhole t ∧ t.ce = [] ∧ (0x7FFFF : Word).toNat % 2 ^ 24 < 2 ^ 19 ∧
    Sparse.get none s.ingress.traces 15 = none ∧ Sparse.get none t.ingress.traces 15 = some (15, 7, 524287, 1) ∧ 524287 + 1 ≤ 524288 ∧ t.ue = [] ∧
    queueBytes t.egress.trace + 8 + round8 (2 * 1) ≤ 24576 ∧ (0xFFFFFF : Word).toNat < 2 ^ 24 :=
  ⟨inMode .print, { mode := .print, ingress := { traces := [(15, some (15, 7, 524287, 1))] } }, by unfold FabricWhole; decide⟩

/-! ### Witnesses: requests, content -/

theorem up_goes : FabricWhole (up {}) := by unfold FabricWhole; decide
theorem witness_request : ∃ w b : BitVec 64, RequestsGo (round8 4) (up {}) ∧ badWord w.toNat = false ∧ 4 = 4 * (bitsN w.toNat 40 8 + 1) ∧
    (∀ i < 4, plainByte (bitsN w.toNat 0 36 + i) (up {}) = true) ∧ badWord b.toNat = true ∧ (pad8 [1, 2, 3, 4]).length = round8 4 ∧
    RequestsGo 0 { up {} with mode := .load } :=
  ⟨0x100FFFFFC, 1, by unfold RequestsGo FabricWhole; and_intros <;> decide⟩
theorem witness_request_lost : (inMode .cold).mode = .cold ∧ (inMode .print).dlk.trained = false := by decide
theorem witness_tileup : ContentGoes (up {}) ∧ tileRangeBad (8 * (0x3FFFFF : BitVec 22).toNat) 8 (up {}) = false ∧
    tileRangeBad (8 * (0x3FFFFF : BitVec 22).toNat) 16 (up {}) = true := by unfold ContentGoes FabricWhole; and_intros <;> decide
def ring (x : Word) : State := { up {} with regs := [(R.ASP_IR_SIZE 15 1, 4), (R.ASP_IR_WP 15 1, x)] }
theorem witness_ring : ∃ s t : State, ContentGoes s ∧ ([1, 2, 3, 4, 5, 6, 7, 8] : List Byte).length % 8 = 0 ∧ rf (R.ASP_IR_SIZE 15 1) 0 16 s = 4 ∧
    rf (R.ASP_IR_WP 15 1) 0 15 s = 1 ∧ rf (R.ASP_IR_RP 15 1) 0 15 s = 0 ∧ (1 + 4 - 0) % 4 + 2 < 4 ∧
    ContentGoes t ∧ rf (R.ASP_IR_WP 15 1) 0 15 t = 2 ∧ 4 ≤ (2 + 4 - 0) % 4 + 2 ∧ 4 ≤ 1 + (List.replicate 24 (0 : Byte)).length / 8 :=
  ⟨ring 1, ring 2, by unfold ContentGoes FabricWhole; and_intros <;> decide⟩
theorem witness_content_resume : ∃ (p q : Packet) (s t : State), s.ingress.content = some p ∧ s.dlk.content = [] ∧ entryFits p s = true ∧
    t.ingress.content = some q ∧ t.dlk.content = [] ∧ entryFits q t = false ∧ (up {}).ingress.content = none :=
  ⟨⟨0x22, 0, 31, List.replicate 8 0⟩, ⟨0x22, 0, 31, List.replicate 8 0⟩,
   { ring 0 with ingress := { content := some ⟨0x22, 0, 31, List.replicate 8 0⟩ } },
   { ring 0 with regs := [], ingress := { content := some ⟨0x22, 0, 31, List.replicate 8 0⟩ } }, by decide⟩
def streaming (n : Nat) : State := { up {} with regs := [(R.CMP_STR_SIZE, 4096)], ingress := { append := n } }
theorem witness_stream_data : FabricWhole (streaming 4031) ∧ linkUp (streaming 4031) = true ∧ ingressHeld (streaming 4031) = false ∧ (streaming 4031).dlk.stream = [] ∧
    (streaming 4031).ingress.stream = [] ∧ (streaming 4031).ingress.waiting = false ∧ ([1] : List Byte).length ≤ 64 - 4031 % 64 ∧
    strWrap (4031 + strSize (streaming 4031) - slowestRp (streaming 4031)) (streaming 4031) + 1 = strSize (streaming 4031) - 64 ∧
    strSize (streaming 4032) - 64 < strWrap (4032 + strSize (streaming 4032) - slowestRp (streaming 4032)) (streaming 4032) + 1 := by unfold FabricWhole; and_intros <;> decide
theorem witness_stream_resume : ∃ s t : State, FabricWhole s ∧ s.ingress.waiting = true ∧ s.ingress.stream = [1] ∧ s.dlk.stream = [] ∧
    strWrap (s.ingress.append + strSize s - slowestRp s) s + 1 ≤ strSize s - 64 ∧ t.ingress.waiting = true ∧ t.ingress.stream ≠ [] ∧
    strSize t - 64 < strWrap (t.ingress.append + strSize t - slowestRp t) t + 1 :=
  ⟨{ streaming 4031 with ingress := { append := 4031, waiting := true, stream := [1], eor := true, len := 100 } },
   { streaming 4032 with ingress := { append := 4032, waiting := true, stream := [1] } }, by unfold FabricWhole; and_intros <;> decide⟩
theorem witness_held_ingress : ∃ s : State, ingressHeld s = true ∧ linkUp s = true := ⟨{ up {} with mode := .proof }, by decide⟩

/-! ### Witnesses: sync chain -/

def follows (x : Syn) : State := { mode := .print, time := 1024000, regs := [(R.SYN_STAT, 8)], syn := { x with decided := true } }
theorem witness_roles : ∃ s : State, s.mode = .proof ∧ s.syn.decided = false ∧ s.proofAt + 64000 ≤ s.time :=
  ⟨{ mode := .proof, time := 64000 }, by decide⟩
theorem witness_repeat : ∃ s : State, s.syn.decided = true ∧ rb R.SYN_STAT 1 s = true ∧ s.syn.sentAt + 256000 ≤ s.time ∧
    -(2 ^ 39) * 256 ≤ pOf s ∧ pOf s < 2 ^ 39 * 256 ∧ s.mode ≠ .sleep :=
  ⟨{ mode := .print, time := 256000, regs := [(R.SYN_STAT, 2)], syn := { decided := true }, pos := { d0 := { p := 2 ^ 39 * 256 - 1 } } }, by decide⟩
theorem witness_chainloss : ∃ s : State, s.syn.decided = true ∧ rb R.SYN_STAT 1 s = false ∧ rb R.SYN_COND 5 s = false ∧
    s.syn.fwdAt + 1024000 ≤ s.time := ⟨follows {}, by decide⟩
/-- An intact forward frame of HOPS 30 and FIDX 7. -/
def fwdBody : List Byte := 0xF7 :: List.replicate 19 0
def fwd : List Byte := fwdBody ++ leBytes 4 (crc32c fwdBody)
theorem witness_forward : fwd.length = 24 ∧ crcGood fwd = true ∧ (parseFwd fwd).hops + 1 = 31 ∧ crcGood (List.replicate 24 1) = false ∧
    (follows {}).syn.decided = true ∧ rb R.SYN_STAT 1 (follows {}) = false ∧ (follows {}).mode.fromProof = true ∧ (follows {}).mode ≠ .proof ∧
    (follows {}).mode ≠ .idle ∧ rd R.POS_VEL (follows {}) = 0 ∧ (parseFwd fwd).frag = (rd (R.STA_CDIG (parseFwd fwd).fidx) (follows {})).toNat ∧
    (follows { want := 7, run := 7 }).syn.want = (parseFwd fwd).fidx := by decide +kernel
theorem witness_forward_align : ∃ s : State, s.syn.decided = true ∧ rb R.SYN_STAT 1 s = false ∧ s.mode = .proof ∧ s.syn.aligned = false ∧
    rd R.POS_VEL s = 0 := ⟨{ follows {} with mode := .proof }, by decide⟩
theorem witness_return : ∃ s t : State, s.syn.decided = true ∧ rb R.SYN_STAT 2 s = true ∧ rb R.SYN_STAT 1 s = false ∧ s.syn.owed = true ∧
    -(2 ^ 39) ≤ s.syn.lastP ∧ s.syn.lastP < 2 ^ 39 ∧ rb R.SYN_STAT 2 t = false ∧ t.mode.fromProof = true ∧ rb R.SYN_STAT 1 t = false ∧
    rb R.SYN_CFG 10 t = true ∧ t.mode = .print :=
  ⟨{ mode := .print, regs := [(R.SYN_STAT, 4)], syn := { decided := true, owed := true, lastP := -(2 ^ 39) } },
   { follows {} with regs := [(R.SYN_STAT, 8), (R.SYN_CFG, 0x400)] }, by decide⟩
theorem witness_epoch : ∃ s t : State, reaches host R.SYN_CTL s = true ∧ s.mode = .idle ∧ rb R.SYN_STAT 1 s = false ∧ t.mode = .idle ∧
    rb R.SYN_STAT 1 t = true ∧ reaches host R.SYN_CTL t = true := ⟨inMode .idle, { mode := .idle, regs := [(R.SYN_STAT, 2)] }, by decide⟩

/-! ### Witnesses: modes, pair port, the whole machine -/

theorem idle_allows_armed : ¬ Forbidden .armed (inMode .idle) := by
  have h : ∀ i < 8, (forceBits (inMode .idle)).getLsbD i = false := by decide
  unfold Forbidden
  rintro (⟨-, i, h3, h8, hi⟩ | ⟨hm, -⟩ | ⟨hm, -⟩)
  · rw [h i h8] at hi; exact Bool.noConfusion hi
  · exact absurd hm (by decide)
  · exact absurd hm (by decide)
theorem witness_mode_request : reaches host R.TIL_MODE (inMode .idle) = true ∧ Mode.armed ∈ byRequest .idle ∧ ¬ Forbidden .armed (inMode .idle) ∧
    (inMode .idle).forcedAt ≠ some (coreCycle (inMode .idle)) ∧ (inMode .idle).sleepEntry = false ∧ (inMode .idle).waking = false ∧
    ¬ (Mode.armed = .print ∧ rb R.SYN_STAT 0 (inMode .idle) = false) :=
  ⟨by decide, by decide, idle_allows_armed, by decide, by decide, by decide, by decide⟩
theorem witness_sleep : ∃ s t u : State, reaches host R.TIL_MODE s = true ∧ s.mode = .sleep ∧ s.waking = false ∧ rb R.TIL_WAKE 0 s = true ∧ t.sleepEntry = true ∧
    quiet t = true ∧ u.waking = true ∧ (∀ i < 8, 3 ≤ i → (forceBits u).getLsbD i = false) :=
  ⟨{ mode := .sleep, regs := [(R.TIL_WAKE, 1)] }, { mode := .idle, sleepEntry := true }, { mode := .sleep, waking := true }, by decide⟩
theorem witness_wake_forced : ∃ s : State, s.waking = true ∧ (forceBits s).getLsbD 3 = true ∧
    (∀ j < 8, 3 ≤ j → j ≠ 3 → (forceBits s).getLsbD j = false) := ⟨{ mode := .sleep, waking := true, regs := [(R.TIL_FORCE, 8)] }, by decide⟩
theorem witness_illegal_mode : (3 : BitVec 4).toNat = 3 ∧ (12 : BitVec 4).toNat = 12 ∧ reaches host R.TIL_MODE (inMode .idle) = true := by decide
theorem witness_watchdog : ∃ s : State, s.mode.fromProof = true ∧ rf R.TIL_WDCFG 0 24 s ≠ 0 ∧ s.wdAt + 4000 * rf R.TIL_WDCFG 0 24 s ≤ s.time ∧
    reservedHit R.TIL_WDOG 0 = false ∧ s.cyc.alarms = [] ∧ reaches host R.TIL_WDOG s = true := ⟨{ mode := .print, time := 4000, regs := [(R.TIL_WDCFG, 1)] }, by decide⟩
theorem witness_pair_send : ∃ s t : State, mayOut 15 15 s = true ∧ Sparse.get none s.stages (Writer.key (.ctx 15 15 7)) = some (ioWordKey (0xC121 + 8 * 3), 65535) ∧
    peerOf 15 3 false s = 0 ∧ peerOf 15 3 true s = 0 ∧ peerOf 0 3 false s ≠ 15 ∧ peerOf 0 3 true s ≠ 15 ∧ mayOut 15 15 t = true ∧ mayOut 15 15 (inMode .sleep) = false ∧
    peerOf 15 3 false t = 0 ∧ peerOf 15 3 true t = 1 ∧ peerOf 0 3 false t = 15 ∧ peerOf 1 3 false t ≠ 15 ∧ peerOf 1 3 true t = 15 :=
  ⟨{ mode := .print, stages := [(Writer.key (.ctx 15 15 7), some (ioWordKey (0xC121 + 8 * 3), 65535))] },
   { mode := .print, regs := [(R.CX_PAIR_CFG 15 3, 0x10), (R.CX_PAIR_CFG 0 3, 0x1F), (R.CX_PAIR_CFG 1 3, 0xF0)] }, by decide⟩
theorem witness_pair_value : ∃ s t : State, (pairOf 15 3 s).line0 = 5 :: [] ∧ (pairOf 15 3 s).line1 = 6 :: [] ∧ (pairOf 15 3 t).line0 = [] ∧
    (pairOf 15 3 t).line1 = [] ∧ cellsIssue s = true ∧ Sparse.get [] s.latches (Writer.key (.ctx 15 15 7)) = [(pairInKey 3 true, 65535)] ∧
    Sparse.get [] t.latches (Writer.key (.ctx 15 15 7)) = [] :=
  ⟨{ mode := .print, pair := [(63, { line0 := [5], line1 := [6] })], latches := [(Writer.key (.ctx 15 15 7), [(pairInKey 3 true, 65535)])] }, {},
   by decide⟩
theorem witness_pair_report : ∃ v u : Half, v.getLsbD 15 = false ∧ v.toNat % 64 = 0x36 ∧ u.getLsbD 15 = true ∧ u.getLsbD 6 = true ∧
    u.toNat / 4096 % 8 = 6 ∧ mayOut 15 15 (inMode .print) = true ∧ (inMode .print).cyc.alarms = [] := ⟨0x36, 0xE040, by decide⟩
theorem witness_exec : ∃ t, exec .idcode (inMode .print) = .next t := ⟨_, rfl⟩
theorem witness_canonical : ∃ t, Memory.wf (inMode .print).mem = true ∧ step (inMode .print) = .next t := ⟨_, by decide, rfl⟩

/-! ### Steps whose results the spec's tables and worked examples give -/

/-- Data stack and ST after a command of context 6 of cell 15, run with these items. -/
def leaves (i : Instr) (ds : List Half) : Option (List Half × Half) :=
  match exec i (runs 6 { ds := ds } {}) with
  | .next t => some ((theCtx 15 15 6 t).ds, (theCtx 15 15 6 t).st)
  | _ => none

/-! The table "Arithmetic at the edges" after R265: ST holds C, V, Z, DZ in bits 0 to 3. -/

theorem test_neg_least : leaves (.lvNeg 15 15) [0x8000] = some ([0x8000], 3) := by decide
theorem test_neg_zero : leaves (.lvNeg 15 15) [0] = some ([0], 4) := by decide
theorem test_inc_most : leaves (.lvInc 15 15) [0x7FFF] = some ([0x8000], 2) := by decide
theorem test_inc_wraps : leaves (.lvInc 15 15) [0xFFFF] = some ([0], 5) := by decide
theorem test_div_overflow : leaves (.lvDiv 15 15) [0xFFFF, 0xFFFF, 0x8000] = some ([0, 0x8000], 2) := by decide
theorem test_div_truncates : leaves (.lvDiv 15 15) [2, 0xFFFF, 0xFFF9] = some ([0xFFFF, 0xFFFD], 0) := by decide
theorem test_div_zero : leaves (.lvDiv 15 15) [0, 0xFFFF, 0xFFFB] = some ([0xFFFB, 0x8000], 8) := by decide
theorem test_divu_overflow : leaves (.lvDivu 15 15) [1, 1, 0] = some ([0, 0], 6) := by decide
theorem test_divu_zero : leaves (.lvDivu 15 15) [0, 0x1234, 0x5678] = some ([0x5678, 0xFFFF], 8) := by decide
theorem test_shl_sixteen : leaves (.lvShl 15 15) [16, 1] = some ([0], 5) := by decide
theorem test_shl_none : leaves (.lvShl 15 15) [32, 0x8001] = some ([0x8001], 0) := by decide
theorem test_shr_seventeen : leaves (.lvShr 15 15) [17, 0x8000] = some ([0], 4) := by decide
theorem test_sar_twenty : leaves (.lvSar 15 15) [20, 0x8000] = some ([0xFFFF], 1) := by decide
theorem test_rol_seventeen : leaves (.lvRol 15 15) [17, 0x8001] = some ([3], 0) := by decide

/-! The example after R5: with the base at 0x100040000, word 0x8123 is the byte 0x100040246. -/

theorem test_window : wordPlace 15 15 0x100040 0x8123 = 0x100040246 := by decide

/-! The example after R72: row group 1 with φ = 128, the last count at 110.5 ticks into line 10,042, a count being 36.909 ticks
and 610.35 ns: the strobe is placed 1,158 units of 250 ps later. -/

def approaching : State :=
  let x : Int := (256 * 10042 + 110) * 254 + 127
  { mode := .print, time := 2500000, regs := [(R.POS_ENC_CTL 0, 1), (R.POS_ENC_NUM 0, 9375), (R.POS_ENC_DEN 0, 254), (R.POS_PHASE 1, 0x80000000)]
    pos := { hwm := 10041, win := [(2500000, x), (0, x - 1024 * 9375)], lastCount := some 2500000, lastGap := 2441 } }
theorem test_placement : ((placement 1 approaching).map (fun e => (e.1.q, e.2))) = some (10042, 2500000 + 1158) := by decide

/-! The tables of R256, R257, R259 and R260. -/

/-- 0 00001 00110 11111: DUP, ADD, RET. -/
theorem test_short_ops : levainOp 15 15 0x04DF 0 0 = .lvDup 15 15 ∧ levainOp 15 15 0x04DF 0 1 = .lvAdd 15 15 ∧
    levainOp 15 15 0x04DF 0 2 = .lvRet 15 15 := by decide
theorem test_long_ops : levainOp 15 15 0xAFFF 0 0 = .lvLit 15 15 0x7FF ∧ levainOp 15 15 0xB002 0x1234 0 = .lvFlit 15 15 0x1234 ∧
    levainOp 15 15 0xB007 0 0 = .lvIllop 15 15 ∧ levainOp 15 15 0xB801 0 0 = .lvNip 15 15 ∧ levainOp 15 15 0xB800 0 0 = .lvIllop 15 15 ∧
    levainOp 15 15 0xF800 0 0 = .lvIllop 15 15 := by decide
end Sys2Proof.Tests
end

/-! SUPPORT. Frames of a Levain command: what its fetch, a change of its cell and a trap leave of the state. -/

namespace Sys2Proof.Machine

open Sys2Proof.Claims

/-! ### A change of one cell -/

/-- The core cycle since which a cell put back as `x` has been idle (R334). -/
def idleFrom (x : Cell) (s : State) : Option Nat :=
  if cellIdle x then (match x.idleSince with
    | some t => some t
    | none => some (coreCycle s)) else none

@[simp] theorem cellOf_onCell (cl m : Nat) (f : Cell → Cell) (s : State) :
    cellOf cl m (onCell cl m f s) = { f (cellOf cl m s) with idleSince := idleFrom (f (cellOf cl m s)) s } :=
  Sparse.get_set_self _ _ _ _

@[simp] theorem ctxOf_idleSince (x : Cell) (i : Option Nat) (c : Nat) : ctxOf { x with idleSince := i } c = ctxOf x c := rfl

@[simp] theorem ctxOf_putCtx_self (c : Nat) (k : Ctx) (x : Cell) : ctxOf (putCtx c k x) c = k := Sparse.get_set_self _ _ _ _

theorem ctxOf_putCtx_other {c d : Nat} (k : Ctx) (x : Cell) (h : d ≠ c) : ctxOf (putCtx c k x) d = ctxOf x d :=
  Sparse.get_set_other _ _ _ _ h

@[simp] theorem theCtx_onCell (cl m d : Nat) (f : Cell → Cell) (s : State) :
    theCtx cl m d (onCell cl m f s) = ctxOf (f (cellOf cl m s)) d := by
  unfold theCtx
  rw [cellOf_onCell, ctxOf_idleSince]

/-! ### What stays local to a cell -/

/-- A cell's own work: nothing changes but the cell, and the count of corrected local RAM reads (R382). -/
structure LocalTo (cl m : Nat) (s t : State) : Prop where
  rest : ∃ r y x, t = { s with regs := r, cyc := y, cells := x }
  regs : ∀ a, a ≠ R.PAN_LECC cl → rd a t = rd a s
  quiet : s.ce = [] → t.regs = s.regs ∧ t.cyc = s.cyc
  cells : ∀ i, i ≠ cl * 16 + m → Sparse.get {} t.cells i = Sparse.get {} s.cells i

theorem LocalTo.refl (cl m : Nat) (s : State) : LocalTo cl m s s :=
  ⟨⟨_, _, _, rfl⟩, fun _ _ => rfl, fun _ => ⟨rfl, rfl⟩, fun _ _ => rfl⟩

theorem LocalTo.trans {cl m : Nat} {s t u : State} (h : LocalTo cl m s t) (k : LocalTo cl m t u) : LocalTo cl m s u := by
  obtain ⟨r, y, x, e⟩ := h.rest
  have hce : t.ce = s.ce := by rw [e]
  refine ⟨?_, fun a ha => (k.regs a ha).trans (h.regs a ha), fun hs => ?_, fun i hi => (k.cells i hi).trans (h.cells i hi)⟩
  · obtain ⟨r', y', x', e'⟩ := k.rest
    exact ⟨r', y', x', by rw [e', e]⟩
  · obtain ⟨hr, hy⟩ := h.quiet hs
    obtain ⟨kr, ky⟩ := k.quiet (hce.trans hs)
    exact ⟨kr.trans hr, ky.trans hy⟩

theorem localTo_onCell (cl m : Nat) (f : Cell → Cell) (s : State) : LocalTo cl m s (onCell cl m f s) :=
  ⟨⟨_, _, _, rfl⟩, fun _ _ => rfl, fun _ => ⟨rfl, rfl⟩, fun _ hi => Sparse.get_set_other _ _ _ _ hi⟩

/-- A corrected read of local RAM is counted where there is a word to correct. -/
theorem localTo_localCe {cl m : Nat} {s : State} (h : s.ce ≠ []) : LocalTo cl m s (localCe cl s) := by
  refine ⟨addSat_eq s _ _ _ _ |>.imp fun r ⟨y, e⟩ => ⟨y, s.cells, e⟩, fun a ha => rd_addSat_other s _ _ _ ha,
    fun hs => absurd hs h, fun i _ => ?_⟩
  rw [localCe, addSat_cells]

variable {cl m : Nat} {s t : State}

theorem LocalTo.ce_eq (h : LocalTo cl m s t) : t.ce = s.ce := by
  obtain ⟨r, y, x, rfl⟩ := h.rest
  rfl

theorem LocalTo.mode_eq (h : LocalTo cl m s t) : t.mode = s.mode := by
  obtain ⟨r, y, x, rfl⟩ := h.rest
  rfl

theorem LocalTo.time_eq (h : LocalTo cl m s t) : t.time = s.time := by
  obtain ⟨r, y, x, rfl⟩ := h.rest
  rfl

theorem LocalTo.img_eq (h : LocalTo cl m s t) : t.img = s.img := by
  obtain ⟨r, y, x, rfl⟩ := h.rest
  rfl

theorem LocalTo.coreCycle_eq (h : LocalTo cl m s t) : coreCycle t = coreCycle s := by rw [coreCycle, h.time_eq, coreCycle]

theorem LocalTo.lazyMr_eq (h : LocalTo cl m s t) : lazyMr t = lazyMr s := by rw [lazyMr, h.mode_eq, lazyMr]

theorem LocalTo.risingOf_eq (h : LocalTo cl m s t) (a b : Nat) : risingOf a b t = risingOf a b s := by
  rw [risingOf, h.img_eq, risingOf]

theorem LocalTo.steady (h : LocalTo cl m s t) : Steady s t := by
  obtain ⟨r, y, x, rfl⟩ := h.rest
  exact ⟨rfl, rfl, rfl, rfl, rfl, rfl, rfl, rfl, rfl, rfl⟩

/-- With every other context as it was, a cell's own work is in the frame of a command of context c. -/
theorem LocalTo.cellOnly {c : Nat} (h : LocalTo cl m s t) (hd : ∀ d, d ≠ c → theCtx cl m d t = theCtx cl m d s) :
    CellOnly cl m c s t := by
  refine ⟨?_, h.regs, h.quiet, h.cells, hd⟩
  obtain ⟨r, y, x, rfl⟩ := h.rest
  rfl

/-! ### The fetch side -/

/-- Of the cell only the fetch side and the idle count differ. -/
structure FetchOnly (cl m : Nat) (s t : State) : Prop extends LocalTo cl m s t where
  cell : ∃ i f, cellOf cl m t = { cellOf cl m s with idleSince := i, fetch := f }

theorem FetchOnly.refl (cl m : Nat) (s : State) : FetchOnly cl m s s := ⟨.refl cl m s, _, _, rfl⟩

theorem FetchOnly.trans {u : State} (h : FetchOnly cl m s t) (k : FetchOnly cl m t u) : FetchOnly cl m s u := by
  refine ⟨h.toLocalTo.trans k.toLocalTo, ?_⟩
  obtain ⟨i, f, e⟩ := h.cell
  obtain ⟨j, g, e'⟩ := k.cell
  exact ⟨j, g, by rw [e', e]⟩

theorem FetchOnly.theCtx_eq (h : FetchOnly cl m s t) (d : Nat) : theCtx cl m d t = theCtx cl m d s := by
  obtain ⟨i, f, e⟩ := h.cell
  rw [theCtx, e]
  rfl

theorem FetchOnly.running_eq (h : FetchOnly cl m s t) : (cellOf cl m t).running = (cellOf cl m s).running := by
  obtain ⟨i, f, e⟩ := h.cell
  rw [e]

theorem FetchOnly.trapq_eq (h : FetchOnly cl m s t) : (cellOf cl m t).trapq = (cellOf cl m s).trapq := by
  obtain ⟨i, f, e⟩ := h.cell
  rw [e]

theorem FetchOnly.stWord_eq (h : FetchOnly cl m s t) (c : Nat) : stWord cl m c t = stWord cl m c s := by
  rw [stWord, h.theCtx_eq, h.risingOf_eq, stWord]

theorem fetchOnly_onFetch (f : Fetch → Fetch) (s : State) : FetchOnly cl m s (onFetch cl m f s) :=
  ⟨localTo_onCell cl m _ s, _, _, cellOf_onCell cl m _ s⟩

theorem fetchOnly_localCe (h : s.ce ≠ []) : FetchOnly cl m s (localCe cl s) :=
  ⟨localTo_localCe h, _, _, by rw [cellOf, localCe, addSat_cells]; rfl⟩

/-- A fold of steps that each stay in the fetch side does. -/
theorem fetchOnly_foldl {α : Type} {f : State → α → State} (l : List α)
    (h : ∀ u, u.ce = s.ce → ∀ a ∈ l, FetchOnly cl m u (f u a)) : FetchOnly cl m s (l.foldl f s) := by
  induction l generalizing s with
  | nil => exact .refl cl m s
  | cons a r ih =>
    have h0 := h s rfl a (by simp)
    exact h0.trans (ih fun u hu b hb => h u (hu.trans h0.ce_eq) b (by simp [hb]))

theorem fetchOnly_countFetch (a n : Nat) (s : State) : FetchOnly cl m s (countFetch cl m a n s) :=
  fetchOnly_foldl _ fun u hu w hw => fetchOnly_localCe fun h0 => by
    have : w ∈ s.ce := List.mem_of_mem_filter hw
    rw [← hu, h0] at this
    exact absurd this (by simp)

theorem fetchOnly_refill (pc : Nat) (s : State) : FetchOnly cl m s (refill cl m pc s) := by
  unfold refill
  extract_lets kept need
  exact (fetchOnly_foldl need fun u _ a _ => fetchOnly_countFetch a 1 u).trans (fetchOnly_onFetch _ _)

theorem fetchOnly_cacheAsk (a : Nat) (s : State) : FetchOnly cl m s (cacheAsk cl m a s) := by
  unfold cacheAsk
  dsimp only
  split
  · exact fetchOnly_onFetch _ _
  · exact (fetchOnly_countFetch _ 8 s).trans (fetchOnly_onFetch _ _)

theorem fetchOnly_fetched (pc n : Nat) (s : State) : FetchOnly cl m s (fetched cl m pc n s) := by
  unfold fetched
  extract_lets u
  refine FetchOnly.trans (t := u) (fetchOnly_onFetch _ s) ?_
  split
  · exact fetchOnly_foldl _ fun u _ j _ => fetchOnly_cacheAsk _ u
  · split
    · exact fetchOnly_refill pc u
    · exact .refl cl m u

theorem fetchOnly_begun (again : Bool) (short : Option Short) (s : State) : FetchOnly cl m s (begun cl m again short s) := by
  unfold begun
  split
  · exact fetchOnly_onFetch _ s
  · exact .refl cl m s

theorem fetchOnly_teach (f : Fetch → Fetch) (s : State) : FetchOnly cl m s (teach cl m f s) := by
  unfold teach
  split
  · exact fetchOnly_onFetch f s
  · exact .refl cl m s

theorem fetchOnly_redirect (s : State) : FetchOnly cl m s (redirect cl m s) := fetchOnly_onFetch _ s

theorem fetchOnly_mulIssued (s : State) : FetchOnly cl m s (mulIssued cl m s) := fetchOnly_onFetch _ s

theorem fetchOnly_mulWait (s : State) : FetchOnly cl m s (mulWait cl m s) := fetchOnly_onFetch _ s

/-! ### Frames of a command -/

theorem localTo_of_cellOnly {c : Nat} (h : CellOnly cl m c s t) : LocalTo cl m s t := by
  obtain ⟨hrest, hregs, hquiet, hcells, -⟩ := h
  exact ⟨⟨_, _, _, hrest⟩, hregs, hquiet, hcells⟩

theorem bankOnly_trans {c : Nat} {u : State} (h : BankOnly cl m c s t) (k : BankOnly cl m c t u) : BankOnly cl m c s u := by
  obtain ⟨hcell, hx⟩ := h
  obtain ⟨kcell, kx⟩ := k
  refine ⟨((localTo_of_cellOnly hcell).trans (localTo_of_cellOnly kcell)).cellOnly fun d hd => ?_, by rw [kx, hx]⟩
  obtain ⟨-, -, -, -, hctx⟩ := hcell
  obtain ⟨-, -, -, -, kctx⟩ := kcell
  rw [kctx d hd, hctx d hd]

theorem FetchOnly.bankOnly (h : FetchOnly cl m s t) (c : Nat) : BankOnly cl m c s t := by
  refine ⟨h.toLocalTo.cellOnly fun d _ => h.theCtx_eq d, ?_⟩
  obtain ⟨i, f, e⟩ := h.cell
  rw [e]

theorem bankOnly_onCtx (c : Nat) (f : Ctx → Ctx) (s : State) : BankOnly cl m c s (onCtx cl m c f s) := by
  refine ⟨(localTo_onCell cl m _ s).cellOnly fun d hd => theCtx_onCtx_other s cl m c d f hd, ?_⟩
  rw [onCtx, cellOf_onCell]
  rfl

end Sys2Proof.Machine

namespace Sys2Proof.Machine

open Sys2Proof.Claims

variable {cl m : Nat} {s t : State}

/-! ### Traps -/

@[simp] theorem cellOf_alarmBit (a i typ : Nat) (x : Alarm) (s : State) : cellOf cl m (alarmBit a i typ x s) = cellOf cl m s := by
  rw [cellOf, alarmBit_cells, cellOf]

@[simp] theorem theCtx_alarmBit (a i typ d : Nat) (x : Alarm) (s : State) : theCtx cl m d (alarmBit a i typ x s) = theCtx cl m d s := by
  rw [theCtx, cellOf_alarmBit, theCtx]

/-- An alarm from a cluster's status bit leaves that bit set: its summary bit is a tile-level register's. -/
theorem rb_alarmBit_cluster (n o i typ : Nat) (x : Alarm) (s : State) (hi : i < 32) :
    rb (R.cluster n + o) i (alarmBit (R.cluster n + o) i typ x s) = true := by
  rw [alarmBit, rb, rd_raiseAlarm_other _ _ _ (by unfold R.cluster R.TIL_ASUML R.TIL_ASUMH R.tile; omega)]
  exact rb_wb_self s _ _ _ hi

@[simp] theorem rb_giveCell (a i c : Nat) (s : State) : rb a i (giveCell cl m c s) = rb a i s := rfl

theorem yieldCell_of_free (h : (cellOf cl m s).running = none) : yieldCell cl m s = s := by
  unfold yieldCell
  rw [h]

/-- The context that gets the cell is RUNNING; every other context is as it was. -/
theorem theCtx_giveCell (c d : Nat) (s : State) :
    theCtx cl m d (giveCell cl m c s) = if d = c then { theCtx cl m d s with state := .running } else theCtx cl m d s := by
  have : theCtx cl m d (giveCell cl m c s) = theCtx cl m d (onCtx cl m c (fun k => { k with state := .running }) s) :=
    theCtx_onCell ..
  rw [this]
  split
  next h => subst d; rw [theCtx_onCtx_self]
  next h => rw [theCtx_onCtx_other _ _ _ _ _ _ h]

/-- Of the cell given to a context only its contexts, the fetch side and the idle count differ, and what runs. -/
theorem cellOf_giveCell (c : Nat) (s : State) : cellOf cl m (giveCell cl m c s) =
    { cellOf cl m s with
      ctxs := (cellOf cl m (giveCell cl m c s)).ctxs, idleSince := (cellOf cl m (giveCell cl m c s)).idleSince
      fetch := (cellOf cl m (giveCell cl m c s)).fetch, running := some c, switching := true } := by
  simp [giveCell, onCtx, putCtx]

/-- A trap taken where no context runs: its record in the cell, context 7's entry state, and the cell given to it
(R314, R324). -/
theorem takeTrap_of_free (r : TrapRec) (hfree : (cellOf cl m s).running = none) (hr : r.told = false) :
    (∀ d, d ≠ 7 → theCtx cl m d (takeTrap cl m r s) = theCtx cl m d s) ∧
    theCtx cl m 7 (takeTrap cl m r s) =
      { ds := [BitVec.ofNat 16 r.code, BitVec.ofNat 16 r.c, BitVec.ofNat 16 r.pc], pc := rf (R.EVC_CELL_CFG cl m) 16 15 s
        state := .running, winbase := (theCtx cl m 7 s).winbase } ∧
    cellOf cl m (takeTrap cl m r s) = { cellOf cl m s with
      ctxs := (cellOf cl m (takeTrap cl m r s)).ctxs, idleSince := (cellOf cl m (takeTrap cl m r s)).idleSince
      fetch := (cellOf cl m (takeTrap cl m r s)).fetch, running := some 7, switching := true
      trapcode := BitVec.ofNat 16 (0x8000 + r.c * 256 + r.code), trappc := BitVec.ofNat 16 r.pc
      trapsl := BitVec.ofNat 16 r.slot, trapadr := BitVec.ofNat 16 r.adr, trapst := r.st, trapact := 0
      handling := some r.c, handledAt := r.at_, handledStopped := false } ∧
    rb (R.EVC_STAT cl) 1 (takeTrap cl m r s) = true := by
  unfold takeTrap
  rw [yieldCell_of_free hfree, hr]
  refine ⟨fun d hd => ?_, ?_, ?_, ?_⟩
  · rw [theCtx_giveCell, if_neg hd]
    simp [ctxOf_putCtx_other _ _ hd]
    rfl
  · rw [theCtx_giveCell, if_pos rfl]
    simp [ctxInit]
    rfl
  · rw [cellOf_giveCell]
    simp [putCtx]
  · rw [rb_giveCell, if_neg (by decide)]
    exact rb_alarmBit_cluster cl 0xC04 1 54 _ _ (by decide)

theorem leastBy_mem (f : Nat → Nat) {l : List Nat} {c : Nat} (h : leastBy f l = some c) : c ∈ l := by
  induction l generalizing c with
  | nil => simp [leastBy] at h
  | cons a r ih =>
    cases hr : leastBy f r with
    | none => simp_all [leastBy]
    | some d =>
      have hd := ih hr
      simp only [leastBy, hr] at h
      split at h <;> simp_all

/-- The best READY context is given the cell, if the cell is free and there is one. -/
theorem runBest_cases (cl m : Nat) (s : State) :
    runBest cl m s = s ∨ ∃ c, (theCtx cl m c s).state = .ready ∧ runBest cl m s = giveCell cl m c s := by
  unfold runBest
  split
  · exact .inl rfl
  · split
    · exact .inl rfl
    · next c hc =>
      have : c ∈ readyCtxs cl m s := leastBy_mem _ hc
      exact .inr ⟨c, by simpa using List.of_mem_filter this, rfl⟩

theorem theCtx_runBest {d : Nat} (h : (theCtx cl m d s).state ≠ .ready) : theCtx cl m d (runBest cl m s) = theCtx cl m d s := by
  obtain e | ⟨c, hc, e⟩ := runBest_cases cl m s
  · rw [e]
  · rw [e, theCtx_giveCell, if_neg (by rintro rfl; exact h hc)]

theorem trapq_runBest (cl m : Nat) (s : State) : (cellOf cl m (runBest cl m s)).trapq = (cellOf cl m s).trapq := by
  obtain e | ⟨c, hc, e⟩ := runBest_cases cl m s
  · rw [e]
  · rw [e, cellOf_giveCell]

theorem unrun_running (c : Nat) (x : Cell) (h : x.running = some c) : (unrun c x).running = none := by
  rw [unrun, if_pos h, abandon]
  split <;> rfl

theorem abandon_eq (x : Cell) : abandon x = { x with fetch := (abandon x).fetch } := by
  rw [abandon]
  split <;> rfl

theorem unrun_eq (c : Nat) (x : Cell) :
    unrun c x = { x with running := (unrun c x).running, switching := (unrun c x).switching, fetch := (unrun c x).fetch } := by
  unfold unrun
  split
  · rw [abandon_eq]
  · rfl

theorem steady_raiseTrap (c code pc slot adr : Nat) (s : State) : Steady s (raiseTrap cl m c code pc slot adr s) := by
  have hk := kept_raiseTrap cl m c code pc slot adr s
  have hb := bytes_raiseTrap cl m c code pc slot adr s
  simp only [kept, Prod.mk.injEq] at hk
  simp only [bytes, Prod.mk.injEq] at hb
  obtain ⟨hp, ht, hpa, hs, hl, hj, hi, hm, -, -⟩ := hk
  exact ⟨hp, ht, hpa, hs, hl, hj, hi, hm, hb.1, hb.2.1⟩

/-! ### A fault inside context 7 (R327) -/

theorem wb64_cells (aL aH i : Nat) (b : Bool) (s : State) : (wb64 aL aH i b s).cells = s.cells := by
  unfold wb64
  split <;> exact wb_cells ..

theorem offerAgain_cells (k : Ctx) (s : State) : (offerAgain cl k s).cells = s.cells := by
  unfold offerAgain
  split
  · split
    · exact wb64_cells ..
    · rfl
  · rfl

/-- The end of a service changes of the cells the context's source in service alone. -/
theorem endService_cases (cl m c : Nat) (s : State) : endService cl m c s = s ∨
    ∃ u, u.cells = s.cells ∧ endService cl m c s = onCtx cl m c (fun k => { k with svc := none }) u := by
  unfold endService
  split
  · exact .inl rfl
  · refine .inr ⟨_, ?_, rfl⟩
    split <;> split <;> simp only [addSat_cells, wb64_cells]

/-- The end of a service leaves every context in its state. -/
theorem state_endService (c d : Nat) (s : State) :
    (theCtx cl m d (endService cl m c s)).state = (theCtx cl m d s).state := by
  obtain e | ⟨u, hu, e⟩ := endService_cases cl m c s
  · rw [e]
  · have hu' : theCtx cl m d u = theCtx cl m d s := by rw [theCtx, cellOf, hu, theCtx, cellOf]
    rw [e, ← hu']
    by_cases h : d = c
    · rw [h, theCtx_onCtx_self]
    · rw [theCtx_onCtx_other _ _ _ _ _ _ h]

/-- Stopping a context leaves the others in their states. -/
theorem state_stopCtx (c d : Nat) (s : State) :
    (theCtx cl m d (stopCtx cl m c s)).state = if d = c then .stopped else (theCtx cl m d s).state := by
  unfold stopCtx
  extract_lets s1
  rw [theCtx_onCell]
  split
  next h => rw [h, ctxOf_putCtx_self]
  next h =>
    rw [ctxOf_putCtx_other _ _ h, unrun_eq, dropMr]
    have e : theCtx cl m d s1 = theCtx cl m d (endService cl m c s) := by
      rw [theCtx, cellOf, offerAgain_cells, theCtx, cellOf]
    rw [← state_endService c d s, ← e]
    split <;> rfl

theorem state_stopAll (d : Nat) (l : List Nat) (s : State) :
    (theCtx cl m d (l.foldl (fun s c => stopCtx cl m c s) s)).state = if d ∈ l then .stopped else (theCtx cl m d s).state := by
  induction l generalizing s with
  | nil => rfl
  | cons c r ih =>
    rw [List.foldl_cons, ih, state_stopCtx]
    by_cases h : d = c <;> by_cases h' : d ∈ r <;> simp [h, h']

theorem ctxOf_dropMr (c d : Nat) (x : Cell) : ctxOf (dropMr c x) d = ctxOf x d := by
  unfold dropMr
  split <;> rfl

/-- A fault inside context 7 stops every context, and the cell. -/
theorem faultIn7_stops (cl m : Nat) (code : Nat) (s : State) :
    (cellOf cl m (faultIn7 cl m code s)).stopped = true ∧
    (cellOf cl m (faultIn7 cl m code s)).trapcode = BitVec.ofNat 16 (0x8700 + code) ∧
    (cellOf cl m (faultIn7 cl m code s)).trapq = [] ∧ (cellOf cl m (faultIn7 cl m code s)).running = none ∧
    (∀ d < 8, (theCtx cl m d (faultIn7 cl m code s)).state = .stopped) ∧
    rb (R.EVC_CELL cl m) 31 (faultIn7 cl m code s) = true ∧ rb (R.EVC_STAT cl) 0 (faultIn7 cl m code s) = true := by
  unfold faultIn7
  extract_lets s1 s2
  have hall : ∀ d, (theCtx cl m d s1).state = if d ∈ List.range 7 then .stopped else (theCtx cl m d s).state :=
    fun d => state_stopAll d _ s
  clear_value s1
  have hx : cellOf cl m s2 = _ := cellOf_onCell cl m _ s1
  have hst : ∀ d < 8, (theCtx cl m d s2).state = .stopped := by
    intro d hd
    rw [theCtx, hx]
    change (ctxOf (dropMr 7 (putCtx 7 _ (cellOf cl m s1))) d).state = .stopped
    rw [ctxOf_dropMr]
    by_cases h7 : d = 7
    · rw [h7, ctxOf_putCtx_self]
    · rw [ctxOf_putCtx_other _ _ h7]
      exact (hall d).trans (if_pos (List.mem_range.mpr (by omega)))
  clear_value s2
  have hw : cellOf cl m (wb (R.EVC_CELL cl m) 31 true s2) = cellOf cl m s2 := by rw [cellOf, wb_cells, cellOf]
  have hcell : rb (R.EVC_CELL cl m) 31
      (alarmBit (R.EVC_STAT cl) 0 53 { cluster := cl, unit := m } (wb (R.EVC_CELL cl m) 31 true s2)) = true := by
    rw [alarmBit, rb, rd_raiseAlarm_other _ _ _ (by unfold R.EVC_CELL R.cluster R.TIL_ASUML R.TIL_ASUMH R.tile; omega),
      rd_wb_other _ _ _ (by unfold R.EVC_CELL R.EVC_STAT; omega)]
    exact rb_wb_self s2 _ _ _ (by decide)
  simp only [cellOf_alarmBit, theCtx, hw]
  rw [hx]
  exact ⟨rfl, rfl, rfl, rfl, fun d hd => hx ▸ hst d hd, hcell, rb_alarmBit_cluster cl 0xC04 0 53 _ _ (by decide)⟩

/-! ### The trap of the running context (R324, R327) -/

/-- A trap of the running context: it is TRAPPED, and context 7 takes the trap or the trap queues; in context 7 the cell stops. -/
theorem traps_raiseTrap {c : Nat} (hrun : (cellOf cl m s).running = some c) (code pc slot adr : Nat) :
    Traps cl m c code pc slot adr s (raiseTrap cl m c code pc slot adr s) := by
  refine ⟨steady_raiseTrap .., fun hc => ?_, fun hc => ?_⟩
  · have h7 : c ≠ 7 := by omega
    unfold raiseTrap
    rw [if_neg h7]
    extract_lets r s1
    have hx : cellOf cl m s1 = _ := cellOf_onCell cl m _ s
    have hfree : (cellOf cl m s1).running = none := by
      rw [hx]
      exact unrun_running c _ hrun
    have hself : theCtx cl m c s1 = { theCtx cl m c s with state := .trapped } := by
      rw [theCtx_onCell, unrun_eq]
      exact ctxOf_putCtx_self ..
    have hother : ∀ d, d ≠ c → theCtx cl m d s1 = theCtx cl m d s := by
      intro d hd
      rw [theCtx_onCell, unrun_eq]
      exact ctxOf_putCtx_other _ _ hd
    rw [hother 7 h7.symm]
    split
    next hidle =>
      obtain ⟨ht, ht7, hcell, hstat⟩ := takeTrap_of_free r hfree rfl
      rw [ht c h7, ht7, hother 7 h7.symm, hcell]
      exact ⟨hself, fun _ => ⟨rfl, rfl, rfl, rfl, rfl, rfl, rfl, rfl, rfl, rfl, rfl, hstat⟩, fun h => absurd hidle h⟩
    next hidle =>
      have hgive : givesWay c (cellOf cl m s1) s1 = none := by
        unfold givesWay
        rw [hfree]
        split <;> simp
      rw [hgive]
      refine ⟨?_, fun h => absurd h hidle, fun _ => ?_⟩
      · have hq : theCtx cl m c (onCell cl m (fun x => { x with trapq := queueTrap r x.trapq }) s1) = theCtx cl m c s1 :=
          theCtx_onCell ..
        rw [theCtx_runBest (by rw [hq, hself]; nofun), hq, hself]
      · rw [trapq_runBest, cellOf_onCell, hx, unrun_eq]
        rfl
  · subst hc
    obtain ⟨hs, hcode, hq, hr, hst, hcl, hev⟩ := faultIn7_stops cl m code s
    rw [raiseTrap, if_pos rfl]
    exact ⟨hs, hcode, hq, hr, hst, hcl, hev⟩

/-- A trap of a state that the fetch side has reached is one of the state before. -/
theorem traps_of_fetchOnly {u : State} {c code pc slot adr : Nat} (hm : m < 16) (h : FetchOnly cl m s t)
    (k : Traps cl m c code pc slot adr t u) : Traps cl m c code pc slot adr s u := by
  obtain ⟨hst, hlow, hseven⟩ := k
  have hcfg : rf (R.EVC_CELL_CFG cl m) 16 15 t = rf (R.EVC_CELL_CFG cl m) 16 15 s := by
    rw [rf, h.regs _ (by unfold R.EVC_CELL_CFG R.PAN_LECC; omega), rf]
  rw [h.theCtx_eq c, h.theCtx_eq 7, hcfg, h.stWord_eq, h.coreCycle_eq, h.trapq_eq] at hlow
  obtain ⟨s1, s2, s3, s4, s5, s6, s7, s8, s9, s10⟩ := h.steady
  obtain ⟨t1, t2, t3, t4, t5, t6, t7, t8, t9, t10⟩ := hst
  exact ⟨⟨t1.trans s1, t2.trans s2, t3.trans s3, t4.trans s4, t5.trans s5, t6.trans s6, t7.trans s7, t8.trans s8, t9.trans s9,
    t10.trans s10⟩, hlow, hseven⟩

end Sys2Proof.Machine

namespace Sys2Proof.Machine

open Sys2Proof.Claims

variable {cl m c : Nat} {s t : State}

/-! ### Fetch and stack conditions met -/

/-- The state in which an instruction of context c acts: its words fetched, the instruction begun. -/
def started (cl m c : Nat) (h : Shape) (s : State) : State :=
  begun cl m (cellOf cl m s).fetch.held h.short (fetched cl m (theCtx cl m c s).pc h.fetches s)

theorem fetchOnly_started (h : Shape) (s : State) : FetchOnly cl m s (started cl m c h s) :=
  (fetchOnly_fetched _ _ s).trans (fetchOnly_begun _ _ _)

/-- The context that issues is the one that runs. -/
theorem running_of_issuing (h : issuing cl m s = some c) : (cellOf cl m s).running = some c := by
  unfold issuing at h
  dsimp only at h
  split at h
  · exact h
  · cases h

theorem issuing_of_ready {w : Nat} (h : Ready cl m w c s) : issuing cl m s = some c := by
  obtain ⟨hc, -⟩ := h
  exact hc

theorem running_of_ready {w : Nat} (h : Ready cl m w c s) : (cellOf cl m s).running = some c :=
  running_of_issuing (issuing_of_ready h)

theorem pc_lt_of_ready {w : Nat} (h : Ready cl m w c s) : (theCtx cl m c s).pc < 0x8000 := by
  obtain ⟨-, hpc, -⟩ := h
  omega

/-- The words of a command that is ready to issue are fetched without a trap. -/
theorem fetchTrap_of_ready {h : Shape} (hr : Ready cl m h.words c s) (hw : h.words ≤ 2) (he : h.extra = 0) :
    fetchTrap cl m h (theCtx cl m c s) (fetched cl m (theCtx cl m c s).pc h.fetches s) = none := by
  obtain ⟨-, hpc, hword⟩ := hr
  have hn : h.fetches = max 1 h.words := by rw [Shape.fetches, he, Nat.add_zero]
  have hword := hword h.fetches (by omega) (by omega)
  have h0 := hword 0 (by omega)
  rw [Nat.add_zero] at h0
  unfold fetchTrap
  rw [if_neg (by omega), if_neg h0]
  by_cases h2 : h.words = 2
  · rw [if_pos h2] at hpc
    rw [if_neg (by omega), if_neg fun hc => hword 1 (by omega) hc.2]
  · rw [if_neg fun hc => h2 hc.1, if_neg fun hc => h2 hc.1]

/-- A ready command with the items it needs and room for those it leaves acts once it is begun. -/
theorem issue_of_ready {h : Shape} (hr : Ready cl m h.words c s) (hw : h.words ≤ 2) (he : h.extra = 0)
    (hs : stackTrap h (theCtx cl m c s) = none) (f : Nat → State → Host.Outcome State Fault Refusal) :
    issue cl m h s f = f c (started cl m c h s) := by
  unfold issue
  rw [issuing_of_ready hr]
  dsimp only
  rw [fetchTrap_of_ready hr hw he]
  dsimp only
  rw [hs]
  rfl

/-- A ready command that meets a stack trap takes it. -/
theorem issue_of_stackTrap {h : Shape} {code : Nat} (hr : Ready cl m h.words c s) (hw : h.words ≤ 2) (he : h.extra = 0)
    (hs : stackTrap h (theCtx cl m c s) = some code) (f : Nat → State → Host.Outcome State Fault Refusal) :
    issue cl m h s f = .next (trapHere cl m c code 0 (fetched cl m (theCtx cl m c s).pc h.fetches s)) := by
  unfold issue
  rw [issuing_of_ready hr]
  dsimp only
  rw [fetchTrap_of_ready hr hw he]
  dsimp only
  rw [hs]

/-- No stack trap: the items are there, and what is left has room. -/
theorem stackTrap_of_fits {h : Shape} {k : Ctx} {l r q p : List Half} (hd : k.ds = l ++ r) (hq : k.rs = q ++ p)
    (hpop : h.pops = l.length) (hrpop : h.rpops = q.length) (hpush : h.pushes + r.length ≤ 16)
    (hrpush : h.rpushes + p.length ≤ 16) : stackTrap h k = none := by
  have hdl : k.ds.length = l.length + r.length := by rw [hd, List.length_append]
  have hql : k.rs.length = q.length + p.length := by rw [hq, List.length_append]
  unfold stackTrap
  rw [if_neg (by omega), if_neg (by omega), if_neg (by omega), if_neg (by omega)]

theorem advance_eq_past (h : Shape) (k : Ctx) : advance h k = past h.words k := by
  unfold advance past
  by_cases hw : h.words = 0
  · by_cases hs : k.slot < 2 <;> simp [hw, hs]
  · have : max 1 h.words = h.words := by omega
    simp [hw, this]

/-- The running context's trap at a state of its own fetch side. -/
theorem traps_trapHere {s1 : State} (hm : m < 16) (h : FetchOnly cl m s s1) (hrun : (cellOf cl m s).running = some c) (code adr : Nat) :
    Traps cl m c code (theCtx cl m c s).pc (theCtx cl m c s).slot adr s (trapHere cl m c code adr s1) := by
  rw [← h.theCtx_eq c]
  exact traps_of_fetchOnly hm h (traps_raiseTrap (h.running_eq.trans hrun) ..)

/-! ### Transfers (R252, R253) -/

/-- A transfer, where it is taken, with a return address to push; otherwise on to the next word. The model's `branch` is this
without a return address, and its `transfer` this taken. -/
def transferOr (g : Guess) (cl m c : Nat) (h : Shape) (taken : Bool) (t : Int) (ret : Option Nat) (f : Ctx → Ctx) (s : State) :
    State :=
  if taken then transfer g cl m c t ret f s
  else teach cl m (resolve g c (theCtx cl m c s).pc false 0) (onCtx cl m c (fun k => advance h (f k)) s)

theorem transfer_eq_transferOr (g : Guess) (cl m c : Nat) (h : Shape) (t : Int) (ret : Option Nat) (f : Ctx → Ctx) (s : State) :
    transfer g cl m c t ret f s = transferOr g cl m c h true t ret f s := rfl

/-- The bank after `f`, with a return address pushed on what the return stack held. -/
def withReturn (ret : Option Nat) (f : Ctx → Ctx) (k : Ctx) : Ctx :=
  match ret with
  | some r => { f k with rs := BitVec.ofNat 16 r :: k.rs }
  | none => f k

/-- A transfer to local RAM lands on its target, the fetch buffer discarded. -/
theorem transfer_lands {g : Guess} {t : Int} {ret : Option Nat} (f : Ctx → Ctx) (s : State)
    (hin : ¬ (t < 0 ∨ 0x8000 ≤ t ∨ ∃ r, ret = some r ∧ 0x8000 ≤ r)) :
    BankOnly cl m c s (transfer g cl m c t ret f s) ∧
    theCtx cl m c (transfer g cl m c t ret f s) = goTo t.toNat (withReturn ret f (theCtx cl m c s)) ∧
    (cellOf cl m (transfer g cl m c t ret f s)).fetch.buf = [] := by
  have hbuf : ∀ u, (cellOf cl m (redirect cl m u)).fetch.buf = [] := fun u => by rw [redirect, onFetch, cellOf_onCell]
  unfold transfer
  rw [if_neg (by tauto)]
  dsimp only
  cases ret with
  | none =>
    have hf := (fetchOnly_teach (resolve g c (theCtx cl m c s).pc true t.toNat)
      (onCtx cl m c (fun k => goTo t.toNat (f k)) s)).trans (fetchOnly_redirect (cl := cl) (m := m) _)
    exact ⟨bankOnly_trans (bankOnly_onCtx ..) (hf.bankOnly c), by rw [hf.theCtx_eq, theCtx_onCtx_self]; rfl, hbuf _⟩
  | some r =>
    have hr : ¬ 0x8000 ≤ r := fun h => hin (.inr (.inr ⟨r, rfl, h⟩))
    dsimp only
    rw [if_neg hr]
    have hf := ((fetchOnly_teach (resolve g c (theCtx cl m c s).pc true t.toNat)
      (onCtx cl m c (fun k => goTo t.toNat { f k with rs := BitVec.ofNat 16 r :: k.rs }) s)).trans
      (fetchOnly_teach (pushRet c (some r)) _)).trans (fetchOnly_redirect (cl := cl) (m := m) _)
    exact ⟨bankOnly_trans (bankOnly_onCtx ..) (hf.bankOnly c), by rw [hf.theCtx_eq, theCtx_onCtx_self]; rfl, hbuf _⟩

/-- A transfer out of local RAM, or with a return address there, is a FETCH trap with no effect. -/
theorem transfer_out {g : Guess} {t : Int} {ret : Option Nat} (f : Ctx → Ctx) (s : State)
    (hout : t < 0 ∨ 0x8000 ≤ t ∨ ∃ r, ret = some r ∧ 0x8000 ≤ r) :
    ∃ adr, transfer g cl m c t ret f s = trapHere cl m c trapFETCH adr s := by
  unfold transfer
  split
  · exact ⟨_, rfl⟩
  next h =>
    obtain ⟨r, rfl, hr⟩ : ∃ r, ret = some r ∧ 0x8000 ≤ r := by tauto
    dsimp only
    rw [if_pos hr]
    exact ⟨_, rfl⟩

/-- A conditional transfer that is not taken goes on to the next word. -/
theorem transferOr_false (g : Guess) (h : Shape) (t : Int) (ret : Option Nat) (f : Ctx → Ctx) (s : State) :
    BankOnly cl m c s (transferOr g cl m c h false t ret f s) ∧
    theCtx cl m c (transferOr g cl m c h false t ret f s) = past h.words (f (theCtx cl m c s)) := by
  have hf := fetchOnly_teach (cl := cl) (m := m) (resolve g c (theCtx cl m c s).pc false 0) (onCtx cl m c (fun k => advance h (f k)) s)
  have e : transferOr g cl m c h false t ret f s = _ := if_neg (by decide)
  rw [e]
  exact ⟨bankOnly_trans (bankOnly_onCtx ..) (hf.bankOnly c), by rw [hf.theCtx_eq, theCtx_onCtx_self, advance_eq_past]⟩

end Sys2Proof.Machine

namespace Sys2Proof.Machine

open Sys2Proof.Claims

/-! ### Stack items -/

/-- A bank with its stacks put back as they are. -/
theorem eq_with_stacks {k : Ctx} {d p : List Half} (hd : k.ds = d) (hp : k.rs = p) : k = { k with ds := d, rs := p } := by
  subst hd hp
  rfl

/-- Popping the items on top and pushing others. -/
theorem restack_eq {n : Nat} {l r p : List Half} {k : Ctx} (l' : List Half) (hd : k.ds = l ++ r) (hn : l.length = n)
    (hp : k.rs = p) : restack n l' k = { k with ds := l' ++ r, rs := p } := by
  subst hn hp
  rw [restack, hd, List.drop_left]

/-- An item read is that of the items on top. -/
theorem item_eq {n : Nat} {x : Half} {l r : List Half} {k : Ctx} (hd : k.ds = l ++ r) (hx : l[n]? = some x) : item n k = x := by
  obtain ⟨hn, -⟩ := List.getElem?_eq_some_iff.mp hx
  rw [item, hd, List.getD_eq_getElem?_getD, List.getElem?_append_left hn, hx, Option.getD_some]

theorem item_zero {x : Half} {r : List Half} {k : Ctx} (hd : k.ds = [x] ++ r) : item 0 k = x := item_eq hd rfl

/-! ### The transfers as `Transfers` states them -/

/-- What a transfer takes from the stacks and pushes as a return address. -/
def transferShape (w : Nat) (l l' q : List Half) (ret : Option Nat) : Shape :=
  { pops := l.length, pushes := l'.length, rpops := q.length, rpushes := ret.toList.length, words := w }

section
variable {cl m : Fin 16} {i : Instr} {w : Nat} {l l' q : List Half} {taken : Ctx → Bool} {target : Ctx → Int} {ret : Option Nat}
  {f : Ctx → Ctx}

/-- A command that transfers as `transferOr` does is a transfer, if its condition, its target and its change of the bank are
those stated wherever it is ready. -/
theorem transfers_of_issue (g : Guess) (tk : Ctx → Bool) (T : Ctx → Int) (F : Ctx → Ctx)
    (hi : ∀ s, exec i s = issue cl m (transferShape w l l' q ret) s (fun c s => .next (transferOr g cl m c { words := w }
      (tk (theCtx cl m c s)) (T (theCtx cl m c s)) (ret.map (fun n => (theCtx cl m c s).pc + n)) F s)))
    (hw : w ≤ 2) (hl : l'.length ≤ l.length) (hq : ret ≠ none → q = [])
    (hk : ∀ k r p, k.ds = l ++ r → k.rs = q ++ p → k.pc < 0x8000 →
      tk k = taken k ∧ T k = target k ∧ F k = { f k with ds := l' ++ r, rs := p }) :
    Transfers cl m i w l l' q taken target ret f := by
  intro c s r p k out hkc hr hd hrs hlen hpush hp hout
  subst hkc hout
  have hfit : stackTrap (transferShape w l l' q ret) (theCtx cl m c s) = none := by
    rw [hd, List.length_append] at hlen
    refine stackTrap_of_fits hd hrs rfl rfl ?_ ?_
    · change l'.length + r.length ≤ 16
      omega
    · cases ret with
      | none => exact (Nat.zero_add _).trans_le hp
      | some n => exact (Nat.add_comm 1 _).trans_le (hpush (by simp))
  have hf := fetchOnly_started (cl := cl) (m := m) (c := c) (transferShape w l l' q ret) s
  obtain ⟨htk, hT, hF⟩ := hk _ r p hd hrs (pc_lt_of_ready hr)
  have hret : (∃ a, ret.map (fun n => (theCtx cl m c s).pc + n) = some a ∧ 0x8000 ≤ a) ↔
      ∃ n, ret = some n ∧ 0x8000 ≤ (theCtx cl m c s).pc + n := by simp
  rw [hi, issue_of_ready hr hw rfl hfit, hf.theCtx_eq, htk, hT, ← hret]
  generalize started cl m c (transferShape w l l' q ret) s = u at hf
  refine ⟨fun ht ho => ?_, fun ht ho => ?_, fun ht => ?_⟩
  · obtain ⟨hb, hctx, hbuf⟩ := transfer_lands (cl := cl) (m := m) (c := c) (g := g) F u ho
    rw [ht, ← transfer_eq_transferOr]
    refine ⟨_, rfl, bankOnly_trans (hf.bankOnly c) hb, hctx.trans ?_, hbuf⟩
    rw [hf.theCtx_eq]
    cases ret with
    | none => exact congrArg (goTo _) hF
    | some n =>
      obtain rfl := hq (by simp)
      rw [Option.map_some, withReturn, hF, hrs]
      rfl
  · obtain ⟨adr, h⟩ := transfer_out (cl := cl) (m := m) (c := c) (g := g) F u ho
    rw [ht, ← transfer_eq_transferOr]
    exact ⟨_, adr, congrArg _ h, traps_trapHere m.isLt hf (running_of_ready hr) ..⟩
  · obtain ⟨hb, hctx⟩ := transferOr_false (cl := cl) (m := m) (c := c) g { words := w } (target (theCtx cl m c s))
      (ret.map (fun n => (theCtx cl m c s).pc + n)) F u
    rw [ht]
    refine ⟨_, rfl, bankOnly_trans (hf.bankOnly c) hb, hctx.trans ?_⟩
    rw [hf.theCtx_eq, hF]

end

/-! ### Targets and conditions -/

theorem and_pageMask {a : Nat} (h : a < 0x8000) : a &&& 0x7800 = a / 2048 * 2048 := by
  apply Nat.eq_of_testBit_eq
  intro j
  have hm : (0x7800 : Nat) = (2 ^ 4 - 1) * 2 ^ 11 := by norm_num
  have hd : a / 2048 * 2048 = a / 2 ^ 11 * 2 ^ 11 := by norm_num
  rw [Nat.testBit_and, hm, testBit_fieldMask, hd, Nat.testBit_mul_two_pow, Nat.testBit_div_two_pow]
  by_cases h1 : 11 ≤ j
  · by_cases h2 : j < 15
    · simp [h1, h2]
    · have : a.testBit j = false := Nat.testBit_lt_two_pow (h.trans_le (Nat.pow_le_pow_right (n := 2) (by omega) (by omega : 15 ≤ j)))
      simp [h1, this]
  · simp [h1]

/-- A page target keeps the bits of the PC above the 11 of the operand (R252). -/
theorem pageTarget_eq {a : Nat} (h : a < 0x8000) (k : BitVec 11) : pageTarget a k = (a &&& 0x7800) ||| k.toNat := by
  have hk : k.toNat < 2 ^ 11 := k.isLt
  rw [and_pageMask h, pageTarget, Nat.mul_comm]
  exact Nat.two_pow_add_eq_or_of_lt hk _

/-- The sixteen conditions of BR.cc (R258). -/
theorem brTest_eq (cc : BitVec 4) (x st : Half) : brTest cc.toNat x st =
    [true, stZ st, !stZ st, stC st, !stC st, stV st, !stV st, x.msb, !x.msb, x.msb != stV st, x.msb == stV st,
      stZ st || x.msb != stV st, !stZ st && x.msb == stV st, stC st || stZ st, !stC st && !stZ st, stDZ st].getD cc.toNat false := by
  have h : cc.toNat < 16 := cc.isLt
  interval_cases cc.toNat <;> rfl

/-- Conditions other than 7 to 12 do not read T. -/
theorem brTest_of_not_reads {n : Nat} (hn : n < 16) (h : ¬ (7 ≤ n ∧ n ≤ 12)) (x y st : Half) : brTest n x st = brTest n y st := by
  interval_cases n <;> simp [brTest] at h ⊢

/-! ### Mispredictions counted (R295, R310) -/

/-- The count of transfers predicted wrong. -/
def misses (cl m : Nat) (s : State) : Nat := (cellOf cl m s).fetch.brmiss

section
variable {cl m : Nat}

theorem misses_onFetch {f : Fetch → Fetch} (h : ∀ x, (f x).brmiss = x.brmiss) (s : State) :
    misses cl m (onFetch cl m f s) = misses cl m s := by
  rw [misses, onFetch, cellOf_onCell]
  exact h _

theorem misses_foldl {α : Type} {f : State → α → State} (h : ∀ u a, misses cl m (f u a) = misses cl m u) (l : List α) (s : State) :
    misses cl m (l.foldl f s) = misses cl m s := by
  induction l generalizing s with
  | nil => rfl
  | cons a r ih => rw [List.foldl_cons, ih, h]

theorem misses_countFetch (a n : Nat) (s : State) : misses cl m (countFetch cl m a n s) = misses cl m s :=
  misses_foldl (fun u _ => by rw [misses, cellOf, localCe, addSat_cells]; rfl) _ s

theorem misses_fetched (pc n : Nat) (s : State) : misses cl m (fetched cl m pc n s) = misses cl m s := by
  have hask : ∀ a u, misses cl m (cacheAsk cl m a u) = misses cl m u := by
    intro a u
    unfold cacheAsk
    dsimp only
    split
    · exact misses_onFetch (by intro; rfl) u
    · exact (misses_onFetch (by intro; rfl) _).trans (misses_countFetch _ 8 u)
  unfold fetched
  extract_lets u
  have hu : misses cl m u = misses cl m s := misses_onFetch (by intro x; split <;> rfl) s
  rw [← hu]
  split
  · exact misses_foldl (fun v j => hask _ v) _ u
  · split
    · unfold refill
      extract_lets kept need
      exact (misses_onFetch (by intro; rfl) _).trans (misses_foldl (fun v a => misses_countFetch a 1 v) need u)
    · rfl

theorem misses_started (c : Nat) (h : Shape) (s : State) : misses cl m (started cl m c h s) = misses cl m s := by
  unfold started begun
  split
  · refine (misses_onFetch (fun x => ?_) _).trans (misses_fetched ..)
    unfold pairUp
    split
    · split <;> rfl
    · rfl
  · exact misses_fetched ..

/-- A LOOP on a Rising cell is predicted taken (R295). -/
theorem misses_loop {c : Nat} {h : Shape} {taken : Bool} {t : Int} {f : Ctx → Ctx} (s : State) (ht : ¬ (t < 0 ∨ 0x8000 ≤ t)) :
    misses cl m (branch .loop cl m c h taken t f s) =
      if risingOf cl m s ∧ taken = false then min 0xFFFF (misses cl m s + 1) else misses cl m s := by
  have hctx : ∀ g : Ctx → Ctx, misses cl m (onCtx cl m c g s) = misses cl m s := by
    intro g
    rw [misses, onCtx, cellOf_onCell]
    rfl
  have hteach : ∀ (e : Fetch → Fetch) (g : Ctx → Ctx), misses cl m (teach cl m e (onCtx cl m c g s)) =
      if risingOf cl m s then (e (cellOf cl m (onCtx cl m c g s)).fetch).brmiss else misses cl m s := by
    intro e g
    rw [teach, show risingOf cl m (onCtx cl m c g s) = risingOf cl m s from rfl]
    split
    · rw [misses, onFetch, cellOf_onCell]
    · exact hctx g
  cases taken with
  | true =>
    rw [branch, if_pos rfl, transfer, if_neg ht]
    dsimp only
    rw [redirect, misses_onFetch (by intro; rfl), hteach]
    refine Eq.trans ?_ (if_neg (by simp)).symm
    split
    · exact hctx _
    · rfl
  | false =>
    rw [branch, if_neg (by decide), hteach]
    by_cases hr : risingOf cl m s = true
    · rw [if_pos hr, if_pos ⟨hr, rfl⟩, ← hctx fun k => advance h (f k)]
      rfl
    · rw [if_neg hr, if_neg fun h => hr h.1]

end

/-! ### BR.cc and LOOP -/

variable {cl m : Fin 16}

/-- BR.cc: its condition holds of T and ST, T read where the condition reads it, and left (R258). -/
theorem transfers_lvBr (d : BitVec 7) (cc : BitVec 4) (x : Half) (l : List Half)
    (hl : l = if 7 ≤ cc.toNat ∧ cc.toNat ≤ 12 then [x] else []) :
    Transfers cl m (.lvBr cl m cc d) 1 l l [] (fun b => brTest cc.toNat x b.st) (fun b => b.pc + d.toInt) none id := by
  have hlen : l.length = if 7 ≤ cc.toNat ∧ cc.toNat ≤ 12 then 1 else 0 := by
    rw [hl]
    split <;> rfl
  refine transfers_of_issue (if cc = 0 then .always else .cond) (fun b => brTest cc.toNat (item 0 b) b.st)
    (fun b => b.pc + d.toInt) id (fun s => ?_) (by omega) le_rfl (by simp) fun b r p hd hr _ => ⟨?_, rfl, eq_with_stacks hd hr⟩
  · rw [transferShape, hlen]
    rfl
  · by_cases h : 7 ≤ cc.toNat ∧ cc.toNat ≤ 12
    · rw [if_pos h] at hl
      subst hl
      exact congrArg (brTest cc.toNat · b.st) (item_zero hd)
    · exact brTest_of_not_reads cc.isLt h ..

/-- A condition on T without an item is a stack trap. -/
theorem lvBr_underflow {c : Nat} {s : State} (d : BitVec 7) (cc : BitVec 4) (hr : Ready cl m 1 c s)
    (hd : (theCtx cl m c s).ds = []) (h : 7 ≤ cc.toNat ∧ cc.toNat ≤ 12) :
    ∃ t, exec (.lvBr cl m cc d) s = .next t ∧ Traps cl m c trapDSUNF (theCtx cl m c s).pc (theCtx cl m c s).slot 0 s t := by
  have htrap : stackTrap { pops := 1, pushes := 1, words := 1 } (theCtx cl m c s) = some trapDSUNF := by
    rw [stackTrap, if_pos (by simp [hd])]
  change ∃ t, execLvBr cl m cc d s = .next t ∧ _
  unfold execLvBr
  rw [if_pos h, issue_of_stackTrap hr (by decide) rfl htrap]
  exact ⟨_, rfl, traps_trapHere m.isLt (fetchOnly_fetched ..) (running_of_ready hr) ..⟩

/-- LOOP counts a misprediction where it ends on a Rising cell. -/
theorem lvLoop_misses {c : Nat} {s : State} (k : BitVec 11) (hr : Ready cl m 1 c s) (hd : (theCtx cl m c s).ds.length ≤ 16)
    (hrs : (theCtx cl m c s).rs.length ≤ 16) (hk : k.toNat ≤ (theCtx cl m c s).pc) :
    ∃ t, exec (.lvLoop cl m k) s = .next t ∧ misses cl m t =
      if risingOf cl m s ∧ (theCtx cl m c s).rc = 1 then min 0xFFFF (misses cl m s + 1) else misses cl m s := by
  have hf := fetchOnly_started (cl := cl) (m := m) (c := c) { words := 1 } s
  have hpc := pc_lt_of_ready hr
  have hfit : stackTrap { words := 1 } (theCtx cl m c s) = none :=
    stackTrap_of_fits (l := []) (q := []) rfl rfl rfl rfl (by simpa using hd) (by simpa using hrs)
  have hrc : ∀ y : Half, (y - 1 != 0) = false ↔ y = 1 := fun y => by rw [bne_eq_false_iff_eq, BitVec.sub_eq_iff_eq_add]; simp
  change ∃ t, execLvLoop cl m k s = .next t ∧ _
  unfold execLvLoop
  rw [issue_of_ready hr (by decide) rfl hfit]
  refine ⟨_, rfl, ?_⟩
  rw [misses_loop _ (by rw [hf.theCtx_eq]; omega), hf.risingOf_eq, hf.theCtx_eq, misses_started]
  simp only [hrc]

end Sys2Proof.Machine

section

open Sys2Proof Sys2Proof.Machine Sys2Proof.Claims

/-- Settles O37: each transfer is an issue of `transferOr`, whose three outcomes are proved once. -/
theorem transfersLandOnTargets : Obligations.TransfersLandOnTargets := by
  intro cl m x k
  have hpage : ∀ b : Ctx, b.pc < 0x8000 → (pageTarget b.pc k : Int) = (((b.pc &&& 0x7800) ||| k.toNat : Nat) : Int) :=
    fun b hb => congrArg _ (pageTarget_eq hb k)
  have hzero : ∀ (y : Half) {r : List Half} {b : Ctx}, b.ds = [y] ++ r → (item 0 b == 0) = decide (y = 0) :=
    fun y r b hd => by rw [item_zero hd]; rfl
  have hnonzero : ∀ (y : Half) {r : List Half} {b : Ctx}, b.ds = [y] ++ r → (item 0 b != 0) = decide (y ≠ 0) :=
    fun y r b hd => by rw [bne, hzero y hd, decide_not]
  refine ⟨?ret, ?jmp, ?call, ?jz, ?jnz, ?loop, ?fjmp, ?fcall, fun y => ⟨?fjz, ?fjnz⟩, ?exec, ?jmpt, fun d cc l hl => ?br,
    fun d cc c s b hb hr hd h7 h12 => ?underflow, fun c s b n hb hr hd hrs hk hn => ?misses⟩
  case ret =>
    refine transfers_of_issue .ret (fun _ => true) (fun b => (b.rs.headD 0).toNat) (fun b => { b with rs := b.rs.drop 1 })
      (fun _ => rfl) (by omega) le_rfl (by simp) fun b r p hd hr _ => ?_
    simp [hr, hd]
  case jmp =>
    exact transfers_of_issue .always (fun _ => true) (fun b => pageTarget b.pc k) id (fun _ => rfl) (by omega) le_rfl (by simp)
      fun b r p hd hr hpc => ⟨rfl, hpage b hpc, eq_with_stacks hd hr⟩
  case call =>
    exact transfers_of_issue .always (fun _ => true) (fun b => pageTarget b.pc k) id (fun _ => rfl) (by omega) le_rfl (by simp)
      fun b r p hd hr hpc => ⟨rfl, hpage b hpc, eq_with_stacks hd hr⟩
  case jz =>
    exact transfers_of_issue .cond (fun b => item 0 b == 0) (fun b => pageTarget b.pc k) (restack 1 []) (fun _ => rfl) (by omega)
      (by simp) (by simp) fun b r p hd hr hpc => ⟨hzero x hd, hpage b hpc, restack_eq [] hd rfl hr⟩
  case jnz =>
    exact transfers_of_issue .cond (fun b => item 0 b != 0) (fun b => pageTarget b.pc k) (restack 1 []) (fun _ => rfl) (by omega)
      (by simp) (by simp) fun b r p hd hr hpc => ⟨hnonzero x hd, hpage b hpc, restack_eq [] hd rfl hr⟩
  case loop =>
    refine transfers_of_issue .loop (fun b => b.rc - 1 != 0) (fun b => (b.pc : Int) - k.toNat) (fun b => { b with rc := b.rc - 1 })
      (fun _ => rfl) (by omega) le_rfl (by simp) fun b r p hd hr _ => ⟨?_, rfl, eq_with_stacks hd hr⟩
    rw [bne, decide_not, beq_eq_decide]
    simp [BitVec.sub_eq_iff_eq_add]
  case fjmp =>
    exact transfers_of_issue .always (fun _ => true) (fun _ => x.toNat) id (fun _ => rfl) (by omega) le_rfl (by simp)
      fun b r p hd hr _ => ⟨rfl, rfl, eq_with_stacks hd hr⟩
  case fcall =>
    exact transfers_of_issue .always (fun _ => true) (fun _ => x.toNat) id (fun _ => rfl) (by omega) le_rfl (by simp)
      fun b r p hd hr _ => ⟨rfl, rfl, eq_with_stacks hd hr⟩
  case fjz =>
    exact transfers_of_issue .cond (fun b => item 0 b == 0) (fun _ => x.toNat) (restack 1 []) (fun _ => rfl) (by omega)
      (by simp) (by simp) fun b r p hd hr _ => ⟨hzero y hd, rfl, restack_eq [] hd rfl hr⟩
  case fjnz =>
    exact transfers_of_issue .cond (fun b => item 0 b != 0) (fun _ => x.toNat) (restack 1 []) (fun _ => rfl) (by omega)
      (by simp) (by simp) fun b r p hd hr _ => ⟨hnonzero y hd, rfl, restack_eq [] hd rfl hr⟩
  case exec =>
    exact transfers_of_issue .stack (fun _ => true) (fun b => (item 0 b).toNat) (restack 1 []) (fun _ => rfl) (by omega)
      (by simp) (by simp) fun b r p hd hr _ => ⟨rfl, congrArg (fun y : Half => (y.toNat : Int)) (item_zero hd), restack_eq [] hd rfl hr⟩
  case jmpt =>
    exact transfers_of_issue .stack (fun _ => true) (fun b => (item 0 b).toNat) (restack 1 []) (fun _ => rfl) (by omega)
      (by simp) (by simp) fun b r p hd hr _ => ⟨rfl, congrArg (fun y : Half => (y.toNat : Int)) (item_zero hd), restack_eq [] hd rfl hr⟩
  case br =>
    simpa only [brTest_eq] using transfers_lvBr (cl := cl) (m := m) d cc x l hl
  case underflow =>
    subst hb
    exact lvBr_underflow d cc hr hd ⟨h7, h12⟩
  case misses =>
    subst hb hn
    exact lvLoop_misses k hr hd hrs hk

end

/-! SUPPORT. Results and flags of arithmetic, logic, shifts and rotates (R256, R260 to R262). -/

namespace Sys2Proof.Machine

open Sys2Proof.Claims

/-! ### Commands that act on their bank alone -/

section
variable {cl m : Fin 16} {i : Instr}

/-- A command that acts on its context's bank alone, as it is stated for the items it takes. -/
theorem does_issueBank {w : Nat} {l q q' : List Half} {l' : Ctx → List Half} {f : Ctx → Ctx} (h : Shape) (g : Ctx → Ctx)
    (hi : ∀ s, exec i s = issueBank cl m h g s) (hw : h.words = w) (hw2 : w ≤ 2) (he : h.extra = 0)
    (hpop : h.pops = l.length) (hrpop : h.rpops = q.length) (hpush : ∀ k, (l' k).length = h.pushes)
    (hrpush : h.rpushes = q'.length)
    (hg : ∀ k r p, k.ds = l ++ r → k.rs = q ++ p → g k = { f k with ds := l' k ++ r, rs := q' ++ p }) :
    Does cl m i w l l' q q' f := by
  subst hw
  intro c s r p hr hd hq hdl hql
  rw [List.length_append, hpush] at hdl
  rw [List.length_append, ← hrpush] at hql
  have hf := fetchOnly_started (cl := cl) (m := m) (c := c) h s
  refine ⟨_, (hi s).trans (issue_of_ready hr hw2 he (stackTrap_of_fits hd hq hpop hrpop hdl hql) _),
    bankOnly_trans (hf.bankOnly c) (bankOnly_onCtx ..), ?_⟩
  rw [theCtx_onCtx_self, hf.theCtx_eq, advance_eq_past, hg _ r p hd hq]

variable {w : Nat} {sh : Option Short} {a b : Half} {r : Half → Half} {cf vf : Half → Option Bool}

theorem computes_unary (op : Half → Half → Half × Half)
    (hi : ∀ s, exec i s = issueBank cl m { pops := 1, pushes := 1, words := w, short := sh } (unary op) s) (hw : w ≤ 2)
    (hop : ∀ st, op a st = (r st, flagged (cf st) (vf st) (r st) st)) : Computes cl m i w [a] r cf vf := by
  refine does_issueBank _ (unary op) hi rfl hw rfl rfl rfl (fun _ => rfl) rfl fun k d p hd hp => ?_
  rw [unary, item_zero hd, hop]
  dsimp only
  rw [restack_eq (n := 1) _ hd rfl hp]

theorem computes_binary (op : Half → Half → Half → Half × Half)
    (hi : ∀ s, exec i s = issueBank cl m { pops := 2, pushes := 1, words := w, short := sh } (binary op) s) (hw : w ≤ 2)
    (hop : ∀ st, op a b st = (r st, flagged (cf st) (vf st) (r st) st)) : Computes cl m i w [b, a] r cf vf := by
  refine does_issueBank _ (binary op) hi rfl hw rfl rfl rfl (fun _ => rfl) rfl fun k d p hd hp => ?_
  rw [binary, item_eq (n := 0) hd rfl, item_eq (n := 1) hd rfl, hop]
  dsimp only
  rw [restack_eq (n := 2) _ hd rfl hp]

end

/-! ### Addition and subtraction (R262) -/

/-- A whole number is outside 16 signed bits where those bits do not hold it. -/
theorem outS16_eq (x : Int) : outS16 x = decide ((BitVec.ofInt 16 x).toInt ≠ x) := by
  unfold outS16
  rw [decide_eq_decide, BitVec.toInt_ofInt, Int.bmod_def]
  omega

theorem addF_eq (a b : Half) (c : Nat) (st : Half) : addF a b c st =
    (a + b + BitVec.ofNat 16 c, flagged (some (decide (0xFFFF < a.toNat + b.toNat + c))) (some (outS16 (a.toInt + b.toInt + c)))
      (a + b + BitVec.ofNat 16 c) st) := by
  have hr : BitVec.ofNat 16 (a.toNat + b.toNat + c) = a + b + BitVec.ofNat 16 c := by
    rw [BitVec.ofNat_add, BitVec.ofNat_add, BitVec.ofNat_toNat, BitVec.ofNat_toNat, BitVec.setWidth_eq, BitVec.setWidth_eq]
  unfold addF
  rw [hr]
  rfl

theorem ofInt_sub (x y : Int) : BitVec.ofInt 16 (x - y) = BitVec.ofInt 16 x - BitVec.ofInt 16 y := by
  rw [Int.sub_eq_add_neg, BitVec.ofInt_add, BitVec.ofInt_neg, BitVec.sub_eq_add_neg]

theorem subF_eq (a b : Half) (c : Nat) (st : Half) : subF a b c st =
    (a - b - BitVec.ofNat 16 c, flagged (some (decide (a.toNat < b.toNat + c))) (some (outS16 (a.toInt - b.toInt - c)))
      (a - b - BitVec.ofNat 16 c) st) := by
  have hr : BitVec.ofInt 16 (a.toInt - b.toInt - c) = a - b - BitVec.ofNat 16 c := by
    rw [ofInt_sub, ofInt_sub, BitVec.ofInt_toInt, BitVec.ofInt_toInt, BitVec.ofInt_natCast]
  unfold subF
  rw [hr]
  rfl

/-- a + b + k for a carry k: the flags say whether the result holds the unsigned and the signed sum. -/
theorem addF_carry (a b k st : Half) (hk : k.toNat ≤ 1) : addF a b k.toNat st =
    (a + b + k, flagged (some (decide ((a + b + k).toNat ≠ a.toNat + b.toNat + k.toNat)))
      (some (decide ((a + b + k).toInt ≠ a.toInt + b.toInt + k.toInt))) (a + b + k) st) := by
  have ha := a.isLt
  have hb := b.isLt
  have hk' : (k.toNat : Int) = k.toInt := by rw [BitVec.toInt_eq_toNat_cond, if_pos (by omega)]
  have hc : decide (0xFFFF < a.toNat + b.toNat + k.toNat) = decide ((a + b + k).toNat ≠ a.toNat + b.toNat + k.toNat) := by
    rw [decide_eq_decide, BitVec.toNat_add, BitVec.toNat_add]
    omega
  have hv : BitVec.ofInt 16 (a.toInt + b.toInt + k.toInt) = a + b + k := by
    rw [BitVec.ofInt_add, BitVec.ofInt_add, BitVec.ofInt_toInt, BitVec.ofInt_toInt, BitVec.ofInt_toInt]
  rw [addF_eq, BitVec.ofNat_toNat, BitVec.setWidth_eq, hc, hk', outS16_eq, hv]

/-- a − b − k for a borrow k: C where it must be borrowed, V where the result does not hold the signed difference. -/
theorem subF_borrow (a b k st : Half) (hk : k.toNat ≤ 1) : subF a b k.toNat st =
    (a - b - k, flagged (some (decide (a.toNat < b.toNat + k.toNat)))
      (some (decide ((a - b - k).toInt ≠ a.toInt - b.toInt - k.toInt))) (a - b - k) st) := by
  have hk' : (k.toNat : Int) = k.toInt := by rw [BitVec.toInt_eq_toNat_cond, if_pos (by omega)]
  have hv : BitVec.ofInt 16 (a.toInt - b.toInt - k.toInt) = a - b - k := by
    rw [ofInt_sub, ofInt_sub, BitVec.ofInt_toInt, BitVec.ofInt_toInt, BitVec.ofInt_toInt]
  rw [subF_eq, BitVec.ofNat_toNat, BitVec.setWidth_eq, hk', outS16_eq, hv]

/-- The carry of ST as a number is 0 or 1. -/
theorem carry_toNat (st : Half) : (carry st).toNat = b2n (stC st) := by
  unfold carry b2n
  split <;> rfl

theorem carry_le_one (st : Half) : (carry st).toNat ≤ 1 := by
  unfold carry
  split <;> decide

theorem toInt_bounds (a : Half) : -32768 ≤ a.toInt ∧ a.toInt ≤ 32767 := by
  have h1 := BitVec.le_toInt a
  have h2 := BitVec.toInt_lt (x := a)
  norm_num at h1 h2
  omega

theorem incF_eq (a st : Half) : addF a 1 0 st =
    (a + 1, flagged (some (decide (a = 0xFFFF))) (some (decide (a = 0x7FFF))) (a + 1) st) := by
  have ha := a.isLt
  have hb := toInt_bounds a
  have hc : decide (0xFFFF < a.toNat + (1 : Half).toNat + 0) = decide (a = 0xFFFF) := by
    rw [decide_eq_decide, ← BitVec.toNat_inj]
    change 0xFFFF < a.toNat + 1 ↔ a.toNat = 65535
    omega
  have hv : outS16 (a.toInt + (1 : Half).toInt + (0 : Nat)) = decide (a = 0x7FFF) := by
    rw [outS16, decide_eq_decide, ← BitVec.toInt_inj, show (1 : Half).toInt = 1 from rfl, show (0x7FFF : Half).toInt = 32767 from rfl]
    omega
  rw [addF_eq, hc, hv, show a + 1 + BitVec.ofNat 16 0 = a + 1 from BitVec.add_zero _]

theorem decF_eq (a st : Half) : subF a 1 0 st =
    (a - 1, flagged (some (decide (a = 0))) (some (decide (a = 0x8000))) (a - 1) st) := by
  have hb := toInt_bounds a
  have hc : decide (a.toNat < (1 : Half).toNat + 0) = decide (a = 0) := by
    rw [decide_eq_decide, ← BitVec.toNat_inj]
    change a.toNat < 1 ↔ a.toNat = 0
    omega
  have hv : outS16 (a.toInt - (1 : Half).toInt - (0 : Nat)) = decide (a = 0x8000) := by
    rw [outS16, decide_eq_decide, ← BitVec.toInt_inj, show (1 : Half).toInt = 1 from rfl, show (0x8000 : Half).toInt = -32768 from rfl]
    omega
  rw [subF_eq, hc, hv, show a - 1 - BitVec.ofNat 16 0 = a - 1 from BitVec.sub_zero _]

theorem negF_eq (a st : Half) : subF 0 a 0 st =
    (-a, flagged (some (decide (a ≠ 0))) (some (decide (a = 0x8000))) (-a) st) := by
  have hb := toInt_bounds a
  have hc : decide ((0 : Half).toNat < a.toNat + 0) = decide (a ≠ 0) := by
    rw [decide_eq_decide, Ne, ← BitVec.toNat_inj]
    change 0 < a.toNat ↔ ¬ a.toNat = 0
    omega
  have hv : outS16 ((0 : Half).toInt - a.toInt - (0 : Nat)) = decide (a = 0x8000) := by
    rw [outS16, decide_eq_decide, ← BitVec.toInt_inj, show (0 : Half).toInt = 0 from rfl, show (0x8000 : Half).toInt = -32768 from rfl]
    omega
  rw [subF_eq, hc, hv, show 0 - a - BitVec.ofNat 16 0 = -a from (BitVec.sub_zero _).trans (BitVec.zero_sub _)]

/-! ### Minimum, maximum, absolute value -/

theorem minS_eq (a b : Half) : minS a b = if a.slt b then a else b := by
  have h : a.toInt = b.toInt → a = b := BitVec.toInt_inj.mp
  unfold minS
  rw [BitVec.slt_eq_decide]
  grind

theorem maxS_eq (a b : Half) : maxS a b = if a.slt b then b else a := by
  have h : a.toInt = b.toInt → a = b := BitVec.toInt_inj.mp
  unfold maxS
  rw [BitVec.slt_eq_decide]
  grind

theorem minU_eq (a b : Half) : minU a b = BitVec.ofNat 16 (min a.toNat b.toNat) := by
  unfold minU
  split
  next h => rw [Nat.min_eq_left h, BitVec.ofNat_toNat, BitVec.setWidth_eq]
  next h => rw [Nat.min_eq_right (by omega), BitVec.ofNat_toNat, BitVec.setWidth_eq]

theorem maxU_eq (a b : Half) : maxU a b = BitVec.ofNat 16 (max a.toNat b.toNat) := by
  unfold maxU
  split
  next h => rw [Nat.max_eq_right h, BitVec.ofNat_toNat, BitVec.setWidth_eq]
  next h => rw [Nat.max_eq_left (by omega), BitVec.ofNat_toNat, BitVec.setWidth_eq]

theorem absF_eq (a st : Half) : absF a st =
    (if a.msb then -a else a, flagged none (some (decide (a = 0x8000))) (if a.msb then -a else a) st) := by
  have h : (if a.toInt < 0 then BitVec.ofInt 16 (-a.toInt) else a) = if a.msb then -a else a := by
    rw [BitVec.ofInt_neg, BitVec.ofInt_toInt, BitVec.msb_eq_toInt]
    simp
  unfold absF
  rw [h]
  rfl

/-! ### Counts of bits -/

/-- Leading zeros below bit n: the bits from n − 1 down to the highest one set. -/
theorem leadingZeros_eq {x : Nat} (n : Nat) (h : x < 2 ^ n) :
    (((List.range n).map (fun i => n - 1 - i)).takeWhile (fun i => !x.testBit i)).length =
      if x = 0 then n else n - 1 - x.log2 := by
  induction n with
  | zero => simp_all
  | succ n ih =>
    have hrest : (List.range (n + 1)).map (fun i => n + 1 - 1 - i) = n :: (List.range n).map (fun i => n - 1 - i) := by
      rw [List.range_succ_eq_map, List.map_cons, List.map_map]
      simp [Function.comp_def, Nat.sub_sub, Nat.add_comm]
    rw [hrest, List.takeWhile_cons]
    by_cases hx : x < 2 ^ n
    · rw [Nat.testBit_lt_two_pow hx, if_pos (by decide), List.length_cons, ih hx]
      split
      · rfl
      next h0 =>
        have := (Nat.log2_lt h0).mpr hx
        omega
    · have hlog : x.log2 = n := (Nat.log2_eq_iff (by omega)).mpr ⟨by omega, h⟩
      have hbit : x.testBit n = true := by
        rw [← hlog]
        exact Nat.testBit_log2 (by omega)
      rw [hbit, if_neg (by decide), hlog, if_neg (by rintro rfl; simp at hx)]
      simp

theorem clz16_eq (a : Half) : clz16 a = if a = 0 then 16 else BitVec.ofNat 16 (15 - a.toNat.log2) := by
  have h := leadingZeros_eq 16 a.isLt
  have h0 : a.toNat = 0 ↔ a = 0 := BitVec.toNat_inj (y := 0#16)
  simp only [h0] at h
  unfold clz16
  change BitVec.ofNat 16 _ = _
  simp only [BitVec.getLsbD]
  rw [show (fun i => 15 - i) = fun i => 16 - 1 - i from rfl, h]
  split <;> rfl

theorem length_filter_testBit (x : Nat) (l : List Nat) :
    (l.filter x.testBit).length = (l.map (fun i => x / 2 ^ i % 2)).sum := by
  induction l with
  | nil => rfl
  | cons i r ih =>
    rw [List.map_cons, List.sum_cons, ← ih, ← Nat.toNat_testBit]
    cases h : x.testBit i <;> simp [h, Nat.add_comm]

theorem popc16_eq (a : Half) : popc16 a = BitVec.ofNat 16 ((List.range 16).map (fun i => a.toNat / 2 ^ i % 2)).sum := by
  rw [← length_filter_testBit, popc16]
  rfl

end Sys2Proof.Machine

namespace Sys2Proof.Machine

open Sys2Proof.Claims

/-! ### Shifts and rotates (R261) -/

theorem bitN_eq_testBit (v i : Nat) : bitN v i = v.testBit i := by
  rw [Nat.testBit_eq_decide_div_mod_eq]
  rfl

theorem shlF_eq (a b st : Half) (n : Nat) (hn : n = b.toNat % 32) : shlF a b st = (a <<< n,
    flagged (if n = 0 then none else some ((a.zeroExtend 48 <<< n).getLsbD 16)) none (a <<< n) st) := by
  unfold shlF
  rw [← hn]
  dsimp only
  by_cases h : n = 0
  · rw [if_pos h, if_pos h, h, BitVec.shiftLeft_zero]
    rfl
  · have hr : (if n < 16 then a <<< n else 0) = a <<< n := by
      split
      · rfl
      · exact (BitVec.shiftLeft_eq_zero (by omega)).symm
    have hc : (decide (n ≤ 16) && bitN a.toNat (16 - n)) = (a.zeroExtend 48 <<< n).getLsbD 16 := by
      rw [bitN_eq_testBit, BitVec.getLsbD_shiftLeft, BitVec.getLsbD_setWidth]
      by_cases h16 : n ≤ 16
      · simp [h16, show 16 - n < 48 by omega, BitVec.getLsbD]
      · simp [h16, show 16 < n by omega]
    rw [if_neg h, if_neg h, hr, hc]
    rfl

theorem shrF_eq (a b st : Half) (n : Nat) (hn : n = b.toNat % 32) : shrF a b st = (a >>> n,
    flagged (if n = 0 then none else some (a.getLsbD (n - 1))) none (a >>> n) st) := by
  unfold shrF
  rw [← hn]
  dsimp only
  by_cases h : n = 0
  · rw [if_pos h, if_pos h, h, BitVec.ushiftRight_zero]
    rfl
  · have hr : (if n < 16 then a >>> n else 0) = a >>> n := by
      split
      · rfl
      · exact (BitVec.ushiftRight_eq_zero (by omega)).symm
    have hc : (decide (n ≤ 16) && bitN a.toNat (n - 1)) = a.getLsbD (n - 1) := by
      rw [bitN_eq_testBit]
      by_cases h16 : n ≤ 16
      · simp [h16, BitVec.getLsbD]
      · rw [BitVec.getLsbD_of_ge _ _ (by omega)]
        simp [h16]
    rw [if_neg h, if_neg h, hr, hc]
    rfl

theorem sarF_eq (a b st : Half) (n : Nat) (hn : n = b.toNat % 32) : sarF a b st = (a.sshiftRight n,
    flagged (if n = 0 then none else some ((a.signExtend 48).getLsbD (n - 1))) none (a.sshiftRight n) st) := by
  unfold sarF
  rw [← hn]
  dsimp only
  by_cases h : n = 0
  · rw [if_pos h, if_pos h, h, BitVec.sshiftRight_zero]
    rfl
  · have hr : (if n < 16 then a.sshiftRight n else if a.msb then 0xFFFF#16 else 0) = a.sshiftRight n := by
      split
      · rfl
      next h16 =>
        ext j hj
        rw [BitVec.getElem_sshiftRight, dif_neg (by omega)]
        cases a.msb
        · simp
        · exact BitVec.getElem_allOnes j hj
    have hc : (if n ≤ 16 then bitN a.toNat (n - 1) else a.msb) = (a.signExtend 48).getLsbD (n - 1) := by
      rw [bitN_eq_testBit, BitVec.getLsbD_signExtend, decide_eq_true (by omega), Bool.true_and]
      by_cases h16 : n ≤ 16
      · rw [if_pos h16, if_pos (by omega)]
        rfl
      · rw [if_neg h16, if_neg (by omega)]
    rw [if_neg h, if_neg h, hr, hc]
    rfl

theorem rolF_eq (a b st : Half) (n : Nat) (hn : n = b.toNat % 32) : rolF a b st =
    logicF ((a <<< (n % 16)) ||| (a >>> (16 - n % 16))) st := by
  have : n % 16 = b.toNat % 16 % 16 := by omega
  rw [rolF, BitVec.rotateLeft_def, this]

theorem rorF_eq (a b st : Half) (n : Nat) (hn : n = b.toNat % 32) : rorF a b st =
    logicF ((a >>> (n % 16)) ||| (a <<< (16 - n % 16))) st := by
  have : n % 16 = b.toNat % 16 % 16 := by omega
  rw [rorF, BitVec.rotateRight_def, this]

end Sys2Proof.Machine

section

open Sys2Proof Sys2Proof.Machine Sys2Proof.Claims

/-- Settles O35: each operation is its function of `Flags`, whose result and flags are proved as R260 to R262 give them. -/
theorem arithmeticSetsFlags : Obligations.ArithmeticSetsFlags := by
  intro cl m a b n hn keep
  have hnat : (0#16).toNat = 0 := rfl
  have hint : (0#16).toInt = 0 := rfl
  refine ⟨?add, ?adc, ?inc, ?sub, ?sbc, ?dec, ?neg, ?abs, ?and, ?or, ?xor, ?not, ?min, ?max, ?minu, ?maxu, ?clz, ?popc, ?shl, ?shr,
    ?sar, ?rol, ?ror⟩
  case add =>
    refine computes_binary _ (fun _ => rfl) (by omega) fun st => ?_
    simpa only [hnat, hint, BitVec.add_zero, Nat.add_zero, Int.add_zero] using addF_carry a b 0#16 st (by decide)
  case adc =>
    refine computes_binary _ (fun _ => rfl) (by omega) fun st => ?_
    rw [← carry_toNat, addF_carry _ _ _ _ (carry_le_one st)]
  case inc => exact computes_unary _ (fun _ => rfl) (by omega) (incF_eq a)
  case sub =>
    refine computes_binary _ (fun _ => rfl) (by omega) fun st => ?_
    simpa only [hnat, hint, BitVec.sub_zero, Nat.add_zero, Int.sub_zero] using subF_borrow a b 0#16 st (by decide)
  case sbc =>
    refine computes_binary _ (fun _ => rfl) (by omega) fun st => ?_
    rw [← carry_toNat, subF_borrow _ _ _ _ (carry_le_one st)]
  case dec => exact computes_unary _ (fun _ => rfl) (by omega) (decF_eq a)
  case neg => exact computes_unary _ (fun _ => rfl) (by omega) (negF_eq a)
  case abs => exact computes_unary _ (fun _ => rfl) (by omega) (absF_eq a)
  case and => exact computes_binary _ (fun _ => rfl) (by omega) fun _ => rfl
  case or => exact computes_binary _ (fun _ => rfl) (by omega) fun _ => rfl
  case xor => exact computes_binary _ (fun _ => rfl) (by omega) fun _ => rfl
  case not => exact computes_unary _ (fun _ => rfl) (by omega) fun _ => rfl
  case min => exact computes_binary _ (fun _ => rfl) (by omega) fun st => congrArg (logicF · st) (minS_eq a b)
  case max => exact computes_binary _ (fun _ => rfl) (by omega) fun st => congrArg (logicF · st) (maxS_eq a b)
  case minu => exact computes_binary _ (fun _ => rfl) (by omega) fun st => congrArg (logicF · st) (minU_eq a b)
  case maxu => exact computes_binary _ (fun _ => rfl) (by omega) fun st => congrArg (logicF · st) (maxU_eq a b)
  case clz => exact computes_unary _ (fun _ => rfl) (by omega) fun st => congrArg (logicF · st) (clz16_eq a)
  case popc => exact computes_unary _ (fun _ => rfl) (by omega) fun st => congrArg (logicF · st) (popc16_eq a)
  case shl => exact computes_binary _ (fun _ => rfl) (by omega) fun st => shlF_eq a b st n hn
  case shr => exact computes_binary _ (fun _ => rfl) (by omega) fun st => shrF_eq a b st n hn
  case sar => exact computes_binary _ (fun _ => rfl) (by omega) fun st => sarF_eq a b st n hn
  case rol => exact computes_binary _ (fun _ => rfl) (by omega) fun st => rolF_eq a b st n hn
  case ror => exact computes_binary _ (fun _ => rfl) (by omega) fun st => rorF_eq a b st n hn

end

/-! SUPPORT. The multiplier and the divider (R263 to R265, R321, R322). -/

namespace Sys2Proof.Machine

open Sys2Proof.Claims

/-! ### Bits of a number set and cleared -/

theorem testBit_add_two_pow {v i : Nat} (h : v.testBit i = false) (j : Nat) :
    (v + 2 ^ i).testBit j = (v.testBit j || decide (i = j)) := by
  obtain hj | rfl | hj := Nat.lt_trichotomy i j
  · obtain ⟨k, rfl⟩ := Nat.exists_eq_add_of_lt hj
    have hdiv : (v + 2 ^ i) / 2 ^ (i + 1) = v / 2 ^ (i + 1) := by
      have hb : v / 2 ^ i % 2 = 0 := by simpa [Nat.testBit_eq_decide_div_mod_eq] using h
      have hs : v / 2 ^ (i + 1) = v / 2 ^ i / 2 := by rw [Nat.pow_succ, Nat.div_div_eq_div_mul]
      rw [hs, Nat.pow_succ, ← Nat.div_div_eq_div_mul, Nat.add_div_right _ (by positivity)]
      omega
    have hshift : ∀ u : Nat, u.testBit (i + k + 1) = (u / 2 ^ (i + 1)).testBit k := fun u => by
      rw [Nat.testBit_div_two_pow]
      congr 1
      omega
    rw [hshift, hdiv, ← hshift, decide_eq_false (by omega), Bool.or_false]
  · rw [Nat.add_comm, Nat.testBit_two_pow_add_eq, h]
    simp
  · rw [Nat.add_comm, Nat.testBit_two_pow_add_gt hj, decide_eq_false (by omega), Bool.or_false]

theorem bitN_setBitN (v i j : Nat) : bitN (setBitN v i) j = (bitN v j || decide (i = j)) := by
  simp only [setBitN, bitN_eq_testBit]
  split
  next h =>
    by_cases hij : i = j
    · simp [← hij, h]
    · simp [hij]
  next h => exact testBit_add_two_pow (by simpa using h) j

theorem bitN_clrBitN (v i j : Nat) : bitN (clrBitN v i) j = (bitN v j && !decide (i = j)) := by
  simp only [clrBitN, bitN_eq_testBit]
  split
  next h =>
    have hle : 2 ^ i ≤ v := Nat.ge_two_pow_of_testBit h
    obtain ⟨w, rfl⟩ := Nat.exists_eq_add_of_le hle
    have hw : w.testBit i = false := by simpa [Nat.testBit_two_pow_add_eq] using h
    rw [Nat.add_sub_cancel_left, Nat.add_comm, testBit_add_two_pow hw]
    by_cases hij : i = j
    · simp [← hij, hw]
    · simp [hij]
  next h =>
    by_cases hij : i = j
    · simp [← hij, h]
    · simp [hij]

theorem bitN_foldl_setBitN (d : List Nat) (k v b : Nat) :
    bitN (d.foldl (fun v i => setBitN v (k + i)) v) b = (bitN v b || (d.contains (b - k) && decide (k ≤ b))) := by
  induction d generalizing v with
  | nil => simp
  | cons i r ih =>
    rw [List.foldl_cons, ih, bitN_setBitN, List.contains_cons]
    have : decide (k + i = b) = ((b - k == i) && decide (k ≤ b)) := by
      rw [beq_eq_decide, ← Bool.decide_and, decide_eq_decide]
      omega
    rw [this]
    cases bitN v b <;> cases decide (k ≤ b) <;> simp

/-! ### The claim of MR (R321, R322) -/

/-- What a claim of MR by context c, which writes the parts `d` of it, makes of a cell in the mode of `s`. -/
structure Claimed (c : Nat) (d : List Nat) (s : State) (x y : Cell) : Prop where
  mr : y.mr = mrFound c x s
  owner : y.owner = some c
  live : y.live = true
  valid : ∀ b, bitN y.valid b = if b = c then (bitN x.valid b && lazyMr s && claimsFree c x s)
    else (bitN x.valid b || (!claimsFree c x s && x.live && x.owner == some b))
  save : ∀ b, Sparse.get 0 y.save b = if !claimsFree c x s && x.live && x.owner == some b then x.mr else Sparse.get 0 x.save b
  mrsave : y.mrsave = if !claimsFree c x s && x.live then min 0xFFFF (x.mrsave + 1) else x.mrsave
  dirty : ∀ b, bitN y.dirty b = (bitN x.dirty b || (!lazyMr s && d.contains (b - 3 * c) && decide (3 * c ≤ b)))
  rest : y = { x with idleSince := y.idleSince, fetch := y.fetch, mr := y.mr, owner := y.owner, live := y.live
                      valid := y.valid, save := y.save, dirty := y.dirty, mrsave := y.mrsave }

theorem claimed_claimMr (cl m c : Nat) (s : State) : Claimed c [] s (cellOf cl m s) (cellOf cl m (claimMr cl m c s)) := by
  unfold claimMr
  by_cases hl : lazyMr s = true
  · rw [if_pos hl, cellOf_onCell]
    generalize cellOf cl m s = x
    by_cases ho : x.owner = some c ∨ x.owner = none
    · have hfree : claimsFree c x s = true := by
        unfold claimsFree
        obtain h | h := ho <;> simp [h]
      rw [if_pos ho]
      constructor <;> simp [mrFound, hfree, hl]
    · obtain ⟨o, hoe⟩ : ∃ o, x.owner = some o := Option.ne_none_iff_exists'.mp fun h => ho (.inr h)
      have hoc : o ≠ c := fun h => ho (.inl (h ▸ hoe))
      have hfree : claimsFree c x s = false := by simp [claimsFree, hl, hoe, hoc]
      have hsaved : bitN (setBitN x.valid o) c = bitN x.valid c := by rw [bitN_setBitN, decide_eq_false hoc, Bool.or_false]
      rw [if_neg ho, hoe, Option.getD_some]
      cases hlive : x.live <;> cases hv : bitN x.valid c <;> constructor
      case false.false.valid | false.true.valid | true.false.valid | true.true.valid =>
        intro b
        by_cases hb : b = c
        · simp [hb, hfree, hsaved, hv, hlive, bitN_clrBitN]
        · simp [hb, Ne.symm hb, hfree, hsaved, hv, hlive, bitN_clrBitN, bitN_setBitN, hoe, beq_eq_decide]
      case false.false.save | false.true.save | true.false.save | true.true.save =>
        intro b
        by_cases hb : b = o
        · simp [hb, hfree, hsaved, hv, hlive, hoe]
        · simp [hb, Ne.symm hb, hfree, hsaved, hv, hlive, hoe]
      all_goals simp [mrFound, hfree, hsaved, hv, hlive, hoc.symm]
  · rw [if_neg hl, cellOf_onCell]
    generalize cellOf cl m s = x
    have hfree : claimsFree c x s = true := by simp [claimsFree, hl]
    constructor
    case valid =>
      intro b
      by_cases hb : b = c
      · simp [bitN_clrBitN, hb, hl]
      · simp [bitN_clrBitN, hb, Ne.symm hb, hfree]
    all_goals simp [mrFound, hfree]

theorem localTo_claimMr (cl m c : Nat) (s : State) : LocalTo cl m s (claimMr cl m c s) := by
  unfold claimMr
  split <;> exact localTo_onCell ..

theorem localTo_markDirty (cl m c : Nat) (d : List Nat) (s : State) : LocalTo cl m s (markDirty cl m c d s) := by
  unfold markDirty
  split
  · exact .refl cl m s
  · exact localTo_onCell ..

/-- The parts written are marked in the modes that keep dirty bits (R322). -/
theorem Claimed.markDirty {cl m c : Nat} {s t : State} {x : Cell} (d : List Nat) (h : Claimed c [] s x (cellOf cl m t))
    (hl : lazyMr t = lazyMr s) : Claimed c d s x (cellOf cl m (markDirty cl m c d t)) := by
  obtain ⟨mr, owner, live, valid, save, mrsave, dirty, rest⟩ := h
  unfold Machine.markDirty
  by_cases hz : lazyMr s = true
  · rw [if_pos (hl.trans hz)]
    exact ⟨mr, owner, live, valid, save, mrsave, by simpa [hz] using dirty, rest⟩
  · rw [if_neg (hl ▸ hz), cellOf_onCell]
    refine ⟨mr, owner, live, valid, save, mrsave, fun b => ?_, by rw [rest]⟩
    rw [bitN_foldl_setBitN, dirty]
    simp [hz]

/-- A claim reads of the cell neither the fetch side nor the idle count. -/
theorem Claimed.of_fetchOnly {cl m c : Nat} {d : List Nat} {s t : State} {y : Cell} (hf : FetchOnly cl m s t)
    (h : Claimed c d t (cellOf cl m t) y) : Claimed c d s (cellOf cl m s) y := by
  obtain ⟨i, f, e⟩ := hf.cell
  rw [e] at h
  generalize cellOf cl m s = x at h
  have hfree : claimsFree c { x with idleSince := i, fetch := f } t = claimsFree c x s := by
    rw [claimsFree, hf.lazyMr_eq, claimsFree]
  have hmr : mrFound c { x with idleSince := i, fetch := f } t = mrFound c x s := by rw [mrFound, hfree, mrFound]
  obtain ⟨mr, owner, live, valid, save, mrsave, dirty, rest⟩ := h
  rw [hfree] at save mrsave
  rw [hfree, hf.lazyMr_eq] at valid
  rw [hf.lazyMr_eq] at dirty
  exact ⟨mr.trans hmr, owner, live, valid, save, mrsave, dirty, rest⟩

/-! ### Commands that claim MR -/

/-- The bank of context c and MR after `f`, the PC advanced. -/
def mrStep (h : Shape) (c : Nat) (f : Ctx → BitVec 40 → Ctx × BitVec 40) (x : Cell) : Cell :=
  let (k, v) := f (ctxOf x c) x.mr
  putCtx c (advance h k) { x with mr := v }

theorem issueMr_eq (cl m : Nat) (h : Shape) (mul : Bool) (d : List Nat) (f : Ctx → BitVec 40 → Ctx × BitVec 40) (s : State) :
    issueMr cl m h mul d f s = issue cl m h s (fun c s => .next (onCell cl m (mrStep h c f)
      (markDirty cl m c d (claimMr cl m c (if mul then mulIssued cl m s else mulWait cl m s))))) := rfl

theorem fetchOnly_mulPace (cl m : Nat) (mul : Bool) (s : State) :
    FetchOnly cl m s (if mul then mulIssued cl m s else mulWait cl m s) := by
  split
  · exact fetchOnly_mulIssued s
  · exact fetchOnly_mulWait s

section
variable {cl m : Fin 16} {i : Instr}

/-- A command of one word that claims MR, as it is stated for the items it takes. -/
theorem multiplies_issueMr {l : List Half} {l' : BitVec 40 → List Half} {g : BitVec 40 → BitVec 40} {d : List Nat}
    {f : BitVec 40 → Half → Half} {n : Nat} (mul : Bool) (F : Ctx → BitVec 40 → Ctx × BitVec 40)
    (hi : ∀ s, exec i s = issueMr cl m { pops := l.length, pushes := n, words := 1 } mul d F s) (hn : ∀ v, (l' v).length = n)
    (hF : ∀ k r v, k.ds = l ++ r → F k v = ({ k with ds := l' v ++ r, st := f v k.st }, g v)) :
    Multiplies cl m i l l' g d f := by
  intro c s r k x v hk hx hv hr hd hdl hrs
  rw [List.length_append, hn] at hdl
  have hfit : stackTrap { pops := l.length, pushes := n, words := 1 } k = none :=
    stackTrap_of_fits (q := []) hd rfl rfl rfl hdl (by simpa using hrs)
  rw [hk] at hfit
  have hs := (fetchOnly_started (cl := cl) (m := m) (c := c) { pops := l.length, pushes := n, words := 1 } s).trans
    (fetchOnly_mulPace cl m mul _)
  rw [hi, issueMr_eq, issue_of_ready hr (le_of_lt Nat.one_lt_two) rfl hfit]
  generalize (if mul then mulIssued cl m (started cl m c _ s) else mulWait cl m (started cl m c _ s)) = u at hs
  have hcl := localTo_claimMr cl m c u
  obtain ⟨hmr, howner, hlive, hvalid, hsave, hmrsave, hdirty, hrest⟩ :=
    ((claimed_claimMr cl m c u).markDirty d hcl.lazyMr_eq).of_fetchOnly hs
  have hloc := (hs.toLocalTo.trans hcl).trans (localTo_markDirty cl m c d _)
  generalize markDirty cl m c d (claimMr cl m c u) = w at *
  rw [← hx] at hmr hvalid hsave hmrsave hrest hdirty
  rw [← hv] at hmr
  have hctx : ∀ b, ctxOf (cellOf cl m w) b = ctxOf x b := fun b => by rw [hrest]; rfl
  have hstep : mrStep { pops := l.length, pushes := n, words := 1 } c F (cellOf cl m w) =
      putCtx c (past 1 { k with ds := l' v ++ r, st := f v k.st }) { cellOf cl m w with mr := g v } := by
    rw [mrStep, hctx, hmr, hx, ← theCtx, ← hk, hF k r v hd]
    dsimp only
    rw [advance_eq_past]
  have hcell : cellOf cl m (onCell cl m (mrStep { pops := l.length, pushes := n, words := 1 } c F) w) = _ := cellOf_onCell ..
  have hother : ∀ b, theCtx cl m b (onCell cl m (mrStep { pops := l.length, pushes := n, words := 1 } c F) w) = _ :=
    fun b => theCtx_onCell ..
  rw [hstep] at hcell
  simp only [hstep] at hother
  refine ⟨_, rfl, (hloc.trans (localTo_onCell ..)).cellOnly fun b hb => ?_, (hother c).trans (ctxOf_putCtx_self ..), ?_⟩
  · rw [hother, ctxOf_putCtx_other _ _ hb, theCtx, ← hx, ← hctx]
    rfl
  · rw [hcell]
    exact ⟨rfl, howner, hlive, fun b _ => hvalid b, hsave, hmrsave, fun b _ => hdirty b, by rw [hrest]; rfl⟩

end

end Sys2Proof.Machine

namespace Sys2Proof.Machine

open Sys2Proof.Claims

theorem pushD_eq {k : Ctx} {r : List Half} (x : Half) (hd : k.ds = r) : pushD x k = { k with ds := [x] ++ r, st := k.st } := by
  subst hd
  rfl

/-! ### Products and the parts of MR (R263) -/

theorem mulS_eq (a b : Half) : mulS a b = a.signExtend 40 * b.signExtend 40 := by
  rw [mulS, BitVec.ofInt_mul]
  rfl

theorem mulU_eq (a b : Half) : mulU a b = a.zeroExtend 40 * b.zeroExtend 40 := by
  rw [mulU, BitVec.ofNat_mul, BitVec.ofNat_toNat, BitVec.ofNat_toNat]

theorem putMr_low (v : BitVec 40) (a : Half) : putMr v 0 16 a = v.extractLsb' 16 24 ++ a := by
  apply BitVec.eq_of_toNat_eq
  have hv := v.isLt
  have ha := a.isLt
  rw [putMr, bitsN, BitVec.toNat_append, BitVec.toNat_ofNat, BitVec.extractLsb'_toNat, ← Nat.shiftLeft_add_eq_or_of_lt ha,
    Nat.shiftLeft_eq, Nat.shiftRight_eq_div_pow]
  omega

theorem putMr_middle (v : BitVec 40) (a : Half) : putMr v 16 16 a = v.extractLsb' 32 8 ++ a ++ v.extractLsb' 0 16 := by
  apply BitVec.eq_of_toNat_eq
  have hv := v.isLt
  have ha := a.isLt
  have hl : v.toNat % 2 ^ 16 < 2 ^ 16 := Nat.mod_lt _ (by decide)
  rw [putMr, bitsN, BitVec.toNat_append, BitVec.toNat_append, BitVec.toNat_ofNat, BitVec.extractLsb'_toNat,
    BitVec.extractLsb'_toNat, ← Nat.shiftLeft_add_eq_or_of_lt ha, Nat.shiftRight_zero, ← Nat.shiftLeft_add_eq_or_of_lt hl,
    Nat.shiftLeft_eq, Nat.shiftLeft_eq, Nat.shiftRight_eq_div_pow]
  omega

theorem putMr_high (v : BitVec 40) (a : Half) : putMr v 32 8 a = a.extractLsb' 0 8 ++ v.extractLsb' 0 32 := by
  apply BitVec.eq_of_toNat_eq
  have hv := v.isLt
  have ha := a.isLt
  have hl : v.toNat % 2 ^ 32 < 2 ^ 32 := Nat.mod_lt _ (by decide)
  rw [putMr, bitsN, BitVec.toNat_append, BitVec.toNat_ofNat, BitVec.extractLsb'_toNat, BitVec.extractLsb'_toNat,
    Nat.shiftRight_zero, Nat.shiftRight_zero, ← Nat.shiftLeft_add_eq_or_of_lt hl, Nat.shiftLeft_eq]
  omega

/-! ### RND (R263) -/

theorem satS_eq (x : Int) : satS 16 x = max (-32768) (min 32767 x) := by
  unfold satS clampI
  norm_num
  grind

/-- RND n: the whole number at or below (MR + 2^(n−1)) ÷ 2^n, saturated. -/
theorem rndF_eq (v : BitVec 40) (n : Nat) (q : Int) (st : Half) (h0 : n = 0 → q = v.toInt)
    (hn : n ≠ 0 → 2 ^ n * q ≤ v.toInt + 2 ^ (n - 1) ∧ v.toInt + 2 ^ (n - 1) < 2 ^ n * (q + 1)) : rndF v n st =
    (BitVec.ofInt 16 (max (-32768) (min 32767 q)),
      flagged none (some (decide (q < -32768 ∨ 32767 < q))) (BitVec.ofInt 16 (max (-32768) (min 32767 q))) st) := by
  have hq : (if n = 0 then v.toInt else fdiv (v.toInt + (2 ^ (n - 1) : Nat)) (2 ^ n : Nat)) = q := by
    split
    next h => exact (h0 h).symm
    next h =>
      obtain ⟨h1, h2⟩ := hn h
      rw [fdiv, Int.fdiv_eq_ediv_of_nonneg _ (by positivity)]
      push_cast
      have hlow := Int.le_ediv_of_mul_le (by positivity) ((Int.mul_comm _ _).trans_le h1)
      have hhigh := Int.ediv_lt_of_lt_mul (by positivity) (h2.trans_eq (Int.mul_comm _ _))
      omega
  unfold rndF
  rw [hq]
  dsimp only
  rw [satS_eq]
  rfl

/-! ### The divider (R264, R265) -/

theorem getLsbD_stPut (i : Nat) (b : Bool) (st : Half) (k : Nat) :
    (stPut i b st).getLsbD k = if k = i ∧ k < 16 then b else st.getLsbD k := by
  unfold stPut
  rw [BitVec.getLsbD_or, BitVec.getLsbD_and, BitVec.getLsbD_not, BitVec.getLsbD_ofNat, BitVec.getLsbD_ofNat, Nat.testBit_two_pow]
  by_cases hk : k < 16
  · by_cases hi : i = k
    · cases b <;> simp [hk, hi]
    · cases b <;> simp [hk, hi, Ne.symm hi]
  · rw [BitVec.getLsbD_of_ge _ _ (by omega)]
    simp [hk]

/-- Two flags are written in either order. -/
theorem stPut_comm {i j : Nat} (h : i ≠ j) (a b : Bool) (st : Half) : stPut i a (stPut j b st) = stPut j b (stPut i a st) := by
  apply BitVec.eq_of_getLsbD_eq
  intro k hk
  simp only [getLsbD_stPut]
  by_cases hi : k = i
  · simp [hi, h]
  · simp [hi]

/-- DZ is written before or after the other flags. -/
theorem flagged_setDZ (z : Bool) (v : Bool) (r st : Half) :
    flagged none (some v) r (setDZ z st) = setDZ z (flagged none (some v) r st) := by
  change stPut 2 _ (stPut 1 v (stPut 3 z st)) = stPut 3 z (stPut 2 _ (stPut 1 v st))
  rw [stPut_comm (by decide) v z, stPut_comm (by decide) _ z]

theorem toNat_append (a b : Half) : (a ++ b).toNat = a.toNat * 65536 + b.toNat := by
  rw [BitVec.toNat_append, ← Nat.shiftLeft_add_eq_or_of_lt b.isLt, Nat.shiftLeft_eq]

theorem toInt_append (a b : Half) : sext 32 (a.toNat * 65536 + b.toNat) = (a ++ b).toInt := by
  have hb := b.isLt
  have ha := a.isLt
  rw [BitVec.toInt_eq_toNat_cond, toNat_append, sext, Nat.mod_eq_of_lt (by omega)]
  split <;> split <;> omega

theorem divS_of_ne_zero (lo hi d st : Half) (x y : Int) (hx : x = (hi ++ lo).toInt) (hd : d ≠ 0) (hy : y = x.tdiv d.toInt) :
    divS lo hi d st = (BitVec.ofInt 16 y, BitVec.ofInt 16 (x - y * d.toInt),
      setDZ false (flagged none (some (decide (y < -32768 ∨ 32767 < y))) (BitVec.ofInt 16 y) st)) := by
  unfold divS
  rw [toInt_append, if_neg hd, ← hx, ← hy, ← flagged_setDZ]
  rfl

theorem divU_of_ne_zero (lo hi d st : Half) (x : Nat) (hx : x = (hi ++ lo).toNat) (hd : d ≠ 0) :
    divU lo hi d st = (BitVec.ofNat 16 (x / d.toNat), BitVec.ofNat 16 (x % d.toNat),
      setDZ false (flagged none (some (decide (65535 < x / d.toNat))) (BitVec.ofNat 16 (x / d.toNat)) st)) := by
  unfold divU
  rw [← toNat_append, if_neg hd, ← hx, ← flagged_setDZ]
  rfl

/-- The flags after a division by zero: DZ set, V and Z clear. -/
theorem flags_of_zero (st : Half) : (st |> setDZ true |> setV false |> setZ 1) = setDZ true (setV false (stPut 2 false st)) := by
  change stPut 2 false (stPut 1 false (stPut 3 true st)) = stPut 3 true (stPut 1 false (stPut 2 false st))
  rw [stPut_comm (by decide) false true, stPut_comm (by decide) false true, stPut_comm (by decide) false false]

theorem divS_zero (lo hi st : Half) : divS lo hi 0 st =
    (if hi.msb then 0x8000 else 0x7FFF, lo, setDZ true (setV false (stPut 2 false st))) := by
  have hneg : 0 ≤ (hi ++ lo).toInt ↔ hi.msb = false := by
    have hmsb : (hi ++ lo).msb = hi.msb := by rw [BitVec.msb_append, if_neg (by decide)]
    rw [← hmsb, BitVec.msb_eq_toInt, decide_eq_false_iff_not, Int.not_lt]
  unfold divS
  rw [toInt_append, if_pos rfl, ← flags_of_zero]
  simp only [hneg]
  cases hi.msb <;> rfl

theorem divU_zero (lo hi st : Half) : divU lo hi 0 st = (0xFFFF, lo, setDZ true (setV false (stPut 2 false st))) := by
  unfold divU
  rw [if_pos rfl, ← flags_of_zero]
  rfl

/-- A division leaves remainder and quotient and its flags, and goes on; DIVZ follows it where DZT asks for it. -/
theorem divide_cases {cl m c : Nat} {s : State} {d hi lo q rem st : Half} {r : List Half}
    {f : Half → Half → Half → Half → Half × Half × Half} (hd : (theCtx cl m c s).ds = [d, hi, lo] ++ r)
    (hf : f lo hi d (theCtx cl m c s).st = (q, rem, st)) :
    ∃ u, BankOnly cl m c s u ∧
      theCtx cl m c u = past 1 { theCtx cl m c s with ds := [rem, q] ++ r, st := st } ∧
      divide cl m c f s = if d = 0 ∧ stDZT (theCtx cl m c s).st then trapHere cl m c trapDIVZ 0 u else u := by
  refine ⟨onCtx cl m c (advance { words := 1 }) (onCtx cl m c (fun k => { restack 3 [rem, q] k with st := st }) s),
    bankOnly_trans (bankOnly_onCtx ..) (bankOnly_onCtx ..), ?_, ?_⟩
  · rw [theCtx_onCtx_self, theCtx_onCtx_self, advance_eq_past, restack_eq (n := 3) _ hd rfl rfl]
  · rw [divide, item_eq (n := 0) hd rfl, item_eq (n := 1) hd rfl, item_eq (n := 2) hd rfl, hf]
    rfl

section
variable {cl m : Fin 16} {i : Instr} {hi lo q rem : Half} {f : Half → Half → Half → Half → Half × Half × Half}

/-- A division by another number than 0, as it is stated for its items. -/
theorem does_divide {d : Half} {g : Half → Half}
    (hx : ∀ s, exec i s = issue cl m { pops := 3, pushes := 2, words := 1 } s (fun c s => .next (divide cl m c f s)))
    (hd : d ≠ 0) (hf : ∀ st, f lo hi d st = (q, rem, g st)) :
    Does cl m i 1 [d, hi, lo] (fun _ => [rem, q]) [] [] (fun k => { k with st := g k.st }) := by
  intro c s r p hr hds hrs hlen hp
  have hs := fetchOnly_started (cl := cl) (m := m) (c := c) { pops := 3, pushes := 2, words := 1 } s
  rw [hx, issue_of_ready hr (by decide) rfl (stackTrap_of_fits hds hrs rfl rfl ((Nat.add_comm 2 _).trans_le hlen) (by simpa using hp))]
  generalize started cl m c { pops := 3, pushes := 2, words := 1 } s = w at hs
  rw [← hs.theCtx_eq c] at hds hrs ⊢
  obtain ⟨u, hu, hctx, he⟩ := divide_cases hds (hf _)
  rw [if_neg fun h => hd h.1] at he
  refine ⟨u, congrArg _ he, bankOnly_trans (hs.bankOnly c) hu, hctx.trans ?_⟩
  exact congrArg _ (eq_with_stacks rfl hrs)

/-- A division by 0: its result stands, and DIVZ follows where DZT is set (R265, R277). -/
theorem divide_by_zero
    (hx : ∀ s, exec i s = issue cl m { pops := 3, pushes := 2, words := 1 } s (fun c s => .next (divide cl m c f s)))
    (hf : ∀ st, f lo hi 0 st = (q, lo, setDZ true (setV false (stPut 2 false st)))) {c : Nat} {s : State} {r : List Half} {k u : Ctx}
    (hk : k = theCtx cl m c s) (hr : Ready cl m 1 c s) (hds : k.ds = 0 :: hi :: lo :: r) (hlen : k.ds.length ≤ 16)
    (hrs : k.rs.length ≤ 16)
    (hu : u = past 1 { k with ds := lo :: q :: r, st := setDZ true (setV false (stPut 2 false k.st)) }) :
    (stDZT k.st = false → ∃ t, exec i s = .next t ∧ BankOnly cl m c s t ∧ theCtx cl m c t = u) ∧
    (stDZT k.st = true → ∃ t t', exec i s = .next t ∧ BankOnly cl m c s t' ∧ theCtx cl m c t' = u ∧
      Traps cl m c 8 u.pc u.slot 0 t' t) := by
  have hs := fetchOnly_started (cl := cl) (m := m) (c := c) { pops := 3, pushes := 2, words := 1 } s
  have hfit : stackTrap { pops := 3, pushes := 2, words := 1 } k = none :=
    stackTrap_of_fits (l := [0, hi, lo]) (q := []) hds rfl rfl rfl (by simp [hds] at hlen ⊢; omega) (by simpa using hrs)
  rw [hk] at hfit
  rw [hx, issue_of_ready hr (by decide) rfl hfit]
  generalize started cl m c { pops := 3, pushes := 2, words := 1 } s = w at hs
  have hkw : k = theCtx cl m c w := hk.trans (hs.theCtx_eq c).symm
  rw [hkw] at hds
  obtain ⟨t, hb, hctx, he⟩ := divide_cases (d := 0) (hi := hi) (lo := lo) (r := r) hds (hf _)
  rw [← hkw] at hctx he
  have hbs := bankOnly_trans (hs.bankOnly c) hb
  have htu : theCtx cl m c t = u := hctx.trans hu.symm
  refine ⟨fun hz => ⟨t, ?_, hbs, htu⟩, fun hz => ⟨_, t, rfl, hbs, htu, ?_⟩⟩
  · rw [he, if_neg (by simp [hz])]
  · have hrun : (cellOf cl m t).running = some c := by
      obtain ⟨-, hcell⟩ := hbs
      rw [hcell]
      exact running_of_ready hr
    rw [he, if_pos ⟨rfl, hz⟩, ← htu]
    exact traps_trapHere m.isLt (.refl cl m t) hrun ..

end

/-! ### The three kinds of commands on MR -/

section
variable {cl m : Fin 16} {i : Instr}

/-- A command that takes two items and puts their product, joined by `g`, into MR. -/
theorem multiplies_product {a b : Half} {p : BitVec 40} {op : Half → Half → BitVec 40} {g : BitVec 40 → BitVec 40 → BitVec 40}
    (hi : ∀ s, exec i s = issueMr cl m { pops := 2, words := 1 } true [0, 1, 2]
      (fun k v => (restack 2 [] k, g v (op (item 1 k) (item 0 k)))) s) (hp : op a b = p) :
    Multiplies cl m i [b, a] (fun _ => []) (fun v => g v p) [0, 1, 2] (fun _ st => st) := by
  refine multiplies_issueMr (n := 0) true _ hi (fun _ => rfl) fun k r v hd => ?_
  rw [item_eq (n := 0) hd rfl, item_eq (n := 1) hd rfl, hp, restack_eq (n := 2) [] hd rfl rfl]

/-- A command that pushes what it reads of MR. -/
theorem multiplies_read {f : BitVec 40 → Half → Half × Half} {x : BitVec 40 → Half} {w : BitVec 40 → Half → Half}
    (hi : ∀ s, exec i s = issueMr cl m { pushes := 1, words := 1 } false []
      (fun k v => ({ pushD (f v k.st).1 k with st := (f v k.st).2 }, v)) s) (hf : ∀ v st, f v st = (x v, w v st)) :
    Multiplies cl m i [] (fun v => [x v]) id [] w := by
  refine multiplies_issueMr (n := 1) false _ hi (fun _ => rfl) fun k r v hd => ?_
  rw [hf, pushD_eq _ hd]
  rfl

/-- A command that takes an item into a part of MR. -/
theorem multiplies_write {a : Half} {d : List Nat} {op : BitVec 40 → Half → BitVec 40} {g : BitVec 40 → BitVec 40}
    (hi : ∀ s, exec i s = issueMr cl m { pops := 1, words := 1 } false d (fun k v => (restack 1 [] k, op v (item 0 k))) s)
    (hg : ∀ v, op v a = g v) : Multiplies cl m i [a] (fun _ => []) g d (fun _ st => st) := by
  refine multiplies_issueMr (n := 0) false _ hi (fun _ => rfl) fun k r v hd => ?_
  rw [item_zero hd, hg, restack_eq (n := 1) [] hd rfl rfl]

end

end Sys2Proof.Machine

section

open Sys2Proof Sys2Proof.Machine Sys2Proof.Claims

/-- Settles O36: each command is an `issueMr` or a `divide`, whose results are proved as R263 to R265 give them. -/
theorem productsAndQuotients : Obligations.ProductsAndQuotients := by
  intro cl m a b ps pu none_ keep
  have hps : mulS a b = ps := mulS_eq a b
  have hpu : mulU a b = pu := mulU_eq a b
  clear_value ps pu
  refine ⟨?mul, ?mulu, ?mac, ?macu, ?msu, ?clrm, ?fromMrl, ?fromMrh, ?fromMrg, ?toMrl, ?toMrh, ?toMrg, fun n q h0 hn => ?rnd,
    fun d x y hx hd hy => ?div, fun d x hx hd => ?divu, fun i q hi c s r k u hk hr hds hlen hrs hu => ?zero⟩
  case mul => exact multiplies_product (g := fun _ p => p) (fun _ => rfl) hps
  case mulu => exact multiplies_product (g := fun _ p => p) (fun _ => rfl) hpu
  case mac => exact multiplies_product (g := fun v p => v + p) (fun _ => rfl) hps
  case macu => exact multiplies_product (g := fun v p => v + p) (fun _ => rfl) hpu
  case msu => exact multiplies_product (g := fun v p => v - p) (fun _ => rfl) hps
  case clrm =>
    exact multiplies_issueMr (n := 0) false (fun k _ => (k, 0)) (fun _ => rfl) (fun _ => rfl) fun k r v hd =>
      Prod.ext (eq_with_stacks hd rfl) rfl
  case fromMrl => exact multiplies_read (f := fun v st => (mrl v, st)) (fun _ => rfl) fun _ _ => rfl
  case fromMrh => exact multiplies_read (f := fun v st => (mrh v, st)) (fun _ => rfl) fun _ _ => rfl
  case fromMrg => exact multiplies_read (f := fun v st => (mrg v, st)) (fun _ => rfl) fun _ _ => rfl
  case toMrl => exact multiplies_write (op := fun v x => putMr v 0 16 x) (fun _ => rfl) fun v => putMr_low v a
  case toMrh => exact multiplies_write (op := fun v x => putMr v 16 16 x) (fun _ => rfl) fun v => putMr_middle v a
  case toMrg => exact multiplies_write (op := fun v x => putMr v 32 8 x) (fun _ => rfl) fun v => putMr_high v a
  case rnd =>
    exact multiplies_read (f := fun v st => rndF v n.val st) (fun _ => rfl) fun v st => rndF_eq v n.val (q v) st (h0 v) (hn v)
  case div => exact does_divide (fun _ => rfl) hd fun st => divS_of_ne_zero b a d st x y hx hd hy
  case divu => exact does_divide (fun _ => rfl) hd fun st => divU_of_ne_zero b a d st x hx hd
  case zero =>
    obtain ⟨rfl, rfl⟩ | ⟨rfl, rfl⟩ := hi
    · exact divide_by_zero (fun _ => rfl) (divS_zero b a) hk hr hds hlen hrs hu
    · exact divide_by_zero (fun _ => rfl) (divU_zero b a) hk hr hds hlen hrs hu

end
